-- ==== Sys2Proof/Word.lean ====
section
/-! DEFINITION. The words of the Trelavo 8840: bytes, 32-bit containers, 64-bit registers, label sets, and their plainest
arithmetic (R2, R193). -/

namespace Sys2Proof

/-- One byte of any memory (R2). -/
abbrev Byte := BitVec 8
/-- A vector container, an instruction word, a ring count (R24, R35, R87). -/
abbrev W32 := BitVec 32
/-- A scalar register, a CSR, a virtual address (R14, R180). -/
abbrev W64 := BitVec 64
/-- A label: the set of origin slots, slot `s` at bit `s`; slot 0 is never a member (R193, R194). -/
abbrev Label := BitVec 256

/-- Join: the union of two origin sets (R7, R194). -/
def Label.join (a b : Label) : Label := a ||| b
/-- The subset rule of R201. -/
def Label.sub (a b : Label) : Bool := a &&& b == a
/-- The interner clears slot 0 from every set it is given (R193). -/
def Label.clear0 (a : Label) : Label := a &&& ~~~(1#256)
/-- The label of one origin slot; the public slot gives the empty label (R193). -/
def Label.ofSlot (n : Nat) : Label := Label.clear0 (BitVec.ofNat 256 (2 ^ n))
/-- The empty label (R193). -/
abbrev Label.empty : Label := 0#256
/-- Join of a list of labels. -/
def Label.joins (l : List Label) : Label := l.foldl Label.join Label.empty

/-- A 64-bit value and its label (R14, R196). -/
structure LW where
  val : W64
  lab : Label
  deriving DecidableEq, Repr, Inhabited

/-- A power of two reached by a multiple: `n` rounded up to a multiple of `m`. -/
def roundUp (n m : Nat) : Nat := (n + m - 1) / m * m

/-- Signed order of two 64-bit values (R37). -/
def W64.slt (a b : W64) : Bool := a.toInt < b.toInt

end Sys2Proof
end

