-- ==== Sys2Proof/Syntax.lean ====
section
/-! DEFINITION. The syntax of the Trelavo 8840: one constructor of `Instr` per row of the opcode table. The 144 rows that are
instruction words of the four streams (R35 to R51) carry the word's header and operand fields; the 82 rows that are steps of the
machine without a word (What each step holds) carry the choices that the spec leaves to the machine and the inputs that come from
outside it. -/

namespace Sys2Proof

/-- The four streams (R14). -/
inductive Stream where
  | c | a | v | m
  deriving DecidableEq, Repr, Inhabited

/-- The stream's number (R14). -/
def Stream.num : Stream → Nat
  | .c => 0 | .a => 1 | .v => 2 | .m => 3
/-- The stream of a number below 4 (R14). -/
def Stream.ofNum : Nat → Stream
  | 0 => .c | 1 => .a | 2 => .v | _ => .m

/-- The common header of every word: wait, signal, stitch mark (R35). -/
structure Hdr where
  w : Bool
  s : Bool
  k : Bool
  deriving DecidableEq, Repr, Inhabited

/-- Condition codes of BR and ABR (R41). -/
inductive CC where
  | eq | ne | lt | ge | ltu | geu
  deriving DecidableEq, Repr, Inhabited

/-- Atomic operations (R37). -/
inductive AtOp where
  | add | swap | and | or | xor | min | max | minu
  deriving DecidableEq, Repr, Inhabited

/-- Scopes: core, die, device, system (R37). -/
inductive Scope where
  | co | di | dv | sy
  deriving DecidableEq, Repr, Inhabited

/-- Fence kinds: acquire, release, full (R37). -/
inductive FKind where
  | aq | rl | fl
  deriving DecidableEq, Repr, Inhabited

/-- Views of a vector operand: whole, row, column, diagonal (R37, R90). -/
inductive View where
  | w | r | c | d
  deriving DecidableEq, Repr, Inhabited

/-- Ring fields of RGSET (R147). -/
inductive RgFld where
  | base | logsz | count | peer | reset
  deriving DecidableEq, Repr, Inhabited

/-- Counts of RGQRY (R41). -/
inductive RgCnt where
  | clm | fil | fre
  deriving DecidableEq, Repr, Inhabited

/-- Element widths of the A-stream: 1, 2, 4, 8, 16 bytes (R45). -/
inductive El where
  | b | h | w | d | q
  deriving DecidableEq, Repr, Inhabited

/-- Type codes (R49). -/
inductive VTy where
  | f32 | f16 | bf16 | e4m3 | e5m2 | i32 | i8 | n8
  deriving DecidableEq, Repr, Inhabited

/-- Rounding codes (R49). -/
inductive Rnd where
  | rne | rtz | rup | rdn
  deriving DecidableEq, Repr, Inhabited

/-- Quantisation schemes (R48). -/
inductive Scheme where
  | fp4 | mom1 | mom2
  deriving DecidableEq, Repr, Inhabited

/-- Conditions of VCMP (R360). -/
inductive VCond where
  | eq | ne | lt | le | gt | ge | ltu | leu
  deriving DecidableEq, Repr, Inhabited

/-- VMASK suffixes (R101). -/
inductive MaskOp where
  | push | pop | setem | and | or | andn | not | all
  deriving DecidableEq, Repr, Inhabited

/-- Reductions (R373). -/
inductive RedOp where
  | add | max | min
  deriving DecidableEq, Repr, Inhabited

/-- Special functions (R378). -/
inductive Sfu where
  | exp2 | log2 | rcp | rsq | sqrt | tanh | sin | cos
  deriving DecidableEq, Repr, Inhabited

/-- VAMO operations (R358). -/
inductive VAmoOp where
  | add | swap | min | max | and | or
  deriving DecidableEq, Repr, Inhabited

/-- Plane selection of MZERO (R338). -/
inductive PlSel where
  | p0 | p1 | both
  deriving DecidableEq, Repr, Inhabited

/-- The CSRs that csr11 names (R43). -/
inductive Csr where
  | status | cause | epc | tval | tvec | scratch | clabel | taskid | lcore | tstep | stitchset | budget | holdlim | fmtlvl | wmk0 | wmk1 | mrowprog | nstcur | weltstat | vtype | stg | bankstall | skipspec
  deriving DecidableEq, Repr, Inhabited


/-- A 7-bit vector operand: register and view (R47). -/
structure VOp where
  r : Fin 32
  view : View
  deriving DecidableEq, Repr, Inhabited

/-- The kinds of access that translation tells apart (R185). -/
inductive Acc where
  | fetch (s : Stream) | read | write | rdwr
  deriving DecidableEq, Repr, Inhabited

/-- The pipes that hold a micro-TLB (R189). -/
inductive Pipe where
  | fetch | c | aLoad | aStore | matA | matB | drain
  deriving DecidableEq, Repr, Inhabited

/-- One 16-byte NEST record of a task image (R65, R112). -/
structure NestRec where
  slot : Fin 8
  lvl : Fin 7
  fld : Fin 15
  val : W64
  deriving DecidableEq, Repr, Inhabited

/-- One 16-byte RINGT record of a task image (R65, R147). -/
structure RingRec where
  ring : Fin 16
  base : Nat
  logsz : Nat
  count : Nat
  deriving DecidableEq, Repr, Inhabited

/-- A relocation of a placed section that registration resolves (R67): ABS64 against data section `sect`, with its FIELD, or LABELH, the 12-bit
handle of a label set, into the `width` bits from bit `lo` of a word. -/
inductive Reloc where
  | abs64 (off sect field : Nat) (addend : W64) | labelh (off lo width : Nat) (lab : Label)
  deriving DecidableEq, Repr, Inhabited

/-- An ABS64 relocation against data section `sect` of an image, in a NEST record, in the scratchpad contents, or in a launch argument
(R67, R69). -/
inductive DataReloc where
  | nest (img record sect : Nat) (addend : W64)
  | scratch (img addr sect : Nat) (addend : W64)
  | arg (node set arg sect : Nat) (addend : W64)
  deriving DecidableEq, Repr, Inhabited

/-- A section that registration places in memory: its bytes, alignment exponent, the virtual address that Insole chooses and the
frames that hold it (R65, R386). -/
structure Placed where
  bytes : List Byte
  align : Nat
  va : W64
  frames : List Nat
  relocs : List Reloc
  deriving DecidableEq, Repr, Inhabited

/-- A task image, as its sections give it (R61, R64, R65). A stream without text has no entry. -/
structure TaskImg where
  text : List (Stream × Placed)
  entries : List (Stream × Nat)
  nest : List NestRec
  rings : List RingRec
  routes : List (Stream × Nat × Nat)
  stitch : Nat
  data : List Placed
  scratch : List (Nat × Byte)
  deriving DecidableEq, Repr, Inhabited

/-- A node of a graph: its task image, Q, context label and argument sets (R29, R60, R61); the pages that Insole chooses for its
task blocks, one for each task (R386). -/
structure Node where
  img : Nat
  q : Nat
  clab : Label
  args : List (List W64)
  blocks : List Placed
  deriving DecidableEq, Repr, Inhabited

/-- A SOF header (R64). -/
structure SofHdr where
  magic : List Byte
  version : Nat
  kind : Nat
  shoff : Nat
  shnum : Nat
  shstr : Nat
  entry : List Nat
  reserved : List Byte
  deriving DecidableEq, Repr, Inhabited

/-- A section-table entry (R65). -/
structure SofSec where
  name : Nat
  kind : Nat
  stream : Nat
  align : Nat
  offset : Nat
  size : Nat
  addr : Nat
  link : Nat
  info : Nat
  deriving DecidableEq, Repr, Inhabited

/-- A graph bundle offered for registration, with the choices that registration leaves to Insole (R64, R69, R181, R386); `heads` gives the
header, the size and the section table of each task image. Log 21: DESIGN CHOICE. -/
structure GraphReg where
  hdr : SofHdr
  fileSize : Nat
  secs : List SofSec
  heads : List (SofHdr × Nat × List SofSec)
  dataRelocs : List DataReloc
  images : List TaskImg
  nodes : List Node
  edges : List (Nat × Nat)
  nsets : Nat
  handle : Nat
  slot : Nat
  func : Nat
  queue : Nat
  part : Nat
  space : Nat
  root : Nat
  tables : List Nat
  ctxFrames : List Nat
  deriving DecidableEq, Repr, Inhabited

/-- A joint-region request with its signatures (R205). -/
structure JointReq where
  lset : Label
  frames : List Nat
  handles : List Nat
  body : List Byte
  sigs : List (Nat × List Byte)
  deriving DecidableEq, Repr, Inhabited

/-- Where an inbound write comes from (R208): a PCIe function, or a peer module with the labels it carries inside a domain. -/
inductive Origin where
  | func (f : Nat) | outsider (slot : Nat) | domain (lab : Label)
  deriving DecidableEq, Repr, Inhabited

/-- What a reset finds: the names of the units that BIST fails, the pin FWREC, and the two images in flash with their signatures
(R10, R11, R260, R274). -/
structure ResetIn where
  fails : List Nat
  fwrec : Bool
  insole : List Byte × List Byte
  upper : List Byte × List Byte
  deriving DecidableEq, Repr, Inhabited

/-- A request on the management path (R275). -/
inductive MctpReq where
  | spdm | readLog (n : Nat) | readBist
  | keyFill (slot : Nat) (key : List Byte) (signer : Nat) (sig : List Byte)
  | keyRevoke (slot signer : Nat) (sig : List Byte)
  deriving DecidableEq, Repr, Inhabited

/-- What a TDISP message does to a virtual function's TDI (R268). -/
inductive Tdisp where
  | lock | run | error | unlock
  deriving DecidableEq, Repr, Inhabited

/-- An owner's zeroing step: a core's state, or a frame (R206). -/
inductive ZeroWhat where
  | core (c : Nat) | frame (pa : Nat)
  deriving DecidableEq, Repr, Inhabited

/-- Why Insole writes a frame tag (R203). -/
inductive TagWhy where
  | assign (handle : Nat) | joint | free
  deriving DecidableEq, Repr, Inhabited

/-- Enrolment of a tenant, or the reassignment of its slot (R193). -/
structure Enrol where
  slot : Nat
  key : List Byte
  func : Option Nat
  deriving DecidableEq, Repr, Inhabited

/-- An error that a memory of the module detects (R157, R263): a corrected or uncorrectable unit of HBM, a corrected word of SRAM, an
uncorrectable line of a core's scratchpad, label table entry, word of Insole's state, or frame tag. -/
inductive Ecc where
  | hbmCorrected (pa symbol : Nat)
  | hbmUncorrectable (pa : Nat)
  | sramCorrected (unit : Nat)
  | scratchLine (core line : Nat)
  | labelEntry (handle : Nat)
  | insoleState (unit : Nat)
  | frameTag (pa : Nat)
  deriving DecidableEq, Repr, Inhabited

/-- How a load step reads (R166): whether it installs a copy, and an error that a memory of the module reports in it (R157, R263). -/
structure Reading where
  install : Bool
  ecc : Option Ecc
  deriving DecidableEq, Repr, Inhabited

/-- A C-stream word as its heel checker finds it (R258): the word, and whether its operands are the heel's. -/
structure Checked where
  word : W32
  same : Bool
  deriving DecidableEq, Repr, Inhabited

/-- The instructions and steps of the opcode table. -/
inductive Instr where
  /-- ADD, C-stream (R283). -/
  | add (h : Hdr) (d : Fin 64) (a : Fin 64) (b : Fin 64)
  /-- ADD_IMM, C-stream (R283). -/
  | addImm (h : Hdr) (d : Fin 64) (a : Fin 64) (i : BitVec 11)
  /-- SUB, C-stream (R351). -/
  | sub (h : Hdr) (d : Fin 64) (a : Fin 64) (b : Fin 64)
  /-- MUL, C-stream (R335). -/
  | mul (h : Hdr) (d : Fin 64) (a : Fin 64) (b : Fin 64)
  /-- MULH, C-stream (R335). -/
  | mulh (h : Hdr) (d : Fin 64) (a : Fin 64) (b : Fin 64) (u : Bool)
  /-- DIV, C-stream (R311). -/
  | div (h : Hdr) (d : Fin 64) (a : Fin 64) (b : Fin 64) (u : Bool)
  /-- REM, C-stream (R344). -/
  | rem (h : Hdr) (d : Fin 64) (a : Fin 64) (b : Fin 64) (u : Bool)
  /-- AND, C-stream (R291). -/
  | and (h : Hdr) (d : Fin 64) (a : Fin 64) (b : Fin 64)
  /-- AND_IMM, C-stream (R291). -/
  | andImm (h : Hdr) (d : Fin 64) (a : Fin 64) (i : BitVec 11)
  /-- OR, C-stream (R341). -/
  | or (h : Hdr) (d : Fin 64) (a : Fin 64) (b : Fin 64)
  /-- OR_IMM, C-stream (R341). -/
  | orImm (h : Hdr) (d : Fin 64) (a : Fin 64) (i : BitVec 11)
  /-- XOR, C-stream (R384). -/
  | xor (h : Hdr) (d : Fin 64) (a : Fin 64) (b : Fin 64)
  /-- XOR_IMM, C-stream (R384). -/
  | xorImm (h : Hdr) (d : Fin 64) (a : Fin 64) (i : BitVec 11)
  /-- SHL, C-stream (R347). -/
  | shl (h : Hdr) (d : Fin 64) (a : Fin 64) (b : Fin 64) (m : Bool)
  /-- SHR, C-stream (R347). -/
  | shr (h : Hdr) (d : Fin 64) (a : Fin 64) (b : Fin 64) (m : Bool)
  /-- SRA, C-stream (R347). -/
  | sra (h : Hdr) (d : Fin 64) (a : Fin 64) (b : Fin 64) (m : Bool)
  /-- SLT, C-stream (R348). -/
  | slt (h : Hdr) (d : Fin 64) (a : Fin 64) (b : Fin 64)
  /-- SLT_IMM, C-stream (R348). -/
  | sltImm (h : Hdr) (d : Fin 64) (a : Fin 64) (i : BitVec 11)
  /-- SLTU, C-stream (R348). -/
  | sltu (h : Hdr) (d : Fin 64) (a : Fin 64) (b : Fin 64)
  /-- MIN, C-stream (R326). -/
  | min (h : Hdr) (d : Fin 64) (a : Fin 64) (b : Fin 64) (u : Bool)
  /-- MAX, C-stream (R326). -/
  | max (h : Hdr) (d : Fin 64) (a : Fin 64) (b : Fin 64) (u : Bool)
  /-- CLZ, C-stream (R303). -/
  | clz (h : Hdr) (d : Fin 64) (a : Fin 64)
  /-- POPC, C-stream (R342). -/
  | popc (h : Hdr) (d : Fin 64) (a : Fin 64)
  /-- CSEL, C-stream (R305). -/
  | csel (h : Hdr) (d : Fin 64) (a : Fin 64) (b : Fin 64)
  /-- LUI, C-stream (R323). -/
  | lui (h : Hdr) (d : Fin 64) (i : BitVec 17)
  /-- BR, C-stream (R300). -/
  | br (h : Hdr) (cc : CC) (a : Fin 64) (b : Fin 64) (o : BitVec 8)
  /-- JAL, C-stream (R316). -/
  | jal (h : Hdr) (d : Fin 64) (i : BitVec 17)
  /-- JALR, C-stream (R317). -/
  | jalr (h : Hdr) (d : Fin 64) (a : Fin 64) (i : BitVec 11)
  /-- LD, C-stream (R322). -/
  | ld (h : Hdr) (d : Fin 64) (a : Fin 64) (z : Fin 4) (c : Fin 4) (o : BitVec 7)
  /-- ST, C-stream (R349). -/
  | st (h : Hdr) (d : Fin 64) (a : Fin 64) (z : Fin 4) (c : Fin 4) (o : BitVec 7)
  /-- AMO_W, C-stream (R289). -/
  | amoW (h : Hdr) (d : Fin 64) (a : Fin 64) (b : Fin 64) (p : AtOp) (c : Scope)
  /-- AMO_D, C-stream (R289). -/
  | amoD (h : Hdr) (d : Fin 64) (a : Fin 64) (b : Fin 64) (p : AtOp) (c : Scope)
  /-- CAS, C-stream (R302). -/
  | cas (h : Hdr) (d : Fin 64) (a : Fin 64) (b : Fin 64) (z : Bool) (c : Scope)
  /-- DACC_OPEN, C-stream (R309, R310). -/
  | daccOpen (h : Hdr) (a : Fin 64) (b : Fin 64)
  /-- DACC_ADD, C-stream (R309, R310). -/
  | daccAdd (h : Hdr) (a : Fin 64) (b : Fin 64)
  /-- DACC_ADDX, C-stream (R309, R310). -/
  | daccAddx (h : Hdr) (a : Fin 64) (b : Fin 64)
  /-- DACC_READ, C-stream (R309, R310). -/
  | daccRead (h : Hdr) (d : Fin 64) (a : Fin 64)
  /-- DACC_CLOSE, C-stream (R309, R310). -/
  | daccClose (h : Hdr) (a : Fin 64)
  /-- FENCE, C-stream (R313). -/
  | fence (h : Hdr) (n : FKind) (c : Scope)
  /-- QALIGN, C-stream (R343). -/
  | qalign (h : Hdr)
  /-- FMTQ, C-stream (R314). -/
  | fmtq (h : Hdr) (a : Fin 64)
  /-- NSTSET, C-stream (R340). -/
  | nstset (h : Hdr) (d : Fin 64) (t : Fin 8) (v : Fin 8) (f : Fin 32)
  /-- RGSET, C-stream (R346). -/
  | rgset (h : Hdr) (d : Fin 64) (r : Fin 16) (f : RgFld)
  /-- RGQRY, C-stream (R345). -/
  | rgqry (h : Hdr) (d : Fin 64) (r : Fin 16) (n : RgCnt)
  /-- LBGET, C-stream (R320). -/
  | lbget (h : Hdr) (d : Fin 64) (a : Fin 64)
  /-- LBCHK, C-stream (R319). -/
  | lbchk (h : Hdr) (d : Fin 64) (a : Fin 64) (b : Fin 64)
  /-- LCDECL, C-stream (R220). -/
  | lcdecl (h : Hdr) (a : Fin 64)
  /-- LCSUB, C-stream (R220). -/
  | lcsub (h : Hdr) (d : Fin 64) (a : Fin 64)
  /-- LCWAIT, C-stream (R220). -/
  | lcwait (h : Hdr)
  /-- LCEND, C-stream (R220). -/
  | lcend (h : Hdr)
  /-- CQPUT, C-stream (R304). -/
  | cqput (h : Hdr) (a : Fin 64) (q : Bool)
  /-- CSRR, C-stream (R306). -/
  | csrr (h : Hdr) (d : Fin 64) (c : Csr)
  /-- CSRW, C-stream (R306). -/
  | csrw (h : Hdr) (d : Fin 64) (a : Fin 64) (c : Csr)
  /-- TRAP, C-stream (R354). -/
  | trap (h : Hdr) (i : BitVec 17)
  /-- ERET, C-stream (R312). -/
  | eret (h : Hdr)
  /-- WFE, C-stream (R383). -/
  | wfe (h : Hdr)
  /-- YIELD, C-stream (R385). -/
  | yield (h : Hdr)
  /-- TASKEND, C-stream (R352). -/
  | taskend (h : Hdr)
  /-- LAUNCH, C-stream (R318). -/
  | launch (h : Hdr) (d : Fin 64) (a : Fin 64) (b : Fin 64)
  /-- AADD, A-stream (R278). -/
  | aadd (h : Hdr) (d : Fin 32) (a : Fin 32) (b : Fin 32)
  /-- ASUB, A-stream (R278). -/
  | asub (h : Hdr) (d : Fin 32) (a : Fin 32) (b : Fin 32)
  /-- AMUL, A-stream (R278). -/
  | amul (h : Hdr) (d : Fin 32) (a : Fin 32) (b : Fin 32)
  /-- AAND, A-stream (R278). -/
  | aand (h : Hdr) (d : Fin 32) (a : Fin 32) (b : Fin 32)
  /-- AADD_IMM, A-stream (R278). -/
  | aaddImm (h : Hdr) (d : Fin 32) (a : Fin 32) (i : BitVec 13)
  /-- ASHL, A-stream (R294). -/
  | ashl (h : Hdr) (d : Fin 32) (a : Fin 32) (sh : Fin 64)
  /-- ASHR, A-stream (R294). -/
  | ashr (h : Hdr) (d : Fin 32) (a : Fin 32) (sh : Fin 64)
  /-- AMOVI, A-stream (R290). -/
  | amovi (h : Hdr) (d : Fin 32) (i : BitVec 13)
  /-- ABR, A-stream (R280). -/
  | abr (h : Hdr) (cc : CC) (a : Fin 32) (b : Fin 32) (o : BitVec 10)
  /-- ALOOP, A-stream (R288). -/
  | aloop (h : Hdr) (a : Fin 32) (o : BitVec 10)
  /-- ACQPOP, A-stream (R282). -/
  | acqpop (h : Hdr) (d : Fin 32)
  /-- ALD, A-stream (R287). -/
  | ald (h : Hdr) (a : Fin 32) (b : Fin 32) (r : Fin 16) (c : Scope) (e : El) (m : Bool)
  /-- AST, A-stream (R295). -/
  | ast (h : Hdr) (a : Fin 32) (b : Fin 32) (r : Fin 16) (c : Scope) (e : El) (m : Bool)
  /-- AGATH, A-stream (R264, R285). -/
  | agath (h : Hdr) (a : Fin 32) (b : Fin 32) (r : Fin 16) (x : Fin 16) (p : Bool) (e : El)
  /-- ASCAT, A-stream (R293). -/
  | ascat (h : Hdr) (a : Fin 32) (b : Fin 32) (r : Fin 16) (x : Fin 16) (e : El)
  /-- ACOPY, A-stream (R281). -/
  | acopy (h : Hdr) (d : Fin 32) (a : Fin 32) (b : Fin 32) (c : Scope)
  /-- AZERO, A-stream (R298). -/
  | azero (h : Hdr) (d : Fin 32) (b : Fin 32) (c : Scope)
  /-- APREF, A-stream (R292). -/
  | apref (h : Hdr) (a : Fin 32) (b : Fin 32)
  /-- AXPUT, A-stream (R297). -/
  | axput (h : Hdr) (a : Fin 32) (b : Fin 32) (r : Fin 16) (c : Scope) (e : El)
  /-- AAMO, A-stream (R279). -/
  | aamo (h : Hdr) (d : Fin 32) (a : Fin 32) (b : Fin 32) (p : AtOp) (z : Bool)
  /-- AIDX, A-stream (R265, R286). -/
  | aidx (h : Hdr) (d : Fin 32) (r : Fin 16)
  /-- AWFILL, A-stream (R296). -/
  | awfill (h : Hdr) (n : Fin 512) (r : Fin 16)
  /-- AWFREE, A-stream (R296). -/
  | awfree (h : Hdr) (n : Fin 512) (r : Fin 16)
  /-- AFENCE, A-stream (R284). -/
  | afence (h : Hdr) (n : FKind) (c : Scope)
  /-- VADD, V-stream (R357). -/
  | vadd (h : Hdr) (d : VOp) (a : VOp) (b : VOp) (x : Fin 4)
  /-- VSUB, V-stream (R357). -/
  | vsub (h : Hdr) (d : VOp) (a : VOp) (b : VOp) (x : Fin 4)
  /-- VMUL, V-stream (R357). -/
  | vmul (h : Hdr) (d : VOp) (a : VOp) (b : VOp) (x : Fin 4)
  /-- VFMA, V-stream (R364). -/
  | vfma (h : Hdr) (d : VOp) (a : VOp) (b : VOp) (x : Fin 4)
  /-- VMIN, V-stream (R357). -/
  | vmin (h : Hdr) (d : VOp) (a : VOp) (b : VOp) (x : Fin 4)
  /-- VMAX, V-stream (R357). -/
  | vmax (h : Hdr) (d : VOp) (a : VOp) (b : VOp) (x : Fin 4)
  /-- VABS, V-stream (R357). -/
  | vabs (h : Hdr) (d : VOp) (a : VOp) (x : Fin 4)
  /-- VAND, V-stream (R357). -/
  | vand (h : Hdr) (d : VOp) (a : VOp) (b : VOp) (x : Fin 4)
  /-- VOR, V-stream (R357). -/
  | vor (h : Hdr) (d : VOp) (a : VOp) (b : VOp) (x : Fin 4)
  /-- VXOR, V-stream (R357). -/
  | vxor (h : Hdr) (d : VOp) (a : VOp) (b : VOp) (x : Fin 4)
  /-- VSHL, V-stream (R357). -/
  | vshl (h : Hdr) (d : VOp) (a : VOp) (b : VOp) (x : Fin 4)
  /-- VSHR, V-stream (R357). -/
  | vshr (h : Hdr) (d : VOp) (a : VOp) (b : VOp) (x : Fin 4)
  /-- VCVT, V-stream (R362). -/
  | vcvt (h : Hdr) (d : Fin 32) (a : Fin 32) (t : VTy) (u : VTy) (n : Rnd) (q : Bool)
  /-- VQNT, V-stream (R363). -/
  | vqnt (h : Hdr) (d : Fin 32) (a : Fin 32) (b : Fin 32) (m : Scheme)
  /-- VDQNT, V-stream (R363). -/
  | vdqnt (h : Hdr) (d : Fin 32) (a : Fin 32) (b : Fin 32) (m : Scheme)
  /-- VCMP, V-stream (R360). -/
  | vcmp (h : Hdr) (c : VCond) (a : VOp) (b : VOp) (x : Fin 4)
  /-- VSEL, V-stream (R375). -/
  | vsel (h : Hdr) (d : VOp) (a : VOp) (b : VOp) (x : Fin 4)
  /-- VMASK, V-stream (R101, R368). -/
  | vmask (h : Hdr) (n : MaskOp)
  /-- VMOV, V-stream (R369). -/
  | vmov (h : Hdr) (d : VOp) (a : VOp) (x : Fin 4)
  /-- VMOV_IMM, V-stream (R369). -/
  | vmovImm (h : Hdr) (d : Fin 32) (i : BitVec 8)
  /-- VBCR, V-stream (R359). -/
  | vbcr (h : Hdr) (d : Fin 32) (a : VOp) (x : Fin 4)
  /-- VBCC, V-stream (R359). -/
  | vbcc (h : Hdr) (d : Fin 32) (a : VOp) (x : Fin 4)
  /-- VROTR, V-stream (R374). -/
  | vrotr (h : Hdr) (d : Fin 32) (a : Fin 32) (i : Fin 512)
  /-- VROTC, V-stream (R374). -/
  | vrotc (h : Hdr) (d : Fin 32) (a : Fin 32) (i : Fin 512)
  /-- VREDR, V-stream (R373). -/
  | vredr (h : Hdr) (d : Fin 32) (a : Fin 32) (o : RedOp)
  /-- VREDC, V-stream (R373). -/
  | vredc (h : Hdr) (d : Fin 32) (a : Fin 32) (o : RedOp)
  /-- VTRN, V-stream (R381). -/
  | vtrn (h : Hdr) (d : Fin 32) (a : Fin 32)
  /-- VSFU, V-stream (R378, R379). -/
  | vsfu (h : Hdr) (d : Fin 32) (a : Fin 32) (f : Sfu)
  /-- VTOPK, V-stream (R106, R380). -/
  | vtopk (h : Hdr) (d : Fin 32) (a : Fin 32) (n : Fin 512)
  /-- VIOTA, V-stream (R365). -/
  | viota (h : Hdr) (d : Fin 32) (i : BitVec 9)
  /-- VLD, V-stream (R366). -/
  | vld (h : Hdr) (d : Fin 32) (p : Fin 4) (l : Fin 8) (o : Fin 2048)
  /-- VST, V-stream (R366). -/
  | vst (h : Hdr) (d : Fin 32) (p : Fin 4) (l : Fin 8) (o : Fin 2048)
  /-- VPOP, V-stream (R179, R372). -/
  | vpop (h : Hdr) (d : VOp) (r : Fin 16) (t : VTy) (x : Fin 4) (l : Fin 8)
  /-- VPUSH, V-stream (R179, R372). -/
  | vpush (h : Hdr) (d : VOp) (r : Fin 16) (t : VTy) (x : Fin 4) (l : Fin 8)
  /-- VWAITL, V-stream (R382). -/
  | vwaitl (h : Hdr) (m : BitVec 8)
  /-- VAMO, V-stream (R358). -/
  | vamo (h : Hdr) (d : Fin 32) (p : Fin 4) (l : Fin 8) (o : VAmoOp) (f : Fin 256)
  /-- VMRD, V-stream (R370). -/
  | vmrd (h : Hdr) (d : VOp) (p : Bool) (r : Fin 128) (c : Bool) (x : Fin 4)
  /-- VCQPOP, V-stream (R361). -/
  | vcqpop (h : Hdr) (d : Fin 32)
  /-- VSETT, V-stream (R377). -/
  | vsett (h : Hdr) (z : Bool) (t : VTy) (n : Rnd) (u : Bool) (e : Bool)
  /-- VSETIX, V-stream (R179, R376). -/
  | vsetix (h : Hdr) (p : Bool) (q : Bool) (g : Fin 4) (v : BitVec 17)
  /-- VLOOP, V-stream (R102, R103). -/
  | vloop (h : Hdr) (n : Fin 64) (g : Fin 8) (x : Fin 4)
  /-- VSTG, V-stream (R367). -/
  | vstg (h : Hdr) (g : Fin 8)
  /-- MGO, M-stream (R330). -/
  | mgo (h : Hdr) (n : Fin 8) (p : Bool) (l : Bool) (z : Bool) (t : Bool)
  /-- MMA, M-stream (R332). -/
  | mma (h : Hdr) (p : Bool) (a : Fin 16) (b : Fin 16) (c : Fin 16) (l : Bool) (z : Bool) (t : Bool)
  /-- MMAS, M-stream (R332). -/
  | mmas (h : Hdr) (p : Bool) (a : Fin 16) (b : Fin 16) (c : Fin 16) (z : Bool) (t : Bool)
  /-- MZERO, M-stream (R338). -/
  | mzero (h : Hdr) (p : PlSel)
  /-- MDRAIN_MEM, M-stream (R329). -/
  | mdrainMem (h : Hdr) (n : Fin 8) (p : Bool)
  /-- MDRAIN_RING, M-stream (R329). -/
  | mdrainRing (h : Hdr) (p : Bool) (c : Fin 16)
  /-- MSWAP, M-stream (R334). -/
  | mswap (h : Hdr)
  /-- MWAIT, M-stream (R336). -/
  | mwait (h : Hdr) (p : Bool) (r : Fin 256)
  /-- MCFG, M-stream (R328). -/
  | mcfg (h : Hdr) (n : Fin 8) (x : Bool)
  /-- MWELT, M-stream (R337). -/
  | mwelt (h : Hdr) (n : Fin 8)
  /-- MRSTR, M-stream (R333). -/
  | mrstr (h : Hdr) (n : Fin 8)
  /-- MBAR, M-stream (R327). -/
  | mbar (h : Hdr)
  /-- NOP, common group, in the stream given (R339). -/
  | nop (st : Stream) (h : Hdr)
  /-- TKWAIT, common group, in the stream given (R353). -/
  | tkwait (st : Stream) (h : Hdr) (q : Fin 16)
  /-- TKSIG, common group, in the stream given (R353). -/
  | tksig (st : Stream) (h : Hdr) (q : Fin 16)
  /-- TROUTE, common group, in the stream given (R355). -/
  | troute (st : Stream) (h : Hdr) (i : Fin 16) (o : Fin 16)
  /-- HOLD, common group, in the stream given (R315). -/
  | hold (st : Stream) (h : Hdr) (n : Fin 64)
  /-- BRK, common group, in the stream given (R301). -/
  | brk (st : Stream) (h : Hdr) (c : BitVec 18)
  /-- STEND, common group, in the stream given (R350). -/
  | stend (st : Stream) (h : Hdr)
  -- The steps without a word. `c` names a core by its physical number: 128 die + 16 cluster + core for a compute core,
  -- 1024 + 2 die + i for a dispatch core.
  /-- WORD_FETCH (R192). -/
  | wordFetch (c : Nat) (st : Stream)
  /-- WORD_RETIRE (R19). -/
  | wordRetire (c : Nat) (st : Stream)
  /-- FIXED_LATENCY_RETIRE (R387). -/
  | fixedLatencyRetire (c : Nat)
  /-- VECTOR_LANDING (R97). `n` chooses the landing operation. -/
  | vectorLanding (c n : Nat)
  /-- STITCH_ISSUE (R21). -/
  | stitchIssue (c : Nat)
  /-- HOLD_OVERRUN (R26). -/
  | holdOverrun (c : Nat) (st : Stream)
  /-- LOAD_PERFORM (R166). `page` chooses the page of a load across pages. -/
  | loadPerform (c : Nat) (st : Stream) (page : Nat) (how : Reading)
  /-- STORE_PERFORM (R167). `grans` chooses the granules of the step, all of them when it is empty. -/
  | storePerform (c : Nat) (st : Stream) (grans : List Nat)
  /-- ATOMIC_PERFORM (R169). -/
  | atomicPerform (c : Nat) (st : Stream)
  /-- FENCE_MARKER_PERFORM (R390). `n` chooses the marker. -/
  | fenceMarkerPerform (c : Nat) (st : Stream) (n : Nat)
  /-- COPY_DISCARD (R168): an L1 line of a core, or an RDC line of a die. -/
  | copyDiscard (rdc : Bool) (unit line : Nat)
  /-- POSTED_LEAVE (R170). -/
  | postedLeave (c : Nat) (st : Stream)
  /-- POSTED_ARRIVAL (R170). `n` chooses the posted store. -/
  | postedArrival (c : Nat) (st : Stream) (n : Nat)
  /-- AD_UPDATE (R186). -/
  | adUpdate (c : Nat) (p : Pipe) (va : W64) (k : Acc)
  /-- DACC_ENTRY_PERFORM (R177). -/
  | daccEntryPerform (c : Nat)
  /-- RING_PUBLISH_MESSAGE (R176). -/
  | ringPublishMessage (c : Nat) (r : Fin 16)
  /-- RING_CREDIT_MESSAGE (R176). -/
  | ringCreditMessage (c : Nat) (r : Fin 16)
  /-- TILE_START (R325). -/
  | tileStart (c : Nat)
  /-- TILE_STEP (R107). -/
  | tileStep (c : Nat)
  /-- DRAIN_ROW (R122). -/
  | drainRow (c : Nat)
  /-- RAGGED_WELT (R129). -/
  | raggedWelt (c : Nat)
  /-- MATRIX_REPLAY (R256): an error arises in the operand path of the running tile. -/
  | matrixReplay (c : Nat)
  /-- STREAM_TRAP (R252). -/
  | streamTrap (c : Nat)
  /-- MAILBOX_RECORD_POST (R253). -/
  | mailboxRecordPost (c : Nat) (st : Stream)
  /-- FMRESUME_RESUME (R253). -/
  | fmresumeResume (func ticket : Nat)
  /-- FMRESUME_ABORT (R253). -/
  | fmresumeAbort (func ticket : Nat)
  /-- HEEL_CHECK (R258): the heel's word, and the C-stream's. -/
  | heelCheck (c : Nat) (heel : W32) (word : Checked)
  /-- LACE_SUBMISSION (R223). -/
  | laceSubmission (c : Nat)
  /-- BEAT_CLOSE (R221). -/
  | beatClose
  /-- LACE_BATCH_EXCHANGE (R224): die `d`'s batch of the beat arrives. -/
  | laceBatchExchange (d : Nat) (beat : Nat)
  /-- LACE_MERGE (R225): slice `sl` of die `d` merges its next beat. -/
  | laceMerge (d sl : Nat)
  /-- GRANT_STEP (R225). -/
  | grantStep (pa : Nat)
  /-- LACE_TILE_RETURN (R178). -/
  | laceTileReturn (c : Nat)
  /-- BEAT_FLIT (R272). -/
  | beatFlit
  /-- KICK (R234): a write to the kick page of a queue through a function's BAR0. -/
  | kick (func q off width : Nat) (val : W64)
  /-- SLOTCMD_MAP (R234): the value written to SLOTCMD of die `d`. -/
  | slotcmdMap (d : Nat) (val : W64)
  /-- SLOTCMD_UNMAP (R234). -/
  | slotcmdUnmap (d : Nat) (val : W64)
  /-- SLOTCMD_PRIO (R236). -/
  | slotcmdPrio (d : Nat) (val : W64)
  /-- SLOTCMD_PREEMPT (R236). -/
  | slotcmdPreempt (d : Nat) (val : W64)
  /-- SLOTCMD_UNKNOWN (R236). -/
  | slotcmdUnknown (d : Nat) (val : W64)
  /-- PBADD (R235). -/
  | pbadd (p : Nat) (val : W64)
  /-- COPYCMD (R244). -/
  | copycmd (d : Nat) (val : W64)
  /-- BULK_COPY_CHUNK (R244): engine `e` of die `d`. -/
  | bulkCopyChunk (d e : Nat)
  /-- WAVE_ISSUE (R237): a wave of scoreboard entry `k` on a die. -/
  | waveIssue (k d : Nat)
  /-- KERNEL_COMPLETE (R238). -/
  | kernelComplete (k : Nat)
  /-- PREEMPTION (R245). -/
  | preemption (c : Nat)
  /-- RESTORE (R247): the image of a queue's task on a partition's core. -/
  | restore (q taskidx : Nat)
  /-- OWNER_ZEROING (R206). -/
  | ownerZeroing (z : ZeroWhat)
  /-- TLBI_ALL (R191): the value written to TLBICTL. -/
  | tlbiAll (val : W64)
  /-- TLBI_SPACE (R191). -/
  | tlbiSpace (val : W64)
  /-- TLBI_PAGE (R191). -/
  | tlbiPage (val : W64)
  /-- TLB_INVALIDATION_DONE (R191). -/
  | tlbInvalidationDone
  /-- INSOLE_MAPPING_CHANGE (R391): the entry of a space's tree at a level is written. -/
  | insoleMappingChange (handle : Nat) (va : W64) (lvl : Nat) (pte : W64)
  /-- FRAME_TAG_WRITE (R203). -/
  | frameTagWrite (pa : Nat) (lab : Label) (why : TagWhy)
  /-- JOINT_REGION_REQUEST (R205). -/
  | jointRegionRequest (r : JointReq)
  /-- POLICY_INSTALL (R211): the policy's bytes, in the layout of R210. -/
  | policyInstall (bytes : List Byte)
  /-- POLICY_REMOVE (R211): the entry, and the signer that asks. -/
  | policyRemove (idx signer : Nat)
  /-- GRAPH_REGISTRATION (R386). -/
  | graphRegistration (g : GraphReg)
  /-- EGRESS_WRITE (R207): the hub classes posted write `n`. -/
  | egressWrite (c : Nat) (st : Stream) (n : Nat)
  /-- INBOUND_WRITE (R208). -/
  | inboundWrite (o : Origin) (pa : Nat) (bytes : List Byte)
  /-- BAR2_READ (R269). -/
  | bar2Read (func off len : Nat)
  /-- CSR_VIEW_WRITE (R389). -/
  | csrViewWrite (func off width : Nat) (val : W64)
  /-- ELHEAD_WRITE (R262). -/
  | elheadWrite (func : Nat) (val : W64)
  /-- BIST_REQUEST (R261): the value written to BISTCTL. -/
  | bistRequest (val : W64)
  /-- BIST_DONE (R261): the failing unit, if one failed. -/
  | bistDone (fail : Option Nat)
  /-- MODULE_RESET (R274). -/
  | moduleReset (r : ResetIn)
  /-- KEY_SLOT_FILL (R273). -/
  | keySlotFill (slot : Nat) (key : List Byte) (signer : Nat) (sig : List Byte)
  /-- KEY_SLOT_REVOKE (R273). -/
  | keySlotRevoke (slot signer : Nat) (sig : List Byte)
  /-- GOLDEN_IMAGE_REPLACE (R274). -/
  | goldenImageReplace (img sig : List Byte)
  /-- MCTP_REQUEST (R275). -/
  | mctpRequest (r : MctpReq)
  /-- FRAME_RETIRE (R10): the frame and the frame its contents migrate to. -/
  | frameRetire (old new : Nat)
  /-- PSEUDO_CHANNEL_FENCE (R10): die, channel, and the frame each used frame migrates to. -/
  | pseudoChannelFence (d ch : Nat) (moves : List (Nat × Nat))
  /-- STRAP_LANE_DOWN (R10). -/
  | strapLaneDown (port lane : Nat)
  /-- THERMAL_THROTTLE (R276). -/
  | thermalThrottle (sensor reading : Nat)
  /-- OVER_TEMP_SHUTDOWN (R276). -/
  | overTempShutdown (sensor reading : Nat)
  /-- LABEL_TABLE_RECLAIM (R194): the handles that Insole reclaims. -/
  | labelTableReclaim (hs : List Nat)
  /-- TENANT_ENROLMENT (R193). -/
  | tenantEnrolment (e : Enrol)
  /-- LABEL_DOMAIN_ENROLMENT (R271). -/
  | labelDomainEnrolment (ident : Nat) (members : List Nat)
  /-- TDISP_REQUEST (R268). -/
  | tdispRequest (func : Nat) (op : Tdisp)
  /-- HOST_LINK_ERROR_CORRECTED (R263). -/
  | hostLinkErrorCorrected (status : W64)
  /-- PREFETCH_FILL (R292). -/
  | prefetchFill (c line : Nat)
  /-- INSOLE_PARTITION_WRITE (R235): a write to the scheduler window by Insole. -/
  | insolePartitionWrite (off : Nat) (val : W64)
  deriving DecidableEq, Repr, Inhabited

end Sys2Proof
end

