-- ==== Sys2Proof/WellFormed.lean ====
section
/-! DEFINITION. Which instructions are well formed: the limits that R36 puts on the operand fields of a word beyond the width of
its fields, and which core decodes which word (R44). -/

namespace Sys2Proof

/-- The view combinations of R91: a source view against the destination view. -/
def viewOk (d s : View) : Bool :=
  match d, s with
  | .w, _ => true
  | .r, .w => true | .r, .r => true
  | .c, .w => true | .c, .c => true | .c, .d => true
  | .d, .w => true | .d, .c => true | .d, .d => true
  | _, _ => false

/-- A queue id names a token queue (R15): its ends are distinct streams. -/
def queueOk (q : Fin 16) : Bool := q.val / 4 != q.val % 4
/-- The id of a queue into a stream (R16). -/
def queueInto (st : Stream) (q : Fin 16) : Bool := queueOk q && q.val % 4 == st.num
/-- The id of a queue out of a stream (R16). -/
def queueFrom (st : Stream) (q : Fin 16) : Bool := queueOk q && q.val / 4 == st.num
/-- The value of a route field that means "no route" (R16). -/
def noRoute (st : Stream) : Nat := st.num * 5

/-- The nest-slot selectors that R112 lists. -/
def nestSelOk (lvl : Fin 8) (fld : Fin 32) : Bool :=
  (lvl.val ≤ 5 && fld.val ≤ 5) || (lvl.val == 6 && fld.val ≤ 14)

def Fin.even {n : Nat} (r : Fin n) : Bool := r.val % 2 == 0

/-- The limits of an instruction's operands (R36, R47, and the reference entry that the constructor cites). -/
def Instr.wellFormed : Instr → Bool
  | .nstset _ _ _ v f => nestSelOk v f
  | .ald _ _ b _ _ _ _ => Fin.even b
  | .ast _ _ b _ _ _ _ => Fin.even b
  | .axput _ _ b _ _ _ => Fin.even b
  | .agath _ _ b _ _ _ _ => Fin.even b
  | .ascat _ _ b _ _ _ => Fin.even b
  | .awfill _ n _ => n.val != 0
  | .awfree _ n _ => n.val != 0
  | .vadd _ d a b _ => viewOk d.view a.view && viewOk d.view b.view
  | .vsub _ d a b _ => viewOk d.view a.view && viewOk d.view b.view
  | .vmul _ d a b _ => viewOk d.view a.view && viewOk d.view b.view
  | .vfma _ d a b _ => viewOk d.view a.view && viewOk d.view b.view
  | .vmin _ d a b _ => viewOk d.view a.view && viewOk d.view b.view
  | .vmax _ d a b _ => viewOk d.view a.view && viewOk d.view b.view
  | .vabs _ d a _ => viewOk d.view a.view
  | .vand _ d a b _ => viewOk d.view a.view && viewOk d.view b.view
  | .vor _ d a b _ => viewOk d.view a.view && viewOk d.view b.view
  | .vxor _ d a b _ => viewOk d.view a.view && viewOk d.view b.view
  | .vshl _ d a b _ => viewOk d.view a.view && viewOk d.view b.view
  | .vshr _ d a b _ => viewOk d.view a.view && viewOk d.view b.view
  | .vsel _ d a b _ => viewOk d.view a.view && viewOk d.view b.view
  | .vcmp _ _ a b _ => viewOk a.view b.view
  | .vmov _ d a _ => viewOk d.view a.view
  | .vcvt _ _ _ t u _ _ => t != u
  | .vqnt _ d a b _ => d != a && d != b && a != b
  | .vdqnt _ d _ b _ => d != b
  | .vbcr _ _ a _ => a.view == .c || a.view == .d
  | .vbcc _ _ a _ => a.view == .r
  | .vrotr _ _ _ i => i.val ≤ 63
  | .vrotc _ _ _ i => i.val ≤ 15
  | .vtopk _ d a n => Fin.even d && Fin.even a && 1 ≤ n.val && n.val ≤ 64
  | .vpop _ d _ _ x _ => d.view != .d && (d.view != .w || x.val == 0)
  | .vpush _ d _ _ x _ => d.view != .d && (d.view != .w || x.val == 0)
  | .vwaitl _ m => m != 0
  | .vmrd _ d _ r _ x => (d.view == .w && r.val ≤ 80 && x.val == 0) || (d.view == .r && r.val ≤ 95)
  | .vsetix _ p q _ v =>
    if q then v == 0 else if p then v.toNat ≤ 6143 else v.toNat < 65536
  | .vloop _ n _ _ => n.val != 0
  | .mma _ _ _ _ c l _ _ => l || c.val == 0
  | .mwait _ _ r => r.val ≤ 96
  | .tkwait t _ q => queueInto t q
  | .tksig t _ q => queueFrom t q
  | .troute t _ i o => (queueInto t i || i.val == noRoute t) && (queueFrom t o || o.val == noRoute t)
  | _ => true

/-- The words that a dispatch core does not decode (R44). -/
def Instr.notOnDispatch : Instr → Bool
  | .fmtq .. | .nstset .. | .rgset .. | .rgqry .. | .cqput .. | .lcdecl .. | .lcsub .. | .lcwait .. | .lcend ..
  | .tkwait .. | .tksig .. | .troute .. | .stend .. => true
  | _ => false

/-- The word that only a dispatch core decodes (R44). -/
def Instr.onlyOnDispatch : Instr → Bool
  | .launch .. => true
  | _ => false

end Sys2Proof
end

