-- ==== Sys2Proof/Decode.lean ====
section
/-! DEFINITION. The decoder of the four streams (R35 to R51), total on any word and refusing by name; after it the encoder, written
from the same format tables. -/

namespace Sys2Proof

/-- Why a word is not an instruction of the fetching stream (R36, R44). -/
inductive Reject where
  /-- The OP, or the sub of the common group, is not assigned (R35, R51). -/
  | unassigned
  /-- A field that the instruction does not use is not zero (R36). -/
  | unusedField
  /-- A variant field holds a value that its row does not list (R36). -/
  | illegalVariant
  /-- A register, view or immediate is outside its limits (R36). -/
  | illegalOperand
  /-- A word that this kind of core does not decode (R44). -/
  | wrongCore
  deriving DecidableEq, Repr, Inhabited

/-- Bits `[lo + n - 1 : lo]` of a word (R2). -/
def fld (w lo n : Nat) : Nat := w / 2 ^ lo % 2 ^ n

/-- The header of a word (R35). -/
def hdr (w : Nat) : Hdr := ⟨fld w 31 1 == 1, fld w 30 1 == 1, fld w 29 1 == 1⟩

def zeros (w : Nat) (l : List (Nat × Nat)) (k : Except Reject Instr) : Except Reject Instr :=
  if l.all fun f => fld w f.1 f.2 == 0 then k else .error .unusedField

def variant {α : Type} (o : Option α) (k : α → Except Reject Instr) : Except Reject Instr :=
  match o with
  | some a => k a
  | none => .error .illegalVariant

def CC.code : CC → Nat
  | .eq => 0
  | .ne => 1
  | .lt => 2
  | .ge => 3
  | .ltu => 4
  | .geu => 5
def CC.ofCode : Nat → Option CC
  | 0 => some .eq
  | 1 => some .ne
  | 2 => some .lt
  | 3 => some .ge
  | 4 => some .ltu
  | 5 => some .geu
  | _ => none

def AtOp.code : AtOp → Nat
  | .add => 0
  | .swap => 1
  | .and => 2
  | .or => 3
  | .xor => 4
  | .min => 5
  | .max => 6
  | .minu => 7
def AtOp.ofCode : Nat → Option AtOp
  | 0 => some .add
  | 1 => some .swap
  | 2 => some .and
  | 3 => some .or
  | 4 => some .xor
  | 5 => some .min
  | 6 => some .max
  | 7 => some .minu
  | _ => none

def Scope.code : Scope → Nat
  | .co => 0
  | .di => 1
  | .dv => 2
  | .sy => 3
def Scope.ofCode : Nat → Option Scope
  | 0 => some .co
  | 1 => some .di
  | 2 => some .dv
  | 3 => some .sy
  | _ => none

def FKind.code : FKind → Nat
  | .aq => 0
  | .rl => 1
  | .fl => 2
def FKind.ofCode : Nat → Option FKind
  | 0 => some .aq
  | 1 => some .rl
  | 2 => some .fl
  | _ => none

def View.code : View → Nat
  | .w => 0
  | .r => 1
  | .c => 2
  | .d => 3
def View.ofCode : Nat → Option View
  | 0 => some .w
  | 1 => some .r
  | 2 => some .c
  | 3 => some .d
  | _ => none

def RgFld.code : RgFld → Nat
  | .base => 0
  | .logsz => 1
  | .count => 2
  | .peer => 3
  | .reset => 4
def RgFld.ofCode : Nat → Option RgFld
  | 0 => some .base
  | 1 => some .logsz
  | 2 => some .count
  | 3 => some .peer
  | 4 => some .reset
  | _ => none

def RgCnt.code : RgCnt → Nat
  | .clm => 0
  | .fil => 1
  | .fre => 2
def RgCnt.ofCode : Nat → Option RgCnt
  | 0 => some .clm
  | 1 => some .fil
  | 2 => some .fre
  | _ => none

def El.code : El → Nat
  | .b => 0
  | .h => 1
  | .w => 2
  | .d => 3
  | .q => 4
def El.ofCode : Nat → Option El
  | 0 => some .b
  | 1 => some .h
  | 2 => some .w
  | 3 => some .d
  | 4 => some .q
  | _ => none

def VTy.code : VTy → Nat
  | .f32 => 0
  | .f16 => 1
  | .bf16 => 2
  | .e4m3 => 3
  | .e5m2 => 4
  | .i32 => 5
  | .i8 => 6
  | .n8 => 7
def VTy.ofCode : Nat → Option VTy
  | 0 => some .f32
  | 1 => some .f16
  | 2 => some .bf16
  | 3 => some .e4m3
  | 4 => some .e5m2
  | 5 => some .i32
  | 6 => some .i8
  | 7 => some .n8
  | _ => none

def Rnd.code : Rnd → Nat
  | .rne => 0
  | .rtz => 1
  | .rup => 2
  | .rdn => 3
def Rnd.ofCode : Nat → Option Rnd
  | 0 => some .rne
  | 1 => some .rtz
  | 2 => some .rup
  | 3 => some .rdn
  | _ => none

def Scheme.code : Scheme → Nat
  | .fp4 => 0
  | .mom1 => 1
  | .mom2 => 2
def Scheme.ofCode : Nat → Option Scheme
  | 0 => some .fp4
  | 1 => some .mom1
  | 2 => some .mom2
  | _ => none

def VCond.code : VCond → Nat
  | .eq => 0
  | .ne => 1
  | .lt => 2
  | .le => 3
  | .gt => 4
  | .ge => 5
  | .ltu => 6
  | .leu => 7
def VCond.ofCode : Nat → Option VCond
  | 0 => some .eq
  | 1 => some .ne
  | 2 => some .lt
  | 3 => some .le
  | 4 => some .gt
  | 5 => some .ge
  | 6 => some .ltu
  | 7 => some .leu
  | _ => none

def MaskOp.code : MaskOp → Nat
  | .push => 0
  | .pop => 1
  | .setem => 2
  | .and => 3
  | .or => 4
  | .andn => 5
  | .not => 6
  | .all => 7
def MaskOp.ofCode : Nat → Option MaskOp
  | 0 => some .push
  | 1 => some .pop
  | 2 => some .setem
  | 3 => some .and
  | 4 => some .or
  | 5 => some .andn
  | 6 => some .not
  | 7 => some .all
  | _ => none

def RedOp.code : RedOp → Nat
  | .add => 0
  | .max => 1
  | .min => 2
def RedOp.ofCode : Nat → Option RedOp
  | 0 => some .add
  | 1 => some .max
  | 2 => some .min
  | _ => none

def Sfu.code : Sfu → Nat
  | .exp2 => 0
  | .log2 => 1
  | .rcp => 2
  | .rsq => 3
  | .sqrt => 4
  | .tanh => 5
  | .sin => 6
  | .cos => 7
def Sfu.ofCode : Nat → Option Sfu
  | 0 => some .exp2
  | 1 => some .log2
  | 2 => some .rcp
  | 3 => some .rsq
  | 4 => some .sqrt
  | 5 => some .tanh
  | 6 => some .sin
  | 7 => some .cos
  | _ => none

def VAmoOp.code : VAmoOp → Nat
  | .add => 0
  | .swap => 1
  | .min => 2
  | .max => 3
  | .and => 4
  | .or => 5
def VAmoOp.ofCode : Nat → Option VAmoOp
  | 0 => some .add
  | 1 => some .swap
  | 2 => some .min
  | 3 => some .max
  | 4 => some .and
  | 5 => some .or
  | _ => none

def PlSel.code : PlSel → Nat
  | .p0 => 0
  | .p1 => 1
  | .both => 2
def PlSel.ofCode : Nat → Option PlSel
  | 0 => some .p0
  | 1 => some .p1
  | 2 => some .both
  | _ => none

def Csr.code : Csr → Nat
  | .status => 0
  | .cause => 1
  | .epc => 2
  | .tval => 3
  | .tvec => 4
  | .scratch => 5
  | .clabel => 16
  | .taskid => 17
  | .lcore => 18
  | .tstep => 19
  | .stitchset => 20
  | .budget => 21
  | .holdlim => 22
  | .fmtlvl => 32
  | .wmk0 => 33
  | .wmk1 => 34
  | .mrowprog => 35
  | .nstcur => 36
  | .weltstat => 37
  | .vtype => 48
  | .stg => 49
  | .bankstall => 50
  | .skipspec => 51
def Csr.ofCode : Nat → Option Csr
  | 0 => some .status
  | 1 => some .cause
  | 2 => some .epc
  | 3 => some .tval
  | 4 => some .tvec
  | 5 => some .scratch
  | 16 => some .clabel
  | 17 => some .taskid
  | 18 => some .lcore
  | 19 => some .tstep
  | 20 => some .stitchset
  | 21 => some .budget
  | 22 => some .holdlim
  | 32 => some .fmtlvl
  | 33 => some .wmk0
  | 34 => some .wmk1
  | 35 => some .mrowprog
  | 36 => some .nstcur
  | 37 => some .weltstat
  | 48 => some .vtype
  | 49 => some .stg
  | 50 => some .bankstall
  | 51 => some .skipspec
  | _ => none

/-- A 7-bit operand field: the register above the view code (R47). -/
def VOp.ofCode (n : Nat) : VOp :=
  ⟨Fin.ofNat 32 (n / 4), match n % 4 with | 0 => .w | 1 => .r | 2 => .c | _ => .d⟩
def VOp.code (o : VOp) : Nat := o.r.val * 4 + o.view.code

/-- The C-stream's table (R41). -/
def rawC (w : Nat) : Except Reject Instr :=
  match fld w 23 6 with
  | 1 => zeros w [(0, 5)] (.ok (.add (hdr w) (Fin.ofNat 64 (fld w 17 6)) (Fin.ofNat 64 (fld w 11 6)) (Fin.ofNat 64 (fld w 5 6))))
  | 2 => .ok (.addImm (hdr w) (Fin.ofNat 64 (fld w 17 6)) (Fin.ofNat 64 (fld w 11 6)) (BitVec.ofNat 11 (fld w 0 11)))
  | 3 => zeros w [(0, 5)] (.ok (.sub (hdr w) (Fin.ofNat 64 (fld w 17 6)) (Fin.ofNat 64 (fld w 11 6)) (Fin.ofNat 64 (fld w 5 6))))
  | 4 => zeros w [(0, 5)] (.ok (.mul (hdr w) (Fin.ofNat 64 (fld w 17 6)) (Fin.ofNat 64 (fld w 11 6)) (Fin.ofNat 64 (fld w 5 6))))
  | 5 => zeros w [(1, 4)] (.ok (.mulh (hdr w) (Fin.ofNat 64 (fld w 17 6)) (Fin.ofNat 64 (fld w 11 6)) (Fin.ofNat 64 (fld w 5 6)) ((fld w 0 1) == 1)))
  | 6 => zeros w [(1, 4)] (.ok (.div (hdr w) (Fin.ofNat 64 (fld w 17 6)) (Fin.ofNat 64 (fld w 11 6)) (Fin.ofNat 64 (fld w 5 6)) ((fld w 0 1) == 1)))
  | 7 => zeros w [(1, 4)] (.ok (.rem (hdr w) (Fin.ofNat 64 (fld w 17 6)) (Fin.ofNat 64 (fld w 11 6)) (Fin.ofNat 64 (fld w 5 6)) ((fld w 0 1) == 1)))
  | 8 => zeros w [(0, 5)] (.ok (.and (hdr w) (Fin.ofNat 64 (fld w 17 6)) (Fin.ofNat 64 (fld w 11 6)) (Fin.ofNat 64 (fld w 5 6))))
  | 9 => .ok (.andImm (hdr w) (Fin.ofNat 64 (fld w 17 6)) (Fin.ofNat 64 (fld w 11 6)) (BitVec.ofNat 11 (fld w 0 11)))
  | 10 => zeros w [(0, 5)] (.ok (.or (hdr w) (Fin.ofNat 64 (fld w 17 6)) (Fin.ofNat 64 (fld w 11 6)) (Fin.ofNat 64 (fld w 5 6))))
  | 11 => .ok (.orImm (hdr w) (Fin.ofNat 64 (fld w 17 6)) (Fin.ofNat 64 (fld w 11 6)) (BitVec.ofNat 11 (fld w 0 11)))
  | 12 => zeros w [(0, 5)] (.ok (.xor (hdr w) (Fin.ofNat 64 (fld w 17 6)) (Fin.ofNat 64 (fld w 11 6)) (Fin.ofNat 64 (fld w 5 6))))
  | 13 => .ok (.xorImm (hdr w) (Fin.ofNat 64 (fld w 17 6)) (Fin.ofNat 64 (fld w 11 6)) (BitVec.ofNat 11 (fld w 0 11)))
  | 14 => zeros w [(0, 4)] (.ok (.shl (hdr w) (Fin.ofNat 64 (fld w 17 6)) (Fin.ofNat 64 (fld w 11 6)) (Fin.ofNat 64 (fld w 5 6)) ((fld w 4 1) == 1)))
  | 15 => zeros w [(0, 4)] (.ok (.shr (hdr w) (Fin.ofNat 64 (fld w 17 6)) (Fin.ofNat 64 (fld w 11 6)) (Fin.ofNat 64 (fld w 5 6)) ((fld w 4 1) == 1)))
  | 16 => zeros w [(0, 4)] (.ok (.sra (hdr w) (Fin.ofNat 64 (fld w 17 6)) (Fin.ofNat 64 (fld w 11 6)) (Fin.ofNat 64 (fld w 5 6)) ((fld w 4 1) == 1)))
  | 17 => zeros w [(0, 5)] (.ok (.slt (hdr w) (Fin.ofNat 64 (fld w 17 6)) (Fin.ofNat 64 (fld w 11 6)) (Fin.ofNat 64 (fld w 5 6))))
  | 18 => .ok (.sltImm (hdr w) (Fin.ofNat 64 (fld w 17 6)) (Fin.ofNat 64 (fld w 11 6)) (BitVec.ofNat 11 (fld w 0 11)))
  | 19 => zeros w [(0, 5)] (.ok (.sltu (hdr w) (Fin.ofNat 64 (fld w 17 6)) (Fin.ofNat 64 (fld w 11 6)) (Fin.ofNat 64 (fld w 5 6))))
  | 20 => zeros w [(1, 4)] (.ok (.min (hdr w) (Fin.ofNat 64 (fld w 17 6)) (Fin.ofNat 64 (fld w 11 6)) (Fin.ofNat 64 (fld w 5 6)) ((fld w 0 1) == 1)))
  | 21 => zeros w [(1, 4)] (.ok (.max (hdr w) (Fin.ofNat 64 (fld w 17 6)) (Fin.ofNat 64 (fld w 11 6)) (Fin.ofNat 64 (fld w 5 6)) ((fld w 0 1) == 1)))
  | 22 => zeros w [(0, 11)] (.ok (.clz (hdr w) (Fin.ofNat 64 (fld w 17 6)) (Fin.ofNat 64 (fld w 11 6))))
  | 23 => zeros w [(0, 11)] (.ok (.popc (hdr w) (Fin.ofNat 64 (fld w 17 6)) (Fin.ofNat 64 (fld w 11 6))))
  | 24 => zeros w [(0, 5)] (.ok (.csel (hdr w) (Fin.ofNat 64 (fld w 17 6)) (Fin.ofNat 64 (fld w 11 6)) (Fin.ofNat 64 (fld w 5 6))))
  | 25 => .ok (.lui (hdr w) (Fin.ofNat 64 (fld w 17 6)) (BitVec.ofNat 17 (fld w 0 17)))
  | 26 => variant (CC.ofCode (fld w 20 3)) fun cc => .ok (.br (hdr w) cc (Fin.ofNat 64 (fld w 14 6)) (Fin.ofNat 64 (fld w 8 6)) (BitVec.ofNat 8 (fld w 0 8)))
  | 27 => .ok (.jal (hdr w) (Fin.ofNat 64 (fld w 17 6)) (BitVec.ofNat 17 (fld w 0 17)))
  | 28 => .ok (.jalr (hdr w) (Fin.ofNat 64 (fld w 17 6)) (Fin.ofNat 64 (fld w 11 6)) (BitVec.ofNat 11 (fld w 0 11)))
  | 29 => .ok (.ld (hdr w) (Fin.ofNat 64 (fld w 17 6)) (Fin.ofNat 64 (fld w 11 6)) (Fin.ofNat 4 (fld w 9 2)) (Fin.ofNat 4 (fld w 7 2)) (BitVec.ofNat 7 (fld w 0 7)))
  | 30 => .ok (.st (hdr w) (Fin.ofNat 64 (fld w 17 6)) (Fin.ofNat 64 (fld w 11 6)) (Fin.ofNat 4 (fld w 9 2)) (Fin.ofNat 4 (fld w 7 2)) (BitVec.ofNat 7 (fld w 0 7)))
  | 31 => variant (AtOp.ofCode (fld w 2 3)) fun p => variant (Scope.ofCode (fld w 0 2)) fun c => .ok (.amoW (hdr w) (Fin.ofNat 64 (fld w 17 6)) (Fin.ofNat 64 (fld w 11 6)) (Fin.ofNat 64 (fld w 5 6)) p c)
  | 32 => variant (AtOp.ofCode (fld w 2 3)) fun p => variant (Scope.ofCode (fld w 0 2)) fun c => .ok (.amoD (hdr w) (Fin.ofNat 64 (fld w 17 6)) (Fin.ofNat 64 (fld w 11 6)) (Fin.ofNat 64 (fld w 5 6)) p c)
  | 33 => zeros w [(3, 2)] (variant (Scope.ofCode (fld w 0 2)) fun c => .ok (.cas (hdr w) (Fin.ofNat 64 (fld w 17 6)) (Fin.ofNat 64 (fld w 11 6)) (Fin.ofNat 64 (fld w 5 6)) ((fld w 2 1) == 1) c))
  | 34 =>
    match fld w 0 5 with
    | 0 => zeros w [(17, 6)] (.ok (.daccOpen (hdr w) (Fin.ofNat 64 (fld w 11 6)) (Fin.ofNat 64 (fld w 5 6))))
    | 1 => zeros w [(17, 6)] (.ok (.daccAdd (hdr w) (Fin.ofNat 64 (fld w 11 6)) (Fin.ofNat 64 (fld w 5 6))))
    | 2 => zeros w [(17, 6)] (.ok (.daccAddx (hdr w) (Fin.ofNat 64 (fld w 11 6)) (Fin.ofNat 64 (fld w 5 6))))
    | 3 => zeros w [(5, 6)] (.ok (.daccRead (hdr w) (Fin.ofNat 64 (fld w 17 6)) (Fin.ofNat 64 (fld w 11 6))))
    | 4 => zeros w [(17, 6), (5, 6)] (.ok (.daccClose (hdr w) (Fin.ofNat 64 (fld w 11 6))))
    | _ => .error .illegalVariant
  | 35 => zeros w [(4, 19)] (variant (FKind.ofCode (fld w 2 2)) fun n => variant (Scope.ofCode (fld w 0 2)) fun c => .ok (.fence (hdr w) n c))
  | 36 => zeros w [(0, 23)] (.ok (.qalign (hdr w)))
  | 37 => zeros w [(17, 6), (0, 11)] (.ok (.fmtq (hdr w) (Fin.ofNat 64 (fld w 11 6))))
  | 38 => zeros w [(11, 6)] (.ok (.nstset (hdr w) (Fin.ofNat 64 (fld w 17 6)) (Fin.ofNat 8 (fld w 8 3)) (Fin.ofNat 8 (fld w 5 3)) (Fin.ofNat 32 (fld w 0 5))))
  | 39 => zeros w [(11, 6), (4, 3)] (variant (RgFld.ofCode (fld w 0 4)) fun f => .ok (.rgset (hdr w) (Fin.ofNat 64 (fld w 17 6)) (Fin.ofNat 16 (fld w 7 4)) f))
  | 40 => zeros w [(11, 6), (2, 5)] (variant (RgCnt.ofCode (fld w 0 2)) fun n => .ok (.rgqry (hdr w) (Fin.ofNat 64 (fld w 17 6)) (Fin.ofNat 16 (fld w 7 4)) n))
  | 41 => zeros w [(0, 11)] (.ok (.lbget (hdr w) (Fin.ofNat 64 (fld w 17 6)) (Fin.ofNat 64 (fld w 11 6))))
  | 42 => zeros w [(0, 5)] (.ok (.lbchk (hdr w) (Fin.ofNat 64 (fld w 17 6)) (Fin.ofNat 64 (fld w 11 6)) (Fin.ofNat 64 (fld w 5 6))))
  | 43 => zeros w [(17, 6), (0, 11)] (.ok (.lcdecl (hdr w) (Fin.ofNat 64 (fld w 11 6))))
  | 44 => zeros w [(0, 11)] (.ok (.lcsub (hdr w) (Fin.ofNat 64 (fld w 17 6)) (Fin.ofNat 64 (fld w 11 6))))
  | 45 => zeros w [(0, 23)] (.ok (.lcwait (hdr w)))
  | 46 => zeros w [(0, 23)] (.ok (.lcend (hdr w)))
  | 47 => zeros w [(17, 6), (1, 10)] (.ok (.cqput (hdr w) (Fin.ofNat 64 (fld w 11 6)) ((fld w 0 1) == 1)))
  | 48 => zeros w [(11, 6)] (variant (Csr.ofCode (fld w 0 11)) fun c => .ok (.csrr (hdr w) (Fin.ofNat 64 (fld w 17 6)) c))
  | 49 => variant (Csr.ofCode (fld w 0 11)) fun c => .ok (.csrw (hdr w) (Fin.ofNat 64 (fld w 17 6)) (Fin.ofNat 64 (fld w 11 6)) c)
  | 50 => zeros w [(17, 6)] (.ok (.trap (hdr w) (BitVec.ofNat 17 (fld w 0 17))))
  | 51 => zeros w [(0, 23)] (.ok (.eret (hdr w)))
  | 52 => zeros w [(0, 23)] (.ok (.wfe (hdr w)))
  | 53 => zeros w [(0, 23)] (.ok (.yield (hdr w)))
  | 54 => zeros w [(0, 23)] (.ok (.taskend (hdr w)))
  | 55 => zeros w [(0, 5)] (.ok (.launch (hdr w) (Fin.ofNat 64 (fld w 17 6)) (Fin.ofNat 64 (fld w 11 6)) (Fin.ofNat 64 (fld w 5 6))))
  | _ => .error .unassigned

/-- The A-stream's table (R46). -/
def rawA (w : Nat) : Except Reject Instr :=
  match fld w 23 6 with
  | 1 => zeros w [(0, 8)] (.ok (.aadd (hdr w) (Fin.ofNat 32 (fld w 18 5)) (Fin.ofNat 32 (fld w 13 5)) (Fin.ofNat 32 (fld w 8 5))))
  | 3 => zeros w [(0, 8)] (.ok (.asub (hdr w) (Fin.ofNat 32 (fld w 18 5)) (Fin.ofNat 32 (fld w 13 5)) (Fin.ofNat 32 (fld w 8 5))))
  | 4 => zeros w [(0, 8)] (.ok (.amul (hdr w) (Fin.ofNat 32 (fld w 18 5)) (Fin.ofNat 32 (fld w 13 5)) (Fin.ofNat 32 (fld w 8 5))))
  | 7 => zeros w [(0, 8)] (.ok (.aand (hdr w) (Fin.ofNat 32 (fld w 18 5)) (Fin.ofNat 32 (fld w 13 5)) (Fin.ofNat 32 (fld w 8 5))))
  | 2 => .ok (.aaddImm (hdr w) (Fin.ofNat 32 (fld w 18 5)) (Fin.ofNat 32 (fld w 13 5)) (BitVec.ofNat 13 (fld w 0 13)))
  | 5 => zeros w [(6, 7)] (.ok (.ashl (hdr w) (Fin.ofNat 32 (fld w 18 5)) (Fin.ofNat 32 (fld w 13 5)) (Fin.ofNat 64 (fld w 0 6))))
  | 6 => zeros w [(6, 7)] (.ok (.ashr (hdr w) (Fin.ofNat 32 (fld w 18 5)) (Fin.ofNat 32 (fld w 13 5)) (Fin.ofNat 64 (fld w 0 6))))
  | 8 => zeros w [(13, 5)] (.ok (.amovi (hdr w) (Fin.ofNat 32 (fld w 18 5)) (BitVec.ofNat 13 (fld w 0 13))))
  | 9 => variant (CC.ofCode (fld w 20 3)) fun cc => .ok (.abr (hdr w) cc (Fin.ofNat 32 (fld w 15 5)) (Fin.ofNat 32 (fld w 10 5)) (BitVec.ofNat 10 (fld w 0 10)))
  | 10 => zeros w [(20, 3), (10, 5)] (.ok (.aloop (hdr w) (Fin.ofNat 32 (fld w 15 5)) (BitVec.ofNat 10 (fld w 0 10))))
  | 11 => zeros w [(0, 18)] (.ok (.acqpop (hdr w) (Fin.ofNat 32 (fld w 18 5))))
  | 16 => zeros w [(1, 3)] (variant (Scope.ofCode (fld w 7 2)) fun c => variant (El.ofCode (fld w 4 3)) fun e => .ok (.ald (hdr w) (Fin.ofNat 32 (fld w 18 5)) (Fin.ofNat 32 (fld w 13 5)) (Fin.ofNat 16 (fld w 9 4)) c e ((fld w 0 1) == 1)))
  | 17 => zeros w [(1, 3)] (variant (Scope.ofCode (fld w 7 2)) fun c => variant (El.ofCode (fld w 4 3)) fun e => .ok (.ast (hdr w) (Fin.ofNat 32 (fld w 18 5)) (Fin.ofNat 32 (fld w 13 5)) (Fin.ofNat 16 (fld w 9 4)) c e ((fld w 0 1) == 1)))
  | 18 => zeros w [(4, 1)] (variant (El.ofCode (fld w 0 3)) fun e => .ok (.agath (hdr w) (Fin.ofNat 32 (fld w 18 5)) (Fin.ofNat 32 (fld w 13 5)) (Fin.ofNat 16 (fld w 9 4)) (Fin.ofNat 16 (fld w 5 4)) ((fld w 3 1) == 1) e))
  | 19 => zeros w [(3, 2)] (variant (El.ofCode (fld w 0 3)) fun e => .ok (.ascat (hdr w) (Fin.ofNat 32 (fld w 18 5)) (Fin.ofNat 32 (fld w 13 5)) (Fin.ofNat 16 (fld w 9 4)) (Fin.ofNat 16 (fld w 5 4)) e))
  | 20 => zeros w [(2, 6)] (variant (Scope.ofCode (fld w 0 2)) fun c => .ok (.acopy (hdr w) (Fin.ofNat 32 (fld w 18 5)) (Fin.ofNat 32 (fld w 13 5)) (Fin.ofNat 32 (fld w 8 5)) c))
  | 21 => zeros w [(13, 5), (2, 6)] (variant (Scope.ofCode (fld w 0 2)) fun c => .ok (.azero (hdr w) (Fin.ofNat 32 (fld w 18 5)) (Fin.ofNat 32 (fld w 8 5)) c))
  | 22 => zeros w [(18, 5), (0, 8)] (.ok (.apref (hdr w) (Fin.ofNat 32 (fld w 13 5)) (Fin.ofNat 32 (fld w 8 5))))
  | 23 => zeros w [(0, 4)] (variant (Scope.ofCode (fld w 7 2)) fun c => variant (El.ofCode (fld w 4 3)) fun e => .ok (.axput (hdr w) (Fin.ofNat 32 (fld w 18 5)) (Fin.ofNat 32 (fld w 13 5)) (Fin.ofNat 16 (fld w 9 4)) c e))
  | 24 => zeros w [(0, 4)] (variant (AtOp.ofCode (fld w 5 3)) fun p => .ok (.aamo (hdr w) (Fin.ofNat 32 (fld w 18 5)) (Fin.ofNat 32 (fld w 13 5)) (Fin.ofNat 32 (fld w 8 5)) p ((fld w 4 1) == 1)))
  | 25 => zeros w [(4, 14)] (.ok (.aidx (hdr w) (Fin.ofNat 32 (fld w 18 5)) (Fin.ofNat 16 (fld w 0 4))))
  | 26 => zeros w [(13, 10)] (.ok (.awfill (hdr w) (Fin.ofNat 512 (fld w 4 9)) (Fin.ofNat 16 (fld w 0 4))))
  | 27 => zeros w [(13, 10)] (.ok (.awfree (hdr w) (Fin.ofNat 512 (fld w 4 9)) (Fin.ofNat 16 (fld w 0 4))))
  | 28 => zeros w [(4, 19)] (variant (FKind.ofCode (fld w 2 2)) fun n => variant (Scope.ofCode (fld w 0 2)) fun c => .ok (.afence (hdr w) n c))
  | _ => .error .unassigned

/-- The V-stream's table (R48). -/
def rawV (w : Nat) : Except Reject Instr :=
  match fld w 23 6 with
  | 1 => .ok (.vadd (hdr w) (VOp.ofCode (fld w 16 7)) (VOp.ofCode (fld w 9 7)) (VOp.ofCode (fld w 2 7)) (Fin.ofNat 4 (fld w 0 2)))
  | 2 => .ok (.vsub (hdr w) (VOp.ofCode (fld w 16 7)) (VOp.ofCode (fld w 9 7)) (VOp.ofCode (fld w 2 7)) (Fin.ofNat 4 (fld w 0 2)))
  | 3 => .ok (.vmul (hdr w) (VOp.ofCode (fld w 16 7)) (VOp.ofCode (fld w 9 7)) (VOp.ofCode (fld w 2 7)) (Fin.ofNat 4 (fld w 0 2)))
  | 4 => .ok (.vfma (hdr w) (VOp.ofCode (fld w 16 7)) (VOp.ofCode (fld w 9 7)) (VOp.ofCode (fld w 2 7)) (Fin.ofNat 4 (fld w 0 2)))
  | 5 => .ok (.vmin (hdr w) (VOp.ofCode (fld w 16 7)) (VOp.ofCode (fld w 9 7)) (VOp.ofCode (fld w 2 7)) (Fin.ofNat 4 (fld w 0 2)))
  | 6 => .ok (.vmax (hdr w) (VOp.ofCode (fld w 16 7)) (VOp.ofCode (fld w 9 7)) (VOp.ofCode (fld w 2 7)) (Fin.ofNat 4 (fld w 0 2)))
  | 7 => zeros w [(2, 7)] (.ok (.vabs (hdr w) (VOp.ofCode (fld w 16 7)) (VOp.ofCode (fld w 9 7)) (Fin.ofNat 4 (fld w 0 2))))
  | 8 => .ok (.vand (hdr w) (VOp.ofCode (fld w 16 7)) (VOp.ofCode (fld w 9 7)) (VOp.ofCode (fld w 2 7)) (Fin.ofNat 4 (fld w 0 2)))
  | 9 => .ok (.vor (hdr w) (VOp.ofCode (fld w 16 7)) (VOp.ofCode (fld w 9 7)) (VOp.ofCode (fld w 2 7)) (Fin.ofNat 4 (fld w 0 2)))
  | 10 => .ok (.vxor (hdr w) (VOp.ofCode (fld w 16 7)) (VOp.ofCode (fld w 9 7)) (VOp.ofCode (fld w 2 7)) (Fin.ofNat 4 (fld w 0 2)))
  | 11 => .ok (.vshl (hdr w) (VOp.ofCode (fld w 16 7)) (VOp.ofCode (fld w 9 7)) (VOp.ofCode (fld w 2 7)) (Fin.ofNat 4 (fld w 0 2)))
  | 12 => .ok (.vshr (hdr w) (VOp.ofCode (fld w 16 7)) (VOp.ofCode (fld w 9 7)) (VOp.ofCode (fld w 2 7)) (Fin.ofNat 4 (fld w 0 2)))
  | 13 => zeros w [(16, 2), (9, 2)] (variant (VTy.ofCode (fld w 6 3)) fun t => variant (VTy.ofCode (fld w 3 3)) fun u => variant (Rnd.ofCode (fld w 1 2)) fun n => .ok (.vcvt (hdr w) (Fin.ofNat 32 (fld w 18 5)) (Fin.ofNat 32 (fld w 11 5)) t u n ((fld w 0 1) == 1)))
  | 14 => zeros w [(16, 2), (9, 2), (2, 2)] (variant (Scheme.ofCode (fld w 0 2)) fun m => .ok (.vqnt (hdr w) (Fin.ofNat 32 (fld w 18 5)) (Fin.ofNat 32 (fld w 11 5)) (Fin.ofNat 32 (fld w 4 5)) m))
  | 15 => zeros w [(16, 2), (9, 2), (2, 2)] (variant (Scheme.ofCode (fld w 0 2)) fun m => .ok (.vdqnt (hdr w) (Fin.ofNat 32 (fld w 18 5)) (Fin.ofNat 32 (fld w 11 5)) (Fin.ofNat 32 (fld w 4 5)) m))
  | 16 => zeros w [(16, 3)] (variant (VCond.ofCode (fld w 19 4)) fun c => .ok (.vcmp (hdr w) c (VOp.ofCode (fld w 9 7)) (VOp.ofCode (fld w 2 7)) (Fin.ofNat 4 (fld w 0 2))))
  | 17 => .ok (.vsel (hdr w) (VOp.ofCode (fld w 16 7)) (VOp.ofCode (fld w 9 7)) (VOp.ofCode (fld w 2 7)) (Fin.ofNat 4 (fld w 0 2)))
  | 18 => zeros w [(0, 17)] (variant (MaskOp.ofCode (fld w 17 6)) fun n => .ok (.vmask (hdr w) n))
  | 19 =>
    match fld w 8 1 with
    | 0 => zeros w [(2, 7)] (.ok (.vmov (hdr w) (VOp.ofCode (fld w 16 7)) (VOp.ofCode (fld w 9 7)) (Fin.ofNat 4 (fld w 0 2))))
    | 1 => zeros w [(16, 2), (9, 7)] (.ok (.vmovImm (hdr w) (Fin.ofNat 32 (fld w 18 5)) (BitVec.ofNat 8 (fld w 0 8))))
    | _ => .error .illegalVariant
  | 20 => zeros w [(16, 2), (2, 7)] (.ok (.vbcr (hdr w) (Fin.ofNat 32 (fld w 18 5)) (VOp.ofCode (fld w 9 7)) (Fin.ofNat 4 (fld w 0 2))))
  | 21 => zeros w [(16, 2), (2, 7)] (.ok (.vbcc (hdr w) (Fin.ofNat 32 (fld w 18 5)) (VOp.ofCode (fld w 9 7)) (Fin.ofNat 4 (fld w 0 2))))
  | 22 => zeros w [(16, 2), (9, 2)] (.ok (.vrotr (hdr w) (Fin.ofNat 32 (fld w 18 5)) (Fin.ofNat 32 (fld w 11 5)) (Fin.ofNat 512 (fld w 0 9))))
  | 23 => zeros w [(16, 2), (9, 2)] (.ok (.vrotc (hdr w) (Fin.ofNat 32 (fld w 18 5)) (Fin.ofNat 32 (fld w 11 5)) (Fin.ofNat 512 (fld w 0 9))))
  | 24 => zeros w [(16, 2), (9, 2), (2, 7)] (variant (RedOp.ofCode (fld w 0 2)) fun o => .ok (.vredr (hdr w) (Fin.ofNat 32 (fld w 18 5)) (Fin.ofNat 32 (fld w 11 5)) o))
  | 25 => zeros w [(16, 2), (9, 2), (2, 7)] (variant (RedOp.ofCode (fld w 0 2)) fun o => .ok (.vredc (hdr w) (Fin.ofNat 32 (fld w 18 5)) (Fin.ofNat 32 (fld w 11 5)) o))
  | 26 => zeros w [(16, 2), (0, 11)] (.ok (.vtrn (hdr w) (Fin.ofNat 32 (fld w 18 5)) (Fin.ofNat 32 (fld w 11 5))))
  | 27 => zeros w [(16, 2), (9, 2), (3, 6)] (variant (Sfu.ofCode (fld w 0 3)) fun f => .ok (.vsfu (hdr w) (Fin.ofNat 32 (fld w 18 5)) (Fin.ofNat 32 (fld w 11 5)) f))
  | 28 => zeros w [(16, 2), (9, 2)] (.ok (.vtopk (hdr w) (Fin.ofNat 32 (fld w 18 5)) (Fin.ofNat 32 (fld w 11 5)) (Fin.ofNat 512 (fld w 0 9))))
  | 29 => zeros w [(16, 2), (9, 7)] (.ok (.viota (hdr w) (Fin.ofNat 32 (fld w 18 5)) (BitVec.ofNat 9 (fld w 0 9))))
  | 32 => zeros w [(16, 2)] (.ok (.vld (hdr w) (Fin.ofNat 32 (fld w 18 5)) (Fin.ofNat 4 (fld w 14 2)) (Fin.ofNat 8 (fld w 11 3)) (Fin.ofNat 2048 (fld w 0 11))))
  | 33 => zeros w [(16, 2)] (.ok (.vst (hdr w) (Fin.ofNat 32 (fld w 18 5)) (Fin.ofNat 4 (fld w 14 2)) (Fin.ofNat 8 (fld w 11 3)) (Fin.ofNat 2048 (fld w 0 11))))
  | 34 => zeros w [(5, 4)] (variant (VTy.ofCode (fld w 9 3)) fun t => .ok (.vpop (hdr w) (VOp.ofCode (fld w 16 7)) (Fin.ofNat 16 (fld w 12 4)) t (Fin.ofNat 4 (fld w 3 2)) (Fin.ofNat 8 (fld w 0 3))))
  | 35 => zeros w [(5, 4)] (variant (VTy.ofCode (fld w 9 3)) fun t => .ok (.vpush (hdr w) (VOp.ofCode (fld w 16 7)) (Fin.ofNat 16 (fld w 12 4)) t (Fin.ofNat 4 (fld w 3 2)) (Fin.ofNat 8 (fld w 0 3))))
  | 36 => zeros w [(8, 15)] (.ok (.vwaitl (hdr w) (BitVec.ofNat 8 (fld w 0 8))))
  | 37 => zeros w [(16, 2)] (variant (VAmoOp.ofCode (fld w 8 3)) fun o => .ok (.vamo (hdr w) (Fin.ofNat 32 (fld w 18 5)) (Fin.ofNat 4 (fld w 14 2)) (Fin.ofNat 8 (fld w 11 3)) o (Fin.ofNat 256 (fld w 0 8))))
  | 38 => zeros w [(12, 4), (2, 1)] (.ok (.vmrd (hdr w) (VOp.ofCode (fld w 16 7)) ((fld w 11 1) == 1) (Fin.ofNat 128 (fld w 4 7)) ((fld w 3 1) == 1) (Fin.ofNat 4 (fld w 0 2))))
  | 39 => zeros w [(0, 18)] (.ok (.vcqpop (hdr w) (Fin.ofNat 32 (fld w 18 5))))
  | 40 => zeros w [(8, 15)] (variant (VTy.ofCode (fld w 4 3)) fun t => variant (Rnd.ofCode (fld w 2 2)) fun n => .ok (.vsett (hdr w) ((fld w 7 1) == 1) t n ((fld w 1 1) == 1) ((fld w 0 1) == 1)))
  | 41 => zeros w [(19, 2)] (.ok (.vsetix (hdr w) ((fld w 22 1) == 1) ((fld w 21 1) == 1) (Fin.ofNat 4 (fld w 17 2)) (BitVec.ofNat 17 (fld w 0 17))))
  | 42 => zeros w [(0, 12)] (.ok (.vloop (hdr w) (Fin.ofNat 64 (fld w 17 6)) (Fin.ofNat 8 (fld w 14 3)) (Fin.ofNat 4 (fld w 12 2))))
  | 43 => zeros w [(3, 20)] (.ok (.vstg (hdr w) (Fin.ofNat 8 (fld w 0 3))))
  | _ => .error .unassigned

/-- The M-stream's table (R50). -/
def rawM (w : Nat) : Except Reject Instr :=
  match fld w 23 6 with
  | 1 => zeros w [(19, 1), (3, 15)] (.ok (.mgo (hdr w) (Fin.ofNat 8 (fld w 20 3)) ((fld w 18 1) == 1) ((fld w 2 1) == 1) ((fld w 1 1) == 1) ((fld w 0 1) == 1)))
  | 2 => zeros w [(19, 4), (3, 3)] (.ok (.mma (hdr w) ((fld w 18 1) == 1) (Fin.ofNat 16 (fld w 14 4)) (Fin.ofNat 16 (fld w 10 4)) (Fin.ofNat 16 (fld w 6 4)) ((fld w 2 1) == 1) ((fld w 1 1) == 1) ((fld w 0 1) == 1)))
  | 3 => zeros w [(19, 4), (2, 4)] (.ok (.mmas (hdr w) ((fld w 18 1) == 1) (Fin.ofNat 16 (fld w 14 4)) (Fin.ofNat 16 (fld w 10 4)) (Fin.ofNat 16 (fld w 6 4)) ((fld w 1 1) == 1) ((fld w 0 1) == 1)))
  | 4 => zeros w [(20, 3), (0, 18)] (variant (PlSel.ofCode (fld w 18 2)) fun p => .ok (.mzero (hdr w) p))
  | 5 =>
    match fld w 14 4 with
    | 0 => zeros w [(19, 1), (0, 18)] (.ok (.mdrainMem (hdr w) (Fin.ofNat 8 (fld w 20 3)) ((fld w 18 1) == 1)))
    | 1 => zeros w [(19, 4), (10, 4), (0, 6)] (.ok (.mdrainRing (hdr w) ((fld w 18 1) == 1) (Fin.ofNat 16 (fld w 6 4))))
    | _ => .error .illegalVariant
  | 6 => zeros w [(0, 23)] (.ok (.mswap (hdr w)))
  | 7 => zeros w [(19, 4), (0, 10)] (.ok (.mwait (hdr w) ((fld w 18 1) == 1) (Fin.ofNat 256 (fld w 10 8))))
  | 8 => zeros w [(4, 16), (0, 3)] (.ok (.mcfg (hdr w) (Fin.ofNat 8 (fld w 20 3)) ((fld w 3 1) == 1)))
  | 9 => zeros w [(0, 20)] (.ok (.mwelt (hdr w) (Fin.ofNat 8 (fld w 20 3))))
  | 10 => zeros w [(0, 20)] (.ok (.mrstr (hdr w) (Fin.ofNat 8 (fld w 20 3))))
  | 11 => zeros w [(0, 23)] (.ok (.mbar (hdr w)))
  | _ => .error .unassigned

/-- The common group, OP 0x3F (R51). -/
def rawCommon (st : Stream) (w : Nat) : Except Reject Instr :=
  match fld w 18 5 with
  | 0 => zeros w [(0, 18)] (.ok (.nop st (hdr w)))
  | 1 => zeros w [(0, 14)] (.ok (.tkwait st (hdr w) (Fin.ofNat 16 (fld w 14 4))))
  | 2 => zeros w [(0, 14)] (.ok (.tksig st (hdr w) (Fin.ofNat 16 (fld w 14 4))))
  | 3 => zeros w [(0, 10)] (.ok (.troute st (hdr w) (Fin.ofNat 16 (fld w 14 4)) (Fin.ofNat 16 (fld w 10 4))))
  | 4 => zeros w [(0, 12)] (.ok (.hold st (hdr w) (Fin.ofNat 64 (fld w 12 6))))
  | 5 => .ok (.brk st (hdr w) (BitVec.ofNat 18 (fld w 0 18)))
  | 6 => zeros w [(0, 18)] (.ok (.stend st (hdr w)))
  | _ => .error .unassigned

/-- The fields of a word read by the fetching stream's table, before the limits on operands (R35, R36). -/
def rawDecode (st : Stream) (w : Nat) : Except Reject Instr :=
  if fld w 23 6 = 63 then rawCommon st w
  else match st with
    | .c => rawC w
    | .a => rawA w
    | .v => rawV w
    | .m => rawM w

/-- Whether an instruction is one of the core's words (R44). -/
def Instr.onCore (dispatch : Bool) (i : Instr) : Bool :=
  if dispatch then !i.notOnDispatch else !i.onlyOnDispatch

/-- The decoder: the instruction that a stream of a compute core (or of a dispatch core) reads from a 32-bit word (R36, R44). Log 9: DEDUCED. -/
def decode (dispatch : Bool) (st : Stream) (w : Nat) : Except Reject Instr :=
  match rawDecode st w with
  | .error r => .error r
  | .ok i =>
    if !i.wellFormed then .error .illegalOperand
    else if !i.onCore dispatch then .error .wrongCore
    else .ok i

/-- The word of a header, an OP and a body below bit 23 (R35). -/
def encWord (h : Hdr) (op body : Nat) : Nat :=
  h.w.toNat * 2147483648 + h.s.toNat * 1073741824 + h.k.toNat * 536870912 + op * 8388608 + body

/-- The encoder: the word of an instruction, none for a step that has no word (R38, R45, R47, R50, R51). -/
def encode : Instr → Option Nat
  | .add h d a b => some (encWord h 1 (d.val * 131072 + a.val * 2048 + b.val * 32))
  | .addImm h d a i => some (encWord h 2 (d.val * 131072 + a.val * 2048 + i.toNat))
  | .sub h d a b => some (encWord h 3 (d.val * 131072 + a.val * 2048 + b.val * 32))
  | .mul h d a b => some (encWord h 4 (d.val * 131072 + a.val * 2048 + b.val * 32))
  | .mulh h d a b u => some (encWord h 5 (d.val * 131072 + a.val * 2048 + b.val * 32 + u.toNat))
  | .div h d a b u => some (encWord h 6 (d.val * 131072 + a.val * 2048 + b.val * 32 + u.toNat))
  | .rem h d a b u => some (encWord h 7 (d.val * 131072 + a.val * 2048 + b.val * 32 + u.toNat))
  | .and h d a b => some (encWord h 8 (d.val * 131072 + a.val * 2048 + b.val * 32))
  | .andImm h d a i => some (encWord h 9 (d.val * 131072 + a.val * 2048 + i.toNat))
  | .or h d a b => some (encWord h 10 (d.val * 131072 + a.val * 2048 + b.val * 32))
  | .orImm h d a i => some (encWord h 11 (d.val * 131072 + a.val * 2048 + i.toNat))
  | .xor h d a b => some (encWord h 12 (d.val * 131072 + a.val * 2048 + b.val * 32))
  | .xorImm h d a i => some (encWord h 13 (d.val * 131072 + a.val * 2048 + i.toNat))
  | .shl h d a b m => some (encWord h 14 (d.val * 131072 + a.val * 2048 + b.val * 32 + m.toNat * 16))
  | .shr h d a b m => some (encWord h 15 (d.val * 131072 + a.val * 2048 + b.val * 32 + m.toNat * 16))
  | .sra h d a b m => some (encWord h 16 (d.val * 131072 + a.val * 2048 + b.val * 32 + m.toNat * 16))
  | .slt h d a b => some (encWord h 17 (d.val * 131072 + a.val * 2048 + b.val * 32))
  | .sltImm h d a i => some (encWord h 18 (d.val * 131072 + a.val * 2048 + i.toNat))
  | .sltu h d a b => some (encWord h 19 (d.val * 131072 + a.val * 2048 + b.val * 32))
  | .min h d a b u => some (encWord h 20 (d.val * 131072 + a.val * 2048 + b.val * 32 + u.toNat))
  | .max h d a b u => some (encWord h 21 (d.val * 131072 + a.val * 2048 + b.val * 32 + u.toNat))
  | .clz h d a => some (encWord h 22 (d.val * 131072 + a.val * 2048))
  | .popc h d a => some (encWord h 23 (d.val * 131072 + a.val * 2048))
  | .csel h d a b => some (encWord h 24 (d.val * 131072 + a.val * 2048 + b.val * 32))
  | .lui h d i => some (encWord h 25 (d.val * 131072 + i.toNat))
  | .br h cc a b o => some (encWord h 26 (cc.code * 1048576 + a.val * 16384 + b.val * 256 + o.toNat))
  | .jal h d i => some (encWord h 27 (d.val * 131072 + i.toNat))
  | .jalr h d a i => some (encWord h 28 (d.val * 131072 + a.val * 2048 + i.toNat))
  | .ld h d a z c o => some (encWord h 29 (d.val * 131072 + a.val * 2048 + z.val * 512 + c.val * 128 + o.toNat))
  | .st h d a z c o => some (encWord h 30 (d.val * 131072 + a.val * 2048 + z.val * 512 + c.val * 128 + o.toNat))
  | .amoW h d a b p c => some (encWord h 31 (d.val * 131072 + a.val * 2048 + b.val * 32 + p.code * 4 + c.code))
  | .amoD h d a b p c => some (encWord h 32 (d.val * 131072 + a.val * 2048 + b.val * 32 + p.code * 4 + c.code))
  | .cas h d a b z c => some (encWord h 33 (d.val * 131072 + a.val * 2048 + b.val * 32 + z.toNat * 4 + c.code))
  | .daccOpen h a b => some (encWord h 34 (a.val * 2048 + b.val * 32))
  | .daccAdd h a b => some (encWord h 34 (a.val * 2048 + b.val * 32 + 1))
  | .daccAddx h a b => some (encWord h 34 (a.val * 2048 + b.val * 32 + 2))
  | .daccRead h d a => some (encWord h 34 (d.val * 131072 + a.val * 2048 + 3))
  | .daccClose h a => some (encWord h 34 (a.val * 2048 + 4))
  | .fence h n c => some (encWord h 35 (n.code * 4 + c.code))
  | .qalign h => some (encWord h 36 (0))
  | .fmtq h a => some (encWord h 37 (a.val * 2048))
  | .nstset h d t v f => some (encWord h 38 (d.val * 131072 + t.val * 256 + v.val * 32 + f.val))
  | .rgset h d r f => some (encWord h 39 (d.val * 131072 + r.val * 128 + f.code))
  | .rgqry h d r n => some (encWord h 40 (d.val * 131072 + r.val * 128 + n.code))
  | .lbget h d a => some (encWord h 41 (d.val * 131072 + a.val * 2048))
  | .lbchk h d a b => some (encWord h 42 (d.val * 131072 + a.val * 2048 + b.val * 32))
  | .lcdecl h a => some (encWord h 43 (a.val * 2048))
  | .lcsub h d a => some (encWord h 44 (d.val * 131072 + a.val * 2048))
  | .lcwait h => some (encWord h 45 (0))
  | .lcend h => some (encWord h 46 (0))
  | .cqput h a q => some (encWord h 47 (a.val * 2048 + q.toNat))
  | .csrr h d c => some (encWord h 48 (d.val * 131072 + c.code))
  | .csrw h d a c => some (encWord h 49 (d.val * 131072 + a.val * 2048 + c.code))
  | .trap h i => some (encWord h 50 (i.toNat))
  | .eret h => some (encWord h 51 (0))
  | .wfe h => some (encWord h 52 (0))
  | .yield h => some (encWord h 53 (0))
  | .taskend h => some (encWord h 54 (0))
  | .launch h d a b => some (encWord h 55 (d.val * 131072 + a.val * 2048 + b.val * 32))
  | .aadd h d a b => some (encWord h 1 (d.val * 262144 + a.val * 8192 + b.val * 256))
  | .asub h d a b => some (encWord h 3 (d.val * 262144 + a.val * 8192 + b.val * 256))
  | .amul h d a b => some (encWord h 4 (d.val * 262144 + a.val * 8192 + b.val * 256))
  | .aand h d a b => some (encWord h 7 (d.val * 262144 + a.val * 8192 + b.val * 256))
  | .aaddImm h d a i => some (encWord h 2 (d.val * 262144 + a.val * 8192 + i.toNat))
  | .ashl h d a sh => some (encWord h 5 (d.val * 262144 + a.val * 8192 + sh.val))
  | .ashr h d a sh => some (encWord h 6 (d.val * 262144 + a.val * 8192 + sh.val))
  | .amovi h d i => some (encWord h 8 (d.val * 262144 + i.toNat))
  | .abr h cc a b o => some (encWord h 9 (cc.code * 1048576 + a.val * 32768 + b.val * 1024 + o.toNat))
  | .aloop h a o => some (encWord h 10 (a.val * 32768 + o.toNat))
  | .acqpop h d => some (encWord h 11 (d.val * 262144))
  | .ald h a b r c e m => some (encWord h 16 (a.val * 262144 + b.val * 8192 + r.val * 512 + c.code * 128 + e.code * 16 + m.toNat))
  | .ast h a b r c e m => some (encWord h 17 (a.val * 262144 + b.val * 8192 + r.val * 512 + c.code * 128 + e.code * 16 + m.toNat))
  | .agath h a b r x p e => some (encWord h 18 (a.val * 262144 + b.val * 8192 + r.val * 512 + x.val * 32 + p.toNat * 8 + e.code))
  | .ascat h a b r x e => some (encWord h 19 (a.val * 262144 + b.val * 8192 + r.val * 512 + x.val * 32 + e.code))
  | .acopy h d a b c => some (encWord h 20 (d.val * 262144 + a.val * 8192 + b.val * 256 + c.code))
  | .azero h d b c => some (encWord h 21 (d.val * 262144 + b.val * 256 + c.code))
  | .apref h a b => some (encWord h 22 (a.val * 8192 + b.val * 256))
  | .axput h a b r c e => some (encWord h 23 (a.val * 262144 + b.val * 8192 + r.val * 512 + c.code * 128 + e.code * 16))
  | .aamo h d a b p z => some (encWord h 24 (d.val * 262144 + a.val * 8192 + b.val * 256 + p.code * 32 + z.toNat * 16))
  | .aidx h d r => some (encWord h 25 (d.val * 262144 + r.val))
  | .awfill h n r => some (encWord h 26 (n.val * 16 + r.val))
  | .awfree h n r => some (encWord h 27 (n.val * 16 + r.val))
  | .afence h n c => some (encWord h 28 (n.code * 4 + c.code))
  | .vadd h d a b x => some (encWord h 1 (d.code * 65536 + a.code * 512 + b.code * 4 + x.val))
  | .vsub h d a b x => some (encWord h 2 (d.code * 65536 + a.code * 512 + b.code * 4 + x.val))
  | .vmul h d a b x => some (encWord h 3 (d.code * 65536 + a.code * 512 + b.code * 4 + x.val))
  | .vfma h d a b x => some (encWord h 4 (d.code * 65536 + a.code * 512 + b.code * 4 + x.val))
  | .vmin h d a b x => some (encWord h 5 (d.code * 65536 + a.code * 512 + b.code * 4 + x.val))
  | .vmax h d a b x => some (encWord h 6 (d.code * 65536 + a.code * 512 + b.code * 4 + x.val))
  | .vabs h d a x => some (encWord h 7 (d.code * 65536 + a.code * 512 + x.val))
  | .vand h d a b x => some (encWord h 8 (d.code * 65536 + a.code * 512 + b.code * 4 + x.val))
  | .vor h d a b x => some (encWord h 9 (d.code * 65536 + a.code * 512 + b.code * 4 + x.val))
  | .vxor h d a b x => some (encWord h 10 (d.code * 65536 + a.code * 512 + b.code * 4 + x.val))
  | .vshl h d a b x => some (encWord h 11 (d.code * 65536 + a.code * 512 + b.code * 4 + x.val))
  | .vshr h d a b x => some (encWord h 12 (d.code * 65536 + a.code * 512 + b.code * 4 + x.val))
  | .vcvt h d a t u n q => some (encWord h 13 (d.val * 262144 + a.val * 2048 + t.code * 64 + u.code * 8 + n.code * 2 + q.toNat))
  | .vqnt h d a b m => some (encWord h 14 (d.val * 262144 + a.val * 2048 + b.val * 16 + m.code))
  | .vdqnt h d a b m => some (encWord h 15 (d.val * 262144 + a.val * 2048 + b.val * 16 + m.code))
  | .vcmp h c a b x => some (encWord h 16 (c.code * 524288 + a.code * 512 + b.code * 4 + x.val))
  | .vsel h d a b x => some (encWord h 17 (d.code * 65536 + a.code * 512 + b.code * 4 + x.val))
  | .vmask h n => some (encWord h 18 (n.code * 131072))
  | .vmov h d a x => some (encWord h 19 (d.code * 65536 + a.code * 512 + x.val))
  | .vmovImm h d i => some (encWord h 19 (d.val * 262144 + i.toNat + 256))
  | .vbcr h d a x => some (encWord h 20 (d.val * 262144 + a.code * 512 + x.val))
  | .vbcc h d a x => some (encWord h 21 (d.val * 262144 + a.code * 512 + x.val))
  | .vrotr h d a i => some (encWord h 22 (d.val * 262144 + a.val * 2048 + i.val))
  | .vrotc h d a i => some (encWord h 23 (d.val * 262144 + a.val * 2048 + i.val))
  | .vredr h d a o => some (encWord h 24 (d.val * 262144 + a.val * 2048 + o.code))
  | .vredc h d a o => some (encWord h 25 (d.val * 262144 + a.val * 2048 + o.code))
  | .vtrn h d a => some (encWord h 26 (d.val * 262144 + a.val * 2048))
  | .vsfu h d a f => some (encWord h 27 (d.val * 262144 + a.val * 2048 + f.code))
  | .vtopk h d a n => some (encWord h 28 (d.val * 262144 + a.val * 2048 + n.val))
  | .viota h d i => some (encWord h 29 (d.val * 262144 + i.toNat))
  | .vld h d p l o => some (encWord h 32 (d.val * 262144 + p.val * 16384 + l.val * 2048 + o.val))
  | .vst h d p l o => some (encWord h 33 (d.val * 262144 + p.val * 16384 + l.val * 2048 + o.val))
  | .vpop h d r t x l => some (encWord h 34 (d.code * 65536 + r.val * 4096 + t.code * 512 + x.val * 8 + l.val))
  | .vpush h d r t x l => some (encWord h 35 (d.code * 65536 + r.val * 4096 + t.code * 512 + x.val * 8 + l.val))
  | .vwaitl h m => some (encWord h 36 (m.toNat))
  | .vamo h d p l o f => some (encWord h 37 (d.val * 262144 + p.val * 16384 + l.val * 2048 + o.code * 256 + f.val))
  | .vmrd h d p r c x => some (encWord h 38 (d.code * 65536 + p.toNat * 2048 + r.val * 16 + c.toNat * 8 + x.val))
  | .vcqpop h d => some (encWord h 39 (d.val * 262144))
  | .vsett h z t n u e => some (encWord h 40 (z.toNat * 128 + t.code * 16 + n.code * 4 + u.toNat * 2 + e.toNat))
  | .vsetix h p q g v => some (encWord h 41 (p.toNat * 4194304 + q.toNat * 2097152 + g.val * 131072 + v.toNat))
  | .vloop h n g x => some (encWord h 42 (n.val * 131072 + g.val * 16384 + x.val * 4096))
  | .vstg h g => some (encWord h 43 (g.val))
  | .mgo h n p l z t => some (encWord h 1 (n.val * 1048576 + p.toNat * 262144 + l.toNat * 4 + z.toNat * 2 + t.toNat))
  | .mma h p a b c l z t => some (encWord h 2 (p.toNat * 262144 + a.val * 16384 + b.val * 1024 + c.val * 64 + l.toNat * 4 + z.toNat * 2 + t.toNat))
  | .mmas h p a b c z t => some (encWord h 3 (p.toNat * 262144 + a.val * 16384 + b.val * 1024 + c.val * 64 + z.toNat * 2 + t.toNat))
  | .mzero h p => some (encWord h 4 (p.code * 262144))
  | .mdrainMem h n p => some (encWord h 5 (n.val * 1048576 + p.toNat * 262144))
  | .mdrainRing h p c => some (encWord h 5 (p.toNat * 262144 + c.val * 64 + 16384))
  | .mswap h => some (encWord h 6 (0))
  | .mwait h p r => some (encWord h 7 (p.toNat * 262144 + r.val * 1024))
  | .mcfg h n x => some (encWord h 8 (n.val * 1048576 + x.toNat * 8))
  | .mwelt h n => some (encWord h 9 (n.val * 1048576))
  | .mrstr h n => some (encWord h 10 (n.val * 1048576))
  | .mbar h => some (encWord h 11 (0))
  | .nop _ h => some (encWord h 63 (0))
  | .tkwait _ h q => some (encWord h 63 (q.val * 16384 + 262144))
  | .tksig _ h q => some (encWord h 63 (q.val * 16384 + 524288))
  | .troute _ h i o => some (encWord h 63 (i.val * 16384 + o.val * 1024 + 786432))
  | .hold _ h n => some (encWord h 63 (n.val * 4096 + 1048576))
  | .brk _ h c => some (encWord h 63 (c.toNat + 1310720))
  | .stend _ h => some (encWord h 63 (1572864))
  | _ => none

/-- The stream of an instruction word (R41, R46, R48, R50, R51). -/
def Instr.stream : Instr → Stream
  | .aadd .. | .asub .. | .amul .. | .aand .. | .aaddImm .. | .ashl .. | .ashr .. | .amovi .. | .abr .. | .aloop .. 
  | .acqpop .. | .ald .. | .ast .. | .agath .. | .ascat .. | .acopy .. | .azero .. | .apref .. | .axput .. | .aamo .. 
  | .aidx .. | .awfill .. | .awfree .. | .afence .. => .a
  | .vadd .. | .vsub .. | .vmul .. | .vfma .. | .vmin .. | .vmax .. | .vabs .. | .vand .. | .vor .. | .vxor .. 
  | .vshl .. | .vshr .. | .vcvt .. | .vqnt .. | .vdqnt .. | .vcmp .. | .vsel .. | .vmask .. | .vmov .. | .vmovImm .. 
  | .vbcr .. | .vbcc .. | .vrotr .. | .vrotc .. | .vredr .. | .vredc .. | .vtrn .. | .vsfu .. | .vtopk .. | .viota .. 
  | .vld .. | .vst .. | .vpop .. | .vpush .. | .vwaitl .. | .vamo .. | .vmrd .. | .vcqpop .. | .vsett .. | .vsetix .. 
  | .vloop .. | .vstg .. => .v
  | .mgo .. | .mma .. | .mmas .. | .mzero .. | .mdrainMem .. | .mdrainRing .. | .mswap .. | .mwait .. | .mcfg .. 
  | .mwelt .. | .mrstr .. | .mbar .. => .m
  | .nop t .. => t
  | .tkwait t .. => t
  | .tksig t .. => t
  | .troute t .. => t
  | .hold t .. => t
  | .brk t .. => t
  | .stend t .. => t
  | _ => .c

/-- The words of an instruction of the table: bit 0 of a word is bit 0 of the number. A table word stands for the first of the
streams C, A, V, M whose table has it, the dispatch core's table tried after the C-stream's (log entry 6). Log 6: DESIGN CHOICE. -/
def decodeTable (w : Nat) : Option (Bool × Stream × Instr) :=
  match decode false .c w with
  | .ok i => some (false, .c, i)
  | .error _ =>
    match decode true .c w with
    | .ok i => some (true, .c, i)
    | .error _ =>
      match decode false .a w with
      | .ok i => some (false, .a, i)
      | .error _ =>
        match decode false .v w with
        | .ok i => some (false, .v, i)
        | .error _ =>
          match decode false .m w with
          | .ok i => some (false, .m, i)
          | .error _ => none

/-- The instruction that the decoder reads from a table row's word (R2, R35). Log 6: DESIGN CHOICE. -/
def decodeTableWord (_nbits w : Nat) : Option Instr := (decodeTable (w % 4294967296)).map fun x => x.2.2

/-- The little-endian bytes of a word (R2). -/
def wordBytes (w : Nat) : List Byte :=
  [BitVec.ofNat 8 w, BitVec.ofNat 8 (w / 256), BitVec.ofNat 8 (w / 65536), BitVec.ofNat 8 (w / 16777216)]

/-- Little-endian value of bytes (R2). -/
def leNat : List Byte → Nat
  | [] => 0
  | b :: bs => b.toNat + 256 * leNat bs

/-- The `n` little-endian bytes of a value (R2). -/
def natLe : Nat → Nat → List Byte
  | 0, _ => []
  | n + 1, v => BitVec.ofNat 8 v :: natLe n (v / 256)

end Sys2Proof
end

