-- ==== Sys2Proof/Machine/Formats.lean ====
section
/-! DEFINITION. Number formats and exact arithmetic (R71 to R86): exact values, rounding, conversion, block quantisation, the
special functions. -/

namespace Sys2Proof

/-- An exact value with the IEEE specials: `fin neg m e` is `(-1)^neg * m * 2^e` (R6, R71). -/
inductive FV where
  | nan | inf (neg : Bool) | fin (neg : Bool) (m : Nat) (e : Int)
  deriving DecidableEq, Repr, Inhabited

/-- A floating-point layout (R71): exponent bits, mantissa bits, bias; whether the top exponent holds specials as IEEE 754 does, or
only the all-ones mantissa is a NaN, or there is none. -/
inductive Specials where
  | ieee | nanOnly | none
  deriving DecidableEq, Repr, Inhabited
structure Fmt where
  eb : Nat
  mb : Nat
  bias : Nat
  sp : Specials
  deriving DecidableEq, Repr, Inhabited

def fFP32 : Fmt := ⟨8, 23, 127, .ieee⟩
def fFP16 : Fmt := ⟨5, 10, 15, .ieee⟩
def fBF16 : Fmt := ⟨8, 7, 127, .ieee⟩
def fE4M3 : Fmt := ⟨4, 3, 7, .nanOnly⟩
def fE5M2 : Fmt := ⟨5, 2, 15, .ieee⟩
def fE2M1 : Fmt := ⟨2, 1, 1, .none⟩

/-- Bits of the whole format. -/
def Fmt.width (f : Fmt) : Nat := 1 + f.eb + f.mb
/-- The canonical NaN (R71). -/
def Fmt.qnan (f : Fmt) : Nat :=
  match f.sp with
  | .ieee => (2 ^ f.eb - 1) * 2 ^ f.mb + 2 ^ (f.mb - 1)
  | _ => 2 ^ (f.eb + f.mb) - 1
/-- The code of the largest finite magnitude (R71). -/
def Fmt.maxCode (f : Fmt) : Nat :=
  match f.sp with
  | .ieee => (2 ^ f.eb - 1) * 2 ^ f.mb - 1
  | .nanOnly => 2 ^ (f.eb + f.mb) - 2
  | .none => 2 ^ (f.eb + f.mb) - 1
def Fmt.signBit (f : Fmt) (neg : Bool) : Nat := if neg then 2 ^ (f.eb + f.mb) else 0

/-- The value of a code (R71). -/
def Fmt.value (f : Fmt) (bits : Nat) : FV :=
  let neg := bits / 2 ^ (f.eb + f.mb) % 2 == 1
  let e := bits / 2 ^ f.mb % 2 ^ f.eb
  let m := bits % 2 ^ f.mb
  let top := e == 2 ^ f.eb - 1
  if f.sp == .ieee && top then (if m = 0 then .inf neg else .nan)
  else if f.sp == .nanOnly && top && m == 2 ^ f.mb - 1 then .nan
  else if e = 0 then .fin neg m (1 - (f.bias : Int) - f.mb)
  else .fin neg (m + 2 ^ f.mb) ((e : Int) - f.bias - f.mb)

/-- An integer `n + r / 2^k` rounded (R75): `n` the integer part, `r` below `2^k`. -/
def roundAt (rnd : Rnd) (neg : Bool) (n r k : Nat) : Nat :=
  match rnd with
  | .rne => if 2 * r > 2 ^ k || (2 * r == 2 ^ k && n % 2 == 1) then n + 1 else n
  | .rtz => n
  | .rup => if !neg && r != 0 then n + 1 else n
  | .rdn => if neg && r != 0 then n + 1 else n

/-- `m * 2^e` as an integer multiple of `2^q`, rounded (R75). -/
def quantise (rnd : Rnd) (neg : Bool) (m : Nat) (e q : Int) : Nat :=
  if q ≤ e then m * 2 ^ (e - q).toNat
  else
    let k := (q - e).toNat
    if k > m.log2 + 2 then roundAt rnd neg 0 (if m = 0 then 0 else 1) 2 else roundAt rnd neg (m / 2 ^ k) (m % 2 ^ k) k

/-- Overflow of a conversion to a floating-point format (R76). -/
def Fmt.overflow (f : Fmt) (rnd : Rnd) (sat neg : Bool) : Nat :=
  let away := match rnd with | .rne => true | .rtz => false | .rup => !neg | .rdn => neg
  if f.sp == .none || sat || !away then f.signBit neg + f.maxCode
  else if f.sp == .ieee then f.signBit neg + (2 ^ f.eb - 1) * 2 ^ f.mb
  else f.qnan

/-- An exact value converted to a floating-point format (R75, R76). Log 106: DEDUCED. -/
def Fmt.round (f : Fmt) (rnd : Rnd) (sat : Bool) : FV → Nat
  | .nan => f.qnan
  | .inf neg =>
    if sat then f.signBit neg + f.maxCode
    else if f.sp == .ieee then f.signBit neg + (2 ^ f.eb - 1) * 2 ^ f.mb else f.qnan
  | .fin neg m e =>
    if m = 0 then f.signBit neg
    else
      let top := (m.log2 : Int) + e
      let q := max top (1 - (f.bias : Int)) - f.mb
      let n := quantise rnd neg m e q
      let (n, q) := if n = 2 ^ (f.mb + 1) then (2 ^ f.mb, q + 1) else (n, q)
      let code := if n < 2 ^ f.mb then n else ((q + f.mb + f.bias).toNat) * 2 ^ f.mb + (n - 2 ^ f.mb)
      if code > f.maxCode then f.overflow rnd sat neg else f.signBit neg + code

/-- A quotient `num / den * 2^e` as an exact value for rounding: enough bits and a sticky bit. -/
def ratio (neg : Bool) (num den : Nat) (e : Int) : FV :=
  if num = 0 then .fin neg 0 0
  else
    let k := 80 + den.log2
    let n := num * 2 ^ k / den
    .fin neg (2 * n + if num * 2 ^ k % den = 0 then 0 else 1) (e - k - 1)

/-! ### Exact sums and products (R6, R73, R82) -/

def FV.neg : FV → FV
  | .nan => .nan
  | .inf n => .inf !n
  | .fin n m e => .fin (!n) m e
def FV.abs : FV → FV
  | .nan => .nan
  | .inf _ => .inf false
  | .fin _ m e => .fin false m e
def FV.isZero : FV → Bool
  | .fin _ 0 _ => true
  | _ => false
def FV.isNeg : FV → Bool
  | .nan => false | .inf n => n | .fin n _ _ => n
def FV.isFin : FV → Bool
  | .fin .. => true | _ => false

/-- The exact product; infinity times zero is a NaN. -/
def FV.mul (a b : FV) : FV :=
  match a, b with
  | .nan, _ => .nan
  | _, .nan => .nan
  | .inf x, .inf y => .inf (x != y)
  | .inf x, .fin y m _ => if m = 0 then .nan else .inf (x != y)
  | .fin x m _, .inf y => if m = 0 then .nan else .inf (x != y)
  | .fin x m e, .fin y n f => .fin (x != y) (m * n) (e + f)

/-- The exact value scaled by a power of two into an integer. -/
def FV.toIntAt (v : FV) (q : Int) : Int :=
  match v with
  | .fin n m e => let k : Int := m * 2 ^ (e - q).toNat; if n then -k else k
  | _ => 0

/-- The exact sum of values with the IEEE specials; a zero sum is +0 unless every term is −0 (R73, R82). -/
def FV.sum (l : List FV) : FV :=
  if l.any (· == .nan) then .nan
  else
    let p := l.any (· == .inf false)
    let n := l.any (· == .inf true)
    if p && n then .nan
    else if p then .inf false
    else if n then .inf true
    else
      let q := l.foldl (fun (acc : Option Int) v => match v with
        | .fin _ m e => if m = 0 then acc else some (match acc with | none => e | some x => min x e)
        | _ => acc) none
      match q with
      | none => .fin (!l.isEmpty && l.all FV.isNeg) 0 0
      | some q =>
        let t := l.foldl (fun (t : Int) v => if v.isZero then t else t + v.toIntAt q) 0
        if t = 0 then .fin false 0 0 else .fin (t < 0) t.natAbs q

/-- Order of two values that are not NaN: `a < b`, with +0 = −0. -/
def FV.lt (a b : FV) : Bool :=
  match a, b with
  | .nan, _ => false
  | _, .nan => false
  | .inf x, .inf y => x && !y
  | .inf x, .fin .. => x
  | .fin .., .inf y => !y
  | .fin x m e, .fin y n f =>
    let q := min e f
    FV.toIntAt (.fin x m e) q < FV.toIntAt (.fin y n f) q

def v32 (b : W32) : FV := fFP32.value b.toNat
/-- RoundNE32 (R7). -/
def round32 (v : FV) : W32 := BitVec.ofNat 32 (fFP32.round .rne false v)
/-- Subnormals flushed to zero of the same sign (R72). -/
def flush32 (ftz : Bool) (b : W32) : W32 := if ftz && b.toNat / 2 ^ 23 % 256 == 0 then b &&& 0x80000000#32 else b
def qnan32 : W32 := 0x7FC00000#32
def isNan32 (b : W32) : Bool := b.toNat % 2 ^ 31 > 0x7F800000

/-- FP32 arithmetic on inputs that may be flushed, the result rounded once and then flushed (R72, R73). -/
def fp32op (ftz : Bool) (f : FV → FV → FV) (a b : W32) : W32 :=
  flush32 ftz (round32 (f (v32 (flush32 ftz a)) (v32 (flush32 ftz b))))
def fpAdd (ftz : Bool) : W32 → W32 → W32 := fp32op ftz fun a b => FV.sum [a, b]
def fpSub (ftz : Bool) : W32 → W32 → W32 := fp32op ftz fun a b => FV.sum [a, b.neg]
def fpMul (ftz : Bool) : W32 → W32 → W32 := fp32op ftz FV.mul
def fpFma (ftz : Bool) (a b c : W32) : W32 :=
  flush32 ftz (round32 (FV.sum [FV.mul (v32 (flush32 ftz a)) (v32 (flush32 ftz b)), v32 (flush32 ftz c)]))
/-- Minimum and maximum order −0 below +0 and return the canonical NaN if either input is a NaN (R73). -/
def fpLess (a b : W32) : Bool :=
  (v32 a).lt (v32 b) || ((v32 a).isZero && (v32 b).isZero && (v32 a).isNeg && !(v32 b).isNeg)
def fpMin (ftz : Bool) (a b : W32) : W32 :=
  let a := flush32 ftz a; let b := flush32 ftz b
  if isNan32 a || isNan32 b then qnan32 else if fpLess b a then b else a
def fpMax (ftz : Bool) (a b : W32) : W32 :=
  let a := flush32 ftz a; let b := flush32 ftz b
  if isNan32 a || isNan32 b then qnan32 else if fpLess a b then b else a
def fpAbs (ftz : Bool) (a : W32) : W32 :=
  let a := flush32 ftz a
  if isNan32 a then qnan32 else a &&& 0x7FFFFFFF#32

/-! ### Conversion (R49, R76, R87, R362) -/

/-- Bytes of a type (R45, R49). -/
def VTy.bytes : VTy → Nat
  | .f32 => 4 | .i32 => 4 | .f16 => 2 | .bf16 => 2 | _ => 1
def VTy.fmt? : VTy → Option Fmt
  | .f32 => some fFP32 | .f16 => some fFP16 | .bf16 => some fBF16 | .e4m3 => some fE4M3 | .e5m2 => some fE5M2 | _ => none

/-- The least and greatest integers of an integer type (R74). -/
def VTy.range : VTy → Int × Int
  | .i32 => (-2147483648, 2147483647) | .i8 => (-128, 127) | _ => (0, 255)

/-- The integer value of a code of an integer type (R74). -/
def VTy.intOf (t : VTy) (c : Nat) : Int :=
  match t with
  | .i32 => (BitVec.ofNat 32 c).toInt
  | .i8 => (BitVec.ofNat 8 c).toInt
  | _ => (c % 256 : Nat)

/-- The exact value of a code of a type. -/
def VTy.valueOf (t : VTy) (c : Nat) : FV :=
  match t.fmt? with
  | some f => f.value (c % 2 ^ f.width)
  | none => let i := t.intOf c; .fin (i < 0) i.natAbs 0

def clampInt (r : Int × Int) (i : Int) : Int := if i < r.1 then r.1 else if r.2 < i then r.2 else i
/-- The code of an integer, its low bits at the width of the type. -/
def VTy.codeOf (t : VTy) (i : Int) : Nat := (i % (2 : Int) ^ (8 * t.bytes)).toNat

/-- Whether a code of a floating type is subnormal. -/
def Fmt.subnormal (f : Fmt) (c : Nat) : Bool := c / 2 ^ f.mb % 2 ^ f.eb == 0 && c % 2 ^ f.mb != 0
def Fmt.flush (f : Fmt) (ftz : Bool) (c : Nat) : Nat := if ftz && f.subnormal c then c / 2 ^ (f.eb + f.mb) * 2 ^ (f.eb + f.mb) else c

/-- Convert (R75, R76): a code of the source type to a code of the destination type. FTZ flushes floating inputs before and floating
results after (R72). -/
def convert (src dst : VTy) (rnd : Rnd) (sat ftz : Bool) (c : Nat) : Nat :=
  let c := match src.fmt? with | some f => f.flush ftz (c % 2 ^ f.width) | none => c
  match dst.fmt? with
  | some f => f.flush ftz (f.round rnd sat (src.valueOf c))
  | none =>
    match src.fmt? with
    | some _ =>
      match src.valueOf c with
      | .nan => dst.codeOf 0
      | .inf n => dst.codeOf (if n then dst.range.1 else dst.range.2)
      | .fin n m e =>
        let k : Int := quantise rnd n m e 0
        dst.codeOf (clampInt dst.range (if n then -k else k))
    | none => if sat then dst.codeOf (clampInt dst.range (src.intOf c)) else dst.codeOf (src.intOf c)

/-- The container of a code in the layout of a type (R362). -/
def VTy.container (t : VTy) (c : Nat) : W32 :=
  match t with
  | .i8 => (BitVec.ofNat 8 c).signExtend 32
  | _ => BitVec.ofNat 32 (c % 2 ^ (8 * t.bytes))

/-- VTYPE fields (R88). -/
def vtFtz (v : W64) : Bool := v.toNat / 128 % 2 == 1
def vtMty (v : W64) : VTy := (VTy.ofCode (v.toNat / 16 % 8)).getD .f32
def vtRnd (v : W64) : Rnd := (Rnd.ofCode (v.toNat / 4 % 4)).getD .rne
def vtSat (v : W64) : Bool := v.toNat / 2 % 2 == 1
def vtInt (v : W64) : Bool := v.toNat % 2 == 1
def vtCont (v : W64) : VTy := if vtInt v then .i32 else .f32

/-- Widen: an element of a memory type into a container under VTYPE (R87). -/
def widen (ty : VTy) (vt : W64) (c : Nat) : W32 :=
  if ty = vtCont vt then BitVec.ofNat 32 c
  else BitVec.ofNat 32 (convert ty (vtCont vt) (vtRnd vt) (vtSat vt) (vtFtz vt) c)
/-- Narrow: a container into an element of a memory type (R87). -/
def narrow (ty : VTy) (vt : W64) (x : W32) : Nat :=
  if ty = vtCont vt then x.toNat
  else convert (vtCont vt) ty (vtRnd vt) (vtSat vt) (vtFtz vt) x.toNat

/-! ### Blocked FP4 and moment blocks (R77 to R79) -/

/-- The value of a block-scale code; 0xFF is invalid (R77). -/
def e3m5 (s : Nat) : FV :=
  if s = 255 then .nan
  else if s / 32 = 0 then .fin false (s % 32) (-7) else .fin false (32 + s % 32) ((s / 32 : Nat) - 8)
def e2m1 (c : Nat) : FV := fE2M1.value (c % 16)

/-- `6 * value of code s >= a`, both exact and not NaN. -/
def scaleCovers (a : FV) (s : Nat) : Bool := !((FV.mul (.fin false 6 0) (e3m5 s)).lt a)
/-- The smallest block scale at or above amax / 6, at most 31.0 (R78). -/
def blockScale (amax : FV) : Nat := ((List.range 255).find? (scaleCovers amax)).getD 254
def maxFV (l : List FV) : FV := l.foldl (fun a b => if a.lt b then b else a) (.fin false 0 0)

/-- The exact quotient of two finite values, the divisor not zero. -/
def FV.div (a b : FV) : FV :=
  match a, b with
  | .fin x m e, .fin y n f => ratio (x != y) m n (e - f)
  | _, _ => .nan

/-- QuantiseBlock (R78): the scale code and the element codes of a block. -/
def quantiseBlock (xs : List W32) : Nat × List Nat :=
  let vs := xs.map v32
  if vs.any fun v => !v.isFin then (255, xs.map fun _ => 0)
  else
    let s := blockScale (maxFV (vs.map FV.abs))
    if s = 0 then (0, xs.map fun _ => 0)
    else (s, vs.map fun v => fE2M1.round .rne true (v.div (e3m5 s)))

/-- A moment block (R79): the FP16 scale and the codes. `second` is .MOM2. -/
def momentBlock (second : Bool) (xs : List W32) : Nat × List Int :=
  let vs := xs.map v32
  if vs.any fun v => !v.isFin then (0x7E00, xs.map fun _ => 0)
  else
    let top := if second then maxFV vs else maxFV (vs.map FV.abs)
    let s := fFP16.round .rne true (top.div (.fin false (if second then 255 else 127) 0))
    if s = 0 then (0, xs.map fun _ => 0)
    else
      let r : Int × Int := if second then (0, 255) else (-127, 127)
      (s, vs.map fun v =>
        match v.div (fFP16.value s) with
        | .fin n m e => let k : Int := quantise .rne n m e 0; clampInt r (if n then -k else k)
        | _ => 0)

/-! ### Integer helpers -/

def intFV (i : Int) : FV := .fin (i < 0) i.natAbs 0
/-- An integer as an FP32 code. -/
def fp32OfInt (i : Int) : W32 := round32 (intFV i)
/-- A finite FP32 value that is an integer. -/
def intOf32 (b : W32) : Option Int :=
  match v32 b with
  | .fin n m e =>
    if 0 ≤ e then (if e < 64 then some (let k : Int := m * 2 ^ e.toNat; if n then -k else k) else none)
    else if e < -200 then (if m = 0 then some 0 else none)
    else if m % 2 ^ (-e).toNat = 0 then some (let k : Int := m / 2 ^ (-e).toNat; if n then -k else k) else none
  | _ => none

/-! ### Special functions (R378, R379): fixed point with 320 fraction bits, rounded once -/

def sfP : Nat := 320
/-- Integer square root by bisection of the bits from the top. -/
def isqrtFrom (n : Nat) : Nat → Nat → Nat
  | 0, r => r
  | b + 1, r => let t := r + 2 ^ b; isqrtFrom n b (if t * t ≤ n then t else r)
def isqrt (n : Nat) : Nat := isqrtFrom n (n.log2 / 2 + 1) 0

/-- atan(1/d) at `sfP` bits. -/
def atanInv (d : Nat) : Nat :=
  let rec go : Nat → Nat → Nat → Int → Int
    | 0, _, _, acc => acc
    | f + 1, i, t, acc =>
      let u : Int := t / (2 * i + 1)
      go f (i + 1) (t / (d * d)) (if i % 2 = 0 then acc + u else acc - u)
  (go 240 0 (2 ^ sfP / d) 0).toNat
/-- π by Machin's formula. -/
def piFix : Nat := 4 * (4 * atanInv 5 - atanInv 239)

/-- ln((1+z)/(1-z)) for z in fixed point below 1/2. -/
def atanh2 (z : Nat) : Nat :=
  let zz := z * z / 2 ^ sfP
  let rec go : Nat → Nat → Nat → Nat → Nat
    | 0, _, _, acc => acc
    | f + 1, i, t, acc => go f (i + 1) (t * zz / 2 ^ sfP) (acc + t / (2 * i + 1))
  2 * go 240 0 z 0
def ln2Fix : Nat := atanh2 (2 ^ sfP / 3)

/-- e^t for t in fixed point below 1. -/
def expFix (t : Nat) : Nat :=
  let rec go : Nat → Nat → Nat → Nat → Nat
    | 0, _, _, acc => acc
    | f + 1, i, u, acc => go f (i + 1) (u * t / 2 ^ sfP / (i + 1)) (acc + u)
  go 90 0 (2 ^ sfP) 0

/-- sin(t) for t in fixed point below 2. -/
def sinFix (t : Nat) : Nat :=
  let tt := t * t / 2 ^ sfP
  let rec go : Nat → Nat → Nat → Int → Int
    | 0, _, _, acc => acc
    | f + 1, i, u, acc =>
      go f (i + 1) (u * tt / 2 ^ sfP / ((2 * i + 2) * (2 * i + 3))) (if i % 2 = 0 then acc + u else acc - u)
  (go 60 0 t 0).toNat

/-- A fixed-point approximation of a value that is no FP32 value and no tie, with a sticky bit. -/
def ofFix (neg : Bool) (x : Nat) : FV := .fin neg (2 * x + 1) (-(sfP : Int) - 1)
def one32 (neg : Bool) : FV := .fin neg 1 0

/-- `m * 2^e` at `sfP` fraction bits, for e not below −`sfP` (every FP32 value). -/
def toFix (m : Nat) (e : Int) : Nat := m * 2 ^ ((sfP : Int) + e).toNat

def sfExp2 (n : Bool) (m : Nat) (e : Int) : FV :=
  if m = 0 then one32 false
  else if (m.log2 : Int) + e ≥ 8 then (if n then .fin false 0 0 else .inf false)
  else
    let x : Int := toFix m e
    let x := if n then -x else x
    let i := x / 2 ^ sfP
    let f := (x % 2 ^ sfP).toNat
    if f = 0 then .fin false 1 i
    else .fin false (2 * expFix (f * ln2Fix / 2 ^ sfP) + 1) (i - sfP - 1)

def sfLog2 (m : Nat) (e : Int) : FV :=
  let l := m.log2
  let top : Int := (l : Int) + e
  if m = 2 ^ l then intFV top
  else
    let y := m * 2 ^ sfP / 2 ^ l
    let z := (y - 2 ^ sfP) * 2 ^ sfP / (y + 2 ^ sfP)
    let fr : Int := atanh2 z * 2 ^ sfP / ln2Fix
    let r := top * 2 ^ sfP + fr
    ofFix (r < 0) r.natAbs

/-- √(num / den) * 2^e with a sticky bit. -/
def sfSqrt (num den : Nat) (e : Int) : FV :=
  let a : Nat := if e % 2 = 0 then num else 2 * num
  let b : Int := if e % 2 = 0 then e else e - 1
  let r : Nat := isqrt (a * 2 ^ 400 / den)
  .fin false (2 * r + if r * r * den = a * 2 ^ 400 then 0 else 1) (b / 2 - 201)

def sfTanh (n : Bool) (m : Nat) (e : Int) : FV :=
  let top := (m.log2 : Int) + e
  if top < -13 then .fin n m e
  else if top ≥ 5 then one32 n
  else
    let t := 2 * toFix m e
    let i := t / ln2Fix
    let u := expFix (t % ln2Fix) * 2 ^ i
    ofFix n ((u - 2 ^ sfP) * 2 ^ sfP / (u + 2 ^ sfP))

/-- sin(π q / 2^sfP) for q below 2^(sfP+1), exact at multiples of one half. -/
def sfSinPi (neg : Bool) (q : Nat) : FV :=
  let neg := if q ≥ 2 ^ sfP then !neg else neg
  let q := q % 2 ^ sfP
  if q = 0 then .fin false 0 0
  else if 2 * q = 2 ^ sfP then one32 neg
  else
    let q := if 2 * q > 2 ^ sfP then 2 ^ sfP - q else q
    ofFix neg (sinFix (q * piFix / 2 ^ sfP))

def sfSin (n : Bool) (m : Nat) (e : Int) : FV :=
  if e ≥ 0 then .fin n 0 0
  else
    match sfSinPi n (toFix m e % 2 ^ (sfP + 1)) with
    | .fin _ 0 _ => .fin n 0 0
    | v => v
def sfCos (m : Nat) (e : Int) : FV :=
  if e ≥ 1 then one32 false
  else
    match sfSinPi false ((toFix m e + 2 ^ (sfP - 1)) % 2 ^ (sfP + 1)) with
    | .fin _ 0 _ => .fin false 0 0
    | v => v

/-- One special function on an FP32 code (R378, R379). -/
def sfu (f : Sfu) (ftz : Bool) (x : W32) : W32 :=
  let r : FV :=
    match f, v32 (flush32 ftz x) with
    | _, .nan => .nan
    | .exp2, .inf n => if n then .fin false 0 0 else .inf false
    | .exp2, .fin n m e => sfExp2 n m e
    | .log2, .inf n => if n then .nan else .inf false
    | .log2, .fin n m e => if m = 0 then .inf true else if n then .nan else sfLog2 m e
    | .rcp, .inf n => .fin n 0 0
    | .rcp, .fin n m e => if m = 0 then .inf n else ratio n 1 m (-e)
    | .rsq, .inf n => if n then .nan else .fin false 0 0
    | .rsq, .fin n m e => if m = 0 then .inf n else if n then .nan else sfSqrt 1 m (-e)
    | .sqrt, .inf n => if n then .nan else .inf false
    | .sqrt, .fin n m e => if m = 0 then .fin n 0 0 else if n then .nan else sfSqrt m 1 e
    | .tanh, .inf n => one32 n
    | .tanh, .fin n m e => if m = 0 then .fin n 0 0 else sfTanh n m e
    | .sin, .inf _ => .nan
    | .sin, .fin n m e => if m = 0 then .fin n 0 0 else sfSin n m e
    | .cos, .inf _ => .nan
    | .cos, .fin _ m e => if m = 0 then one32 false else sfCos m e
  flush32 ftz (round32 r)

end Sys2Proof
end

