-- ==== Sys2Proof/Machine/Flags.lean ====
section
/-! DEFINITION. Conditions and atomic operations. The hardware has no condition flags: a compare is made where it is used, and the
only condition state is the masks EM and CM (R37, R41, R100, R357, R358, R360). -/

namespace Sys2Proof

/-- The branch conditions of R41: .LT and .GE compare signed values, .LTU and .GEU unsigned values (R299). -/
def CC.holds (c : CC) (a b : W64) : Bool :=
  match c with
  | .eq => a == b
  | .ne => a != b
  | .lt => W64.slt a b
  | .ge => !W64.slt a b
  | .ltu => decide (a.toNat < b.toNat)
  | .geu => decide (b.toNat ≤ a.toNat)

/-- An atomic operation on `n`-bit values: min and max compare signed values, minu compares unsigned values (R37, R279, R289). -/
def AtOp.apply (o : AtOp) {n : Nat} (old v : BitVec n) : BitVec n :=
  match o with
  | .add => old + v
  | .swap => v
  | .and => old &&& v
  | .or => old ||| v
  | .xor => old ^^^ v
  | .min => if v.toInt < old.toInt then v else old
  | .max => if old.toInt < v.toInt then v else old
  | .minu => if v.toNat < old.toNat then v else old

/-- An atomic operation on the low `sz` bytes, 4 or 8 (R289). -/
def AtOp.applyBytes (o : AtOp) (sz : Nat) (old v : W64) : W64 :=
  if sz = 4 then ((o.apply (old.setWidth 32) (v.setWidth 32)).setWidth 64) else o.apply old v

/-- The low `sz` bytes, sign-extended (R279, R289, R302). -/
def signExtendBytes (sz : Nat) (v : W64) : W64 := if sz = 4 then (v.setWidth 32).signExtend 64 else v
/-- The low `sz` bytes, zero-extended (R322). -/
def zeroExtendBytes (sz : Nat) (v : W64) : W64 := BitVec.ofNat 64 (v.toNat % 2 ^ (8 * sz))

/-- Signed order of containers (R74). -/
def i32lt (a b : W32) : Bool := a.toInt < b.toInt

/-- A VAMO operation on a container (R358). -/
def VAmoOp.apply (o : VAmoOp) (int ftz : Bool) (old v : W32) : W32 :=
  match o with
  | .add => if int then old + v else fpAdd ftz old v
  | .swap => v
  | .min => if int then (if i32lt v old then v else old) else fpMin ftz old v
  | .max => if int then (if i32lt old v then v else old) else fpMax ftz old v
  | .and => old &&& v
  | .or => old ||| v

/-- A condition of VCMP (R360). -/
def VCond.holds (c : VCond) (int ftz : Bool) (a b : W32) : Bool :=
  let fl := fun (f : FV → FV → Bool) =>
    let x := flush32 ftz a
    let y := flush32 ftz b
    !isNan32 x && !isNan32 y && f (v32 x) (v32 y)
  let eqv := fun (x y : FV) => !x.lt y && !y.lt x
  match c with
  | .eq => if int then a == b else fl eqv
  | .ne => if int then a != b else !fl eqv
  | .lt => if int then i32lt a b else fl fun x y => x.lt y
  | .le => if int then !i32lt b a else fl fun x y => !y.lt x
  | .gt => if int then i32lt b a else fl fun x y => y.lt x
  | .ge => if int then !i32lt a b else fl fun x y => !x.lt y
  | .ltu => decide (a.toNat < b.toNat)
  | .leu => decide (a.toNat ≤ b.toNat)

end Sys2Proof
end

