-- ==== Sys2Proof/Config.lean ====
section
/-! DEFINITION. What an implementation fixes and what the spec leaves open, as constants with no body: no proof can see a value
of one. -/

namespace Sys2Proof

/-- Which free entry of the label table a new set takes is not fixed (R194): the `n`-th choice, reduced to the free entries by
the interner. Log entry 3. Log 3: DESIGN CHOICE. -/
opaque Config.freeHandle : Nat → Nat

/-- Ed448 verification of a signature over the SHAKE256 digest of a message (R205, R211, R273): key, message, signature.
The spec names the algorithms and does not define them. Log entry 4. Log 4: DESIGN CHOICE. -/
opaque Config.ed448Verify : List Byte → List Byte → List Byte → Bool

/-- Which free entry of the policy table an installed policy takes is not fixed (R211). Log entry 3. Log 3: DESIGN CHOICE. -/
opaque Config.freePolicy : Nat → Nat

/-- The 64-byte SHAKE256 digest of R268 and R273; the spec names the function and does not define it. Log entry 4. Log 4: DESIGN CHOICE. -/
opaque Config.shake256 : List Byte → List Byte

/-- Accumulator words that a DACC reservation of `w` ways holds in one slice (R310). Log entry 22. Log 22: DESIGN CHOICE. -/
opaque Config.daccSpace : Nat → Nat

/-- Which of several exposed registers the exposed-read trap names is not stated (R96). Log entry 23. Log 23: DESIGN CHOICE. -/
opaque Config.freeExposed : Nat → Nat

/-- Clocks of a HOLD region before it overruns (R26, HOLDLIM.LIMIT of R249). -/
def Config.holdLimit : Nat := 256
/-- Arithmetic clocks in a beat (R221). -/
def Config.beatClocks : Nat := 256
/-- Bytes of a core's scratchpad (R144). -/
def Config.scratchBytes : Nat := 393216
/-- Label-table entries (R194). -/
def Config.labelEntries : Nat := 4096
/-- Bytes of device memory homed on one die (R9). -/
def Config.dieBytes : Nat := 160000000000

end Sys2Proof
end

