-- ==== Sys2Proof/Machine/State.lean ====
section
/-! DEFINITION. The machine's state: everything the spec gives a Trelavo 8840 module, its cores, its ordering machine, its hub and
the parts of Insole and of the launch sequencer that a step reads or writes; the faults and refusals; the state after reset. -/

namespace Sys2Proof.Machine
open Sys2Proof

/-- Why a step stops with a fault. -/
inductive Fault where
  /-- An access that no rule gives an outcome, at a physical address that R9 does not assign. No step of this model raises it: R9 gives such
an access of a copy engine no effect, and every other one has its fault (R183, R192, R208, R269). Safe. -/
  | unassignedPhysical
  deriving DecidableEq, Repr

/-- Why a step has no meaning. -/
inductive Refusal where
  /-- An instruction that the model does not give a meaning yet; raised by `exec` alone. Safe: the machine stops. -/
  | notModelled (mnemonic : String)
  deriving DecidableEq, Repr

/-- Where a byte has its home (R163): device, host, peer and hub bytes by physical address, scratchpad bytes by core. -/
inductive Loc where
  | mem (pa : Nat) | scr (core a : Nat)
  deriving DecidableEq, Repr, Inhabited

/-- A trap bank: CAUSE, EPC and TVAL of a stream with their label (R249). -/
structure Bank where
  cause : W64
  epc : W64
  tval : W64
  lab : Label
  deriving DecidableEq, Repr, Inhabited

/-- An open HOLD region: words still to issue, the clock it is counted from, the address of its HOLD word, whether LCWAIT may
still be its first word, and the LCWAIT from whose retirement its clocks count (R25, R26, R226). -/
structure HoldRegion where
  left : Nat
  start : Nat
  addr : W64
  first : Bool
  wait : Option Nat
  deriving DecidableEq, Repr, Inhabited

/-- A word at a stitch (R21): not waiting, waiting with its W token taken, or released to issue. -/
inductive Stitch where
  | none | waiting | released
  deriving DecidableEq, Repr, Inhabited

/-- Where a stream's stop stands (R251 to R253): running, a delegated stop not yet delivered, delivered to the C-stream, a record
held at the hub, or a record posted under a ticket. -/
inductive Stop where
  | running | delegated | delivered | held | posted (ticket : Nat)
  deriving DecidableEq, Repr, Inhabited

/-- An issued word that has not retired (R17, R19): its number, address, whether its condition holds, the queues it signals, the
tokens it took, the ring slots that it releases once its stores have left the store queue (R293, R295), whether it is a fixed-latency word
(R387), the route that it sets as it retires (R16, R355), and the address register that it writes (R277). -/
structure Infl where
  id : Nat
  pc : W64
  done : Bool
  sigs : List Nat
  took : List Nat
  rels : List (Nat × Nat)
  fixed : Bool
  route : Option (Fin 16 × Fin 16)
  aw : Option (Fin 32)
  deriving DecidableEq, Repr, Inhabited

/-- The fields of a ring as a word saw them when it issued: an RGSET that is unordered against it is taken to come after it (R346). -/
structure RingCfg where
  base : Nat
  logsz : Nat
  count : Nat
  peer : Nat
  deriving DecidableEq, Repr, Inhabited

/-- What a performed load does with its bytes: a register (R322); a ring slot that is claimed then (R287), with the old
value of the address register; `n` ring slots that are claimed
then, one for each row, poisoned units reading as zeros under `zs` (R264); the stores of an ACOPY, from byte `off` on (R281); a landing
operation (R366); bytes of a stored row of the running tile's operand `side`, from byte `off` on (R117, R175). Log 29: DEDUCED. -/
inductive LDst where
  | x (d : Fin 64) (lab : Label)
  | slot (rg : Nat) (cfg : RingCfg) (lab : Label) (back : Fin 32 × LW)
  | rows (rg : Nat) (cfg : RingCfg) (n row : Nat) (lab : Label) (zs : Bool)
  | copy (off : Nat)
  | landing
  | operand (side row off : Nat)
  deriving DecidableEq, Repr, Inhabited

/-- An entry of a load queue (R163, R165): a load with the locations it needs (each with its page or part and whether the page has
policy N) and the bytes it has read, the read half of an atomic, LCWAIT's acquire, or a marker. -/
inductive LKind where
  | load (need : List (Nat × Loc × Bool)) (got : List (Option Byte)) (dst : LDst)
  | atomic
  | lcwait
  | fence (k : FKind) (sc : Scope)
  | qalign
  deriving DecidableEq, Repr, Inhabited

structure LEnt where
  id : Nat
  seq : Nat
  kind : LKind
  acq : Option Scope
  deriving DecidableEq, Repr, Inhabited

/-- An atomic at its home: AMO or CAS of the C-stream, or a VAMO with the next word to perform (R169, R289, R302, R358). -/
inductive AtReq where
  | amo (loc : Loc) (sz : Nat) (op : Option AtOp) (expect v : W64) (d : Fin 64) (lab : Label) (sc : Scope) (va : W64)
  | vamo (op : VAmoOp) (ea next : Nat) (int ftz : Bool) (em : BitVec 1024) (vals : Vector W32 1024)
  deriving DecidableEq, Repr, Inhabited

/-- An entry of a store queue (R163, R165): the bytes still to write; whether an ACOPY's loads have performed; whether it performs in
one step (R297); its release scope; the locations already written (R167). -/
inductive SKind where
  | store (bytes : List (Loc × Byte)) (ready whole : Bool) (rel : Option Scope) (wrote : List Loc)
  | atomic (r : AtReq)
  | fence (k : FKind) (sc : Scope)
  | qalign
  | laceReturn (tiles : List Nat)
  deriving DecidableEq, Repr, Inhabited

/-- A run of a store above device memory: its physical and virtual address and its length (R170, R212). -/
structure FarRun where
  pa : Nat
  va : W64
  len : Nat
  deriving DecidableEq, Repr, Inhabited

/-- A store-queue entry with its data label, its virtual address and its runs above device memory; `pub` gives the ring, first slot and
slots of an export ring that the entry writes and whose publish follows it (R176). -/
structure SEnt where
  id : Nat
  seq : Nat
  kind : SKind
  lab : Label
  va : W64
  far : List FarRun
  pub : Option (Nat × Nat × Nat)
  deriving DecidableEq, Repr, Inhabited

/-- A write at or above 2^50 on its way to its far home (R170), one for each run of its store, and whether the hub has released it (R207);
with the BASEHI that its host window had when it arrived at the hub (R267). -/
structure Posted where
  id : Nat
  seq : Nat
  part : Nat
  bytes : List (Nat × Byte)
  lab : Label
  va : W64
  space : Nat
  graph : Nat
  released : Bool
  basehi : Nat
  deriving DecidableEq, Repr, Inhabited

/-- What the C-stream goes back to when a system-scope release that it has issued past turns out to report a refused write (R209, R214,
R390): the release's number, the scalar registers, CLABEL and the address of the word that follows it. Log 15: DEDUCED. -/
structure Ahead where
  id : Nat
  x : Vector LW 64
  clab : Label
  pc : W64
  deriving DecidableEq, Repr, Inhabited

/-- One of a task's four streams (R14, R16, R163, R198). -/
structure Strm where
  pc : W64
  ended : Bool
  stop : Stop
  routeIn : Fin 16
  routeOut : Fin 16
  clab : Label
  bank : Bank
  hold : Option HoldRegion
  stitch : Stitch
  infl : List Infl
  lq : List LEnt
  sq : List SEnt
  posted : List Posted
  refused : List (Nat × W64)
  blocked : Option Nat
  ahead : Option Ahead
  deriving DecidableEq, Repr, Inhabited

/-- A ring (R24, R147, R149, R150): its fields, its counts, the labels of its slots, the labels of the writes into each slot since its
claim, and on an export ring the credits and publishes that are on their way. -/
structure Ring where
  base : Nat
  logsz : Nat
  count : Nat
  peer : Nat
  claimed : W32
  filled : W32
  freed : W32
  slotLab : List (Nat × Label)
  wrote : List (Nat × Label)
  publishes : List (Nat × Nat × Label)
  credits : List Nat
  checked : Bool
  deriving DecidableEq, Repr, Inhabited

/-- A vector register: 16 rows of 64 containers and one label (R87). -/
structure VReg where
  e : Vector W32 1024
  lab : Label
  deriving DecidableEq, Repr, Inhabited

/-- A mask and its label (R100). -/
structure Mask where
  bits : BitVec 1024
  lab : Label
  deriving DecidableEq, Repr, Inhabited

/-- A fixed-latency write that has not landed (R94 to R96): issue distance left, the register (32 EM, 33 CM), the containers written,
their values or the mask, the label and whether it replaces the old one (R93); the word that wrote it, and the clock by which that word has
retired (R387). -/
structure VPend where
  left : Nat
  reg : Nat
  sel : BitVec 1024
  data : Vector W32 1024
  bits : BitVec 1024
  lab : Label
  repl : Bool
  id : Nat
  due : Nat
  deriving DecidableEq, Repr, Inhabited

/-- The landing operations (R97). -/
inductive LandKind where
  | vld | vst | vpop | vpush | vamo
  deriving DecidableEq, Repr, Inhabited

/-- A landing operation in flight: its token, its register, the containers in memory order, the enabled ones, the element type and
conversion of its own issue (R377), its ring, its label, and its bytes or old values once they are there. -/
structure Landing where
  id : Nat
  kind : LandKind
  lt : Fin 8
  reg : Option (Fin 32)
  order : List Nat
  em : BitVec 1024
  ty : VTy
  vtype : W64
  ring : Option Nat
  slot : Nat
  lab : Label
  repl : Bool
  bytes : Option (List Byte)
  olds : List W32
  deriving DecidableEq, Repr, Inhabited

/-- A running VLOOP (R102, R103, R105): first body word, length, stages, iterations of this run, pass, current stage, the trip count T,
and the iterations that an earlier run completed. -/
structure Loop where
  body : W64
  len : Nat
  stages : Nat
  trips : Nat
  pass : Nat
  stage : Nat
  full : Nat
  skip : Nat
  deriving DecidableEq, Repr, Inhabited

/-- A copy of a nest slot: level `l` field `f` at `6 l + f`, slot-wide field `f` at `36 + f`, and its label (R112, R113). -/
structure Nest where
  f : Vector W64 51
  lab : Label
  deriving DecidableEq, Repr, Inhabited

/-- The tile configuration that MCFG latches (R124, R328). -/
structure TileCfg where
  m : Nat
  n : Nat
  kstep : Nat
  asrc : Nat
  bsrc : Nat
  order : Nat
  save : W64
  slot : Nat
  lab : Label
  deriving DecidableEq, Repr, Inhabited

/-- Where a drain goes: rows in memory, with the label of the nest slot that names them, or a slot of a ring (R122, R329). -/
inductive DDst where
  | mem (base ld : W64) (lab : Label) | ring (r : Nat)
  deriving DecidableEq, Repr, Inhabited

/-- The M-stream commands that go through the array's command FIFO (R324). -/
inductive MCmd where
  | mgo (ns : Fin 8) (p l z t : Bool)
  | mma (p : Bool) (a b c : Fin 16) (l z t sparse : Bool)
  | drain (p : Bool) (dst : DDst)
  deriving DecidableEq, Repr, Inhabited

/-- The faulting element of a tile (R129): side, edge, step, cause and address, and the index e. -/
structure TFault where
  side : Nat
  edge : Nat
  step : Nat
  cause : Nat
  va : W64
  e : Nat
  deriving DecidableEq, Repr, Inhabited

/-- Where an operand of a tile is read (R117): stored rows in virtual memory or scratchpad, or a slot of a ring. -/
inductive OpSrc where
  | virt (base ld : W64) | scr (base ld : Nat) | ring (r pitch : Nat)
  deriving DecidableEq, Repr, Inhabited

/-- An operand byte: not fetched yet, not fetched because of a translation fault, poisoned, or there (R129, R157). -/
inductive OpByte where
  | wait | fault (cause : Nat) | bad | val (b : Byte)
  deriving DecidableEq, Repr, Inhabited

/-- The stored rows of an operand: 0 A, 1 B, 2 and 3 their block scales, 4 sparse metadata, 5 band scales; whether they stand in column
order; and the address of each row (R77, R117, R121). -/
structure OpRows where
  side : Nat
  col : Bool
  src : OpSrc
  len : Nat
  va : List W64
  rows : List (List OpByte)
  deriving DecidableEq, Repr, Inhabited

/-- What a tile is to do, from its command (R115, R325, R332). `nest` is the copy that a cut saves, `drain` what follows its last step. -/
structure Tile where
  plane : Bool
  m : Nat
  n : Nat
  kstep : Nat
  order : Nat
  a : OpSrc
  b : OpSrc
  sparse : Option Nat
  z : Bool
  point : Bool
  lab : Label
  nest : Nest
  save : W64
  slot : Nat
  drain : Option DDst
  deriving DecidableEq, Repr, Inhabited

/-- What a tile that runs again uses instead of a pop and a wait: its format word and that word's label, the ring slots that it consumed
(side, ring, slot), and for a tile restarted from a cut its counts and the smallest of them. `tile` is the tile as it first ran, where the engine
retains it; `replay` marks a tile of a replay, with its place in it; `kept` says that the window has it; `ops` holds what the tile
that a cut stopped had fetched (R118, R125, R132, R138, R256). -/
structure Again where
  fmt : W64
  lab : Label
  slots : List (Nat × Nat × Nat)
  counts : Option (Nat × List Nat)
  replay : Option Nat
  tile : Option Tile
  kept : Bool
  ops : List OpRows
  deriving DecidableEq, Repr, Inhabited

/-- An accepted command: its word, its number and address, the M-stream's CLABEL when it issued, and the tile of an MGO, with whether that
tile's drain is still to be done (R331). A command with `again` runs one tile, before the MGO in progress goes on. -/
structure Cmd where
  cmd : MCmd
  word : W32
  id : Nat
  pc : W64
  lab : Label
  tile : Nat
  pend : Bool
  again : Option Again
  deriving DecidableEq, Repr, Inhabited

/-- A tile kept for replay (R125): its command and tile, its format word and that word's label, its ring slots, whether it is a replay
point, and what it was resumed from (R140): the address of the image of an MRSTR, or the accumulators and counts of a context image. -/
structure Kept where
  cmd : Cmd
  fmt : W64
  lab : Label
  slots : List (Nat × Nat × Nat)
  point : Bool
  image : Option W64
  ctx : Option (Vector W32 12288 × Nat × List Nat)
  t : Tile
  deriving DecidableEq, Repr, Inhabited

/-- An accumulator plane record (R109), and what the engine keeps of its output tile: the word whose tile's rows are becoming final, the
ring slots held, the replay window, and whether the window has been replayed (R122, R125, R257). -/
structure Plane where
  acc : Vector W32 12288
  lab : Label
  wm : Nat
  dirty : Bool
  m : Nat
  n : Nat
  int : Bool
  oty : VTy
  ornd : Rnd
  osat : Bool
  fin : Option Nat
  held : List (Nat × Nat)
  win : List Kept
  used : Bool
  deriving DecidableEq, Repr, Inhabited

/-- The tile in flight (R107, R129, R130, R325): its format word, its operands, the ring slots it took, whether its plane has started, the
counts before its steps began, the steps that each edge may enter, the fault that stops them, and the steps entered. -/
structure Run where
  cmd : Cmd
  t : Tile
  fmt : W64
  flab : Label
  q : Nat
  ops : List OpRows
  slots : List (Nat × Nat × Nat)
  lab : Label
  began : Bool
  nprev : List Nat
  stopA : List Nat
  stopB : List Nat
  due : Option TFault
  entered : Nat
  deriving DecidableEq, Repr, Inhabited

/-- A drain (R122, R329): its word, the tile of the MGO that it belongs to, its plane, whether its checks have been made, the next row, the
runs of each row in memory or the claimed ring slot, and its label. -/
structure Drain where
  id : Nat
  pc : W64
  tile : Option (Fin 8 × Nat)
  plane : Bool
  dst : DDst
  began : Bool
  row : Nat
  rows : List (List FarRun)
  slot : Nat
  lab : Label
  deriving DecidableEq, Repr, Inhabited

/-- A ragged welt whose trap is still to be taken (R143): the cut word, the cause and its TVAL. -/
structure Ragged where
  id : Nat
  cause : Nat
  va : W64
  lab : Label
  deriving DecidableEq, Repr, Inhabited

/-- The ring slots that a cut holds until its output tile retires after the resume (R135), by the address of its image: the slots of the
output tile, those of the cut tile by side, and those of the tiles of a replay that were still to come; with the operand rows that the cut
tile had fetched (R118). Log 95: DESIGN CHOICE. -/
structure CutHold where
  image : W64
  held : List (Nat × Nat)
  slots : List (Nat × Nat × Nat)
  tails : List (List (Nat × Nat × Nat))
  ops : List OpRows
  deriving DecidableEq, Repr, Inhabited

/-- The state of a lace slot (R218). -/
inductive LaceSt where
  | idle | declaring | submitted | granted
  deriving DecidableEq, Repr, Inhabited

/-- A declared tile: virtual and physical address, policy N, and the tag that LCWAIT read (R220, R226). -/
structure LTile where
  va : W64
  pa : Nat
  polN : Bool
  tag : Label
  deriving DecidableEq, Repr, Inhabited

/-- How far LCSUB's submission has come (R220, R223): not sent, sent to the lacer for a beat, accepted, refused, or numbered. -/
inductive Sub where
  | none | sent (target : Nat) (beat : Nat) | accepted (beat : Nat) | refused | numbered (n : W64)
  deriving DecidableEq, Repr, Inhabited

/-- The lace slot (R218), with the register that LCSUB is to write. -/
structure Lace where
  st : LaceSt
  tiles : List LTile
  beat : Nat
  num : W64
  sub : Sub
  rd : Fin 64
  lab : Label
  deriving DecidableEq, Repr, Inhabited

/-- A DACC entry on its way to its home (R310, R177): the word that sent it, its address and the words it names, its ResultLabel, and in a
body the tag that LCWAIT read. -/
inductive DaccOp where
  | open_ (desc : W64) | add (v : W64) (scaled : Bool) | read (d : Fin 64) | close
  deriving DecidableEq, Repr, Inhabited

structure DaccReq where
  op : DaccOp
  id : Nat
  va : W64
  pas : List Nat
  lab : Label
  tag : Option Label
  deriving DecidableEq, Repr, Inhabited

/-- A cached leaf (R189): space, first virtual page number, pages, first frame, rights, policy, level, the entry's address, and the A
and D state of each member (R186). -/
structure Leaf where
  space : Nat
  vpn : Nat
  pages : Nat
  pfn : Nat
  rd : Bool
  w : Bool
  x : Nat
  polN : Bool
  lvl : Nat
  pte : Nat
  ents : List W64
  deriving DecidableEq, Repr, Inhabited

/-- A walk-cache entry: the table that a pointer at level `lvl` named (R189). -/
structure Walk where
  space : Nat
  lvl : Nat
  idx : Nat
  table : Nat
  deriving DecidableEq, Repr, Inhabited

/-- A 64-byte copy in an L1 or a remote-data cache (R151, R155, R157). -/
structure Copy where
  line : Nat
  bytes : List Byte
  poison : Bool
  deriving DecidableEq, Repr, Inhabited

/-- Who a task is (R27, R31, R181, R242). -/
structure Task where
  graph : Nat
  node : Nat
  idx : Nat
  queue : Nat
  func : Nat
  part : Nat
  lcore : Nat
  space : Nat
  root : Nat
  kern : Nat
  launch : Nat
  spIdx : List Nat
  preempt : Bool
  keep : Bool
  deriving DecidableEq, Repr, Inhabited

/-- The CSRs of a task that hold state of their own, and the labels of R307 by csr11 (R20, R88, R99, R104, R116, R118, R141, R249). -/
structure Csrs where
  bankSel : Nat
  deleg : BitVec 4
  nest : Bool
  tvec : W64
  scratch : W64
  stitchset : BitVec 4
  holdPeak : Nat
  mrowprog : W64
  nstcur : W64
  weltstat : W64
  vtype : W64
  iter : Nat
  rrb : Nat
  act : BitVec 8
  bankstall : W64
  skipspec : Bool
  labs : List (Csr × Label)
  deriving DecidableEq, Repr, Inhabited

/-- A core: a compute core with the task it runs, or a dispatch core, which has the C-stream alone (R14, R44). `vrows` holds the rows that
a VMRD which still waits has read (R370), `again` the loop that a forced epilogue left, as it restarts
(R105), `owed` the tokens that words without effect gave back to queues that stood at 15 (R15, R18). Of the array: the format word that a tile had popped when it trapped (R119, R194), the accepted commands, the MGO in progress with its next tile, the MGO that a trap stopped (slot, tile, whether its drain
is pending), the word that NSTCUR describes, the tile in flight, the drains, the ragged welt whose trap is due, the slots that cuts hold.
`ending` says that TASKEND has stopped the other streams (R352), `killed` that the task ends from outside, keeping its image for a restart where
it holds true (R253, R258); `parked` names the kernel and TASKIDX of the task whose scratchpad the core keeps (R245). -/
structure Core where
  id : Nat
  dispatch : Bool
  cur : Stream
  task : Option Task
  parked : Option (Nat × Nat)
  c : Strm
  a : Strm
  v : Strm
  m : Strm
  next : Nat
  tok : Vector Nat 16
  owed : List Nat
  tokLab : Vector Label 16
  cqA : List LW
  cqV : List LW
  x : Vector LW 64
  xPend : List (Fin 64)
  ar : Vector LW 32
  vr : Vector VReg 32
  ix : Vector (BitVec 16 × Label) 4
  p : Vector (Nat × Label) 4
  em : Mask
  cm : Mask
  mstack : List Mask
  csr : Csrs
  vpend : List VPend
  lt : Vector Nat 8
  landings : List Landing
  landPend : List (Fin 32 × Fin 8)
  loop : Option Loop
  again : Option Loop
  vrows : List (List W32 × Label)
  rings : Vector Ring 16
  scratch : List Host.Cell
  segLab : Vector Label 96
  scrBad : List Nat
  shadow : Vector Nest 8
  active : Vector Nest 8
  cfg : TileCfg
  fmtq : List LW
  popped : Option LW
  fifo : List Cmd
  mgo : Option Cmd
  stopAt : Option (Fin 8 × Nat × Bool)
  owner : Option Nat
  run : Option Run
  drains : List Drain
  ragged : Option Ragged
  cuts : List CutHold
  plane0 : Plane
  plane1 : Plane
  lace : Lace
  dacc : Option DaccReq
  latch : Bool
  ending : Bool
  killed : Option Bool
  l1 : List Copy
  pref : List Nat
  utlb : List (Pipe × Leaf)
  l2tlb : List Leaf
  walks : List Walk
  deriving DecidableEq, Repr, Inhabited

/-- An enrolled tenant: its origin slot and its Ed448 key (R193). -/
structure Tenant where
  slot : Nat
  key : List Byte
  deriving DecidableEq, Repr, Inhabited

/-- A device frame's tag: its label and the registration that owns it (R203, R206). -/
structure Tag where
  frame : Nat
  lab : Label
  owner : Option Nat
  zeroing : Bool
  deriving DecidableEq, Repr, Inhabited

/-- An entry of the policy table (R210, R211). -/
structure Policy where
  idx : Nat
  dkind : Nat
  lset : Label
  dest : Nat
  dlo : Nat
  dhi : Nat
  remaining : Nat
  expiry : Nat
  graph : Nat
  greq : Bool
  signers : List Nat
  deriving DecidableEq, Repr, Inhabited

/-- An error record (R262). -/
structure ErrRec where
  code : Nat
  sev : Nat
  func : Nat
  unit : Nat
  tstep : Nat
  data0 : W64
  data1 : W64
  deriving DecidableEq, Repr, Inhabited

/-- The error log of a function (R262): the records by slot, the counts, and the overflow bit. -/
structure ErrLog where
  func : Nat
  recs : List (Nat × ErrRec)
  tail : Nat
  head : Nat
  overflow : Bool
  deriving DecidableEq, Repr, Inhabited

/-- A record of a fault mailbox (R253). -/
structure MailRec where
  ticket : Nat
  stream : Nat
  withheld : Bool
  cause : Nat
  queue : Nat
  graph : Nat
  lcore : Nat
  taskidx : W64
  epc : W64
  tval : W64
  deriving DecidableEq, Repr, Inhabited

/-- The fault mailbox of a function (R253). -/
structure Mailbox where
  func : Nat
  recs : List (Nat × MailRec)
  tail : Nat
  head : Nat
  deriving DecidableEq, Repr, Inhabited

/-- A hardware queue slot with the live copy of its queue's control block (R232, R234). -/
structure QSlot where
  die : Nat
  slot : Nat
  q : Nat
  deriving DecidableEq, Repr, Inhabited

/-- A queue control block held live by the slots (R232). -/
structure Qcb where
  qnum : Nat
  func : Nat
  part : Nat
  prio : Nat
  err : Bool
  mapped : Bool
  busy : Bool
  khead : Nat
  kcount : Nat
  run : W64
  kdone : W64
  kdrop : W64
  csrc : W64
  cdst : W64
  clen : W64
  cdone : W64
  kicks : List W64
  deriving DecidableEq, Repr, Inhabited

/-- A partition (R235, R240, R241). -/
structure Part where
  budget : W64
  pclust : W64
  pring : W64
  pmode : W64
  deriving DecidableEq, Repr, Inhabited

/-- A registered graph (R61, R181, R386): its bundle with Insole's placements, and the origins it holds. -/
structure Graph where
  reg : GraphReg
  holds : Label
  deriving DecidableEq, Repr, Inhabited

/-- A kernel of a started graph (R233, R237 to R239): the graph and node, the queue, the argument set, its place in the order of kicks and the
beat in which its kick arrived; the tasks issued, by die rank and index on the die; TSTEP0; whether it was refused or has completed, and the
beat of its completion. -/
structure Kern where
  id : Nat
  launch : Nat
  graph : Nat
  node : Nat
  queue : Nat
  argset : Nat
  order : Nat
  arrive : Nat
  waves : List (Nat × Nat)
  tstep0 : Option Nat
  refused : Bool
  done : Bool
  ready : Option Nat
  deriving DecidableEq, Repr, Inhabited

/-- A task's saved context image (R246), with its labels as full sets: the core's state and, unless it was parked, its scratchpad. `magic`
says that the header is well formed, `hops` holds the ring hop distances of the kernel's clusters, `cut` gives the plane of the welt cut, the nest slot of a cut MGO and the label PLABEL ∪ XLABEL, `ended` marks a task that the
heel checker ended (R258), and `live` the image of a task that is not resident. Log 20: DESIGN CHOICE. -/
structure Image where
  queue : Nat
  kern : Nat
  taskidx : Nat
  magic : Bool
  ended : Bool
  live : Bool
  cut : Option (Bool × Option (Fin 8) × Label)
  hops : List Nat
  core : Core
  deriving DecidableEq, Repr, Inhabited

/-- A bulk copy command (R244). -/
structure CopyJob where
  die : Nat
  queue : Nat
  order : Nat
  deriving DecidableEq, Repr, Inhabited

/-- A word of an open DACC region (R86): its accumulator and its flags. -/
structure Acc256 where
  acc : BitVec 256
  ovf : Bool
  pinf : Bool
  ninf : Bool
  nan : Bool
  deriving DecidableEq, Repr, Inhabited

/-- An open DACC region (R86, R310): its anchor, and its words by physical address. -/
structure Region where
  e : Int
  words : List (Nat × Acc256)
  deriving DecidableEq, Repr, Inhabited

/-- A submission in a lacer's batch (R223): die, beat, the sorting key, the core and its tiles, and its number once the beat has
closed. -/
structure LaceTx where
  die : Nat
  beat : Nat
  key : Nat × Nat × Nat × Nat
  core : Nat
  tiles : List Nat
  num : Option W64
  gone : Bool
  deriving DecidableEq, Repr, Inhabited

/-- The queue and holder of a lace tile at its home slice, by lace number (R225). -/
structure LQueue where
  pa : Nat
  holder : Option W64
  queue : List W64
  deriving DecidableEq, Repr, Inhabited

/-- A host window register (R267). -/
structure HWin where
  w : Nat
  basehi : Nat
  en : Bool
  func : Nat
  deriving DecidableEq, Repr, Inhabited

/-- What the outside last read from the module: a completion, or why there is none (R269, R259). -/
inductive Reply where
  | none | data (b : List Byte) | completerAbort | unsupported | mctp (b : List Byte)
  deriving DecidableEq, Repr, Inhabited

/-- A TLBICTL command in progress or held (R191): mode, space, page; whether it is Insole's (R391). -/
structure Tlbi where
  mode : Nat
  space : Nat
  vpn : Nat
  own : Bool
  deriving DecidableEq, Repr, Inhabited

/-- An owner key slot (R273). -/
structure KeySlot where
  key : List Byte
  filled : Bool
  revoked : Bool
  deriving DecidableEq, Repr, Inhabited

/-- TDISP states of a virtual function (R268). -/
inductive TdiSt where
  | unlocked | locked | run | error
  deriving DecidableEq, Repr, Inhabited

/-- The module. `agenda` and `ir` are the model's own: the steps that the ordering machine, the outside world and firmware choose,
first to happen first (log entry 1), and the word that WORD_FETCH has read. `hubLog` holds the label, destination and length of each refused
write (R209), `hubRecs` the records of stops whose mailbox was full (R253), `slotNow` and `slotHeld` the SLOTCMD in progress of each die and
the writes held behind it (R236), `engines` the die, engine and queue of each chunk in hand (R244), `heldSteps` the steps that wait until
an invalidation or a transaction ends (R228, R391), `qcbMoved` the frames to which pages of the queue control blocks have moved (R10),
`jointFrames` the frames of the joint-region requests with their sets (R205). -/
structure State where
  agenda : List Instr
  ir : Option (Stream × Instr)
  freeNo : Nat
  core : Core
  others : List (Nat × Core)
  clk : Nat
  beatClk : Nat
  tstep : Nat
  viral : Bool
  inReset : Bool
  mem : List Host.Cell
  host : List Host.Cell
  peers : List (Nat × Byte)
  peerTags : List (Nat × Label)
  poison : List Nat
  tags : List Tag
  labels : List (Nat × Label)
  tenants : List Tenant
  origins : List (Nat × Nat)
  grants : List (Nat × Label)
  jointFrames : List (Nat × Label)
  policies : List Policy
  logs : List ErrLog
  hubLog : List (Label × Nat × Nat)
  mailboxes : List Mailbox
  hubRecs : List (Nat × MailRec)
  tickets : Nat
  qcbBase : Nat
  qcbMoved : List (Nat × Nat)
  qcbs : List Qcb
  slots : List QSlot
  slotSt : Vector Nat 8
  slotNow : List (Nat × W64)
  slotHeld : List (Nat × W64)
  pendmap : List Nat
  parts : Vector Part 16
  graphs : List Graph
  kerns : List Kern
  kernNo : Nat
  images : List Image
  jobs : List CopyJob
  engines : List (Nat × Nat × Nat)
  chunks : List Nat
  charged : List (Nat × Nat)
  arrivals : List (Nat × Nat × Nat)
  regions : List Region
  daccWays : Nat
  batches : List LaceTx
  sentTo : List (Nat × Nat)
  merged : List (Nat × Nat × Nat)
  lqueues : List LQueue
  rdc : List (Nat × Copy)
  dtlb : List (Nat × Leaf)
  hwin : List HWin
  l2mask : List (Nat × Nat)
  zscount : List (Nat × Nat)
  clen : Vector Nat 8
  retired : List Nat
  fenced : List (Nat × Nat)
  lanes : Vector Nat 18
  tlbiVa : W64
  tlbiCtl : W64
  tlbiNow : Option Tlbi
  tlbiHeld : List Tlbi
  heldSteps : List Instr
  bistSel : Option Nat
  bistFail : Option Nat
  keys : Vector KeySlot 4
  golden : List Byte × List Byte
  flash : (List Byte × List Byte) × (List Byte × List Byte)
  fwrec : Bool
  domain : Option Nat
  members : List Nat
  tdi : List (Nat × TdiSt)
  powerCap : Nat
  throttle : Bool
  reply : Reply
  deriving DecidableEq, Repr, Inhabited

/-- A stream of a core that runs no task: ended, with no route (R16, R61). Log 2: DESIGN CHOICE. -/
def Strm.reset (st : Stream) : Strm where
  pc := 0
  ended := true
  stop := .running
  routeIn := Fin.ofNat 16 (noRoute st)
  routeOut := Fin.ofNat 16 (noRoute st)
  clab := Label.empty
  bank := ⟨0, 0, 0, Label.empty⟩
  hold := none
  stitch := .none
  infl := []
  lq := []
  sq := []
  posted := []
  refused := []
  blocked := none
  ahead := none

/-- A ring with no record: every field and count zero (R147). -/
def Ring.reset : Ring := ⟨0, 0, 0, 0, 0, 0, 0, [], [], [], [], false⟩
/-- A zeroed vector register with the empty label (R27). -/
def VReg.reset : VReg := ⟨Vector.replicate 1024 0, Label.empty⟩
/-- A plane at task start: zero, empty label, watermark 96, not dirty (R109). -/
def Plane.reset : Plane := ⟨Vector.replicate 12288 0, Label.empty, 96, false, 0, 0, false, .f32, .rne, false, none, [], [], false⟩
/-- A nest slot with every field zero (R112). -/
def Nest.reset : Nest := ⟨Vector.replicate 51 0, Label.empty⟩
/-- No configuration yet: KSTEP is 0 (R124). -/
def TileCfg.reset : TileCfg := ⟨0, 0, 0, 0, 0, 0, 0, 0, Label.empty⟩
/-- An idle lace slot (R218). -/
def Lace.reset : Lace := ⟨.idle, [], 0, 0, .none, 0, Label.empty⟩
/-- The CSRs at their reset values (R20, R88, R99, R104, R116, R118, R141, R249). -/
def Csrs.reset : Csrs := ⟨0, 0, false, 0, 0, 0, 0, 0, 0, 0, 0, 0, 0, 0, 0, false, []⟩

/-- A core with no task, its state zeroed (R27, R109, R146, R206). Log 2: DESIGN CHOICE. -/
def Core.reset (id : Nat) : Core where
  id := id
  dispatch := decide (1024 ≤ id)
  cur := .c
  task := none
  parked := none
  c := Strm.reset .c
  a := Strm.reset .a
  v := Strm.reset .v
  m := Strm.reset .m
  next := 0
  tok := Vector.replicate 16 0
  owed := []
  tokLab := Vector.replicate 16 Label.empty
  cqA := []
  cqV := []
  x := Vector.replicate 64 ⟨0, Label.empty⟩
  xPend := []
  ar := Vector.replicate 32 ⟨0, Label.empty⟩
  vr := Vector.replicate 32 VReg.reset
  ix := Vector.replicate 4 (0, Label.empty)
  p := Vector.replicate 4 (0, Label.empty)
  em := ⟨BitVec.allOnes 1024, Label.empty⟩
  cm := ⟨0, Label.empty⟩
  mstack := []
  csr := Csrs.reset
  vpend := []
  lt := Vector.replicate 8 0
  landings := []
  landPend := []
  loop := none
  again := none
  vrows := []
  rings := Vector.replicate 16 Ring.reset
  scratch := []
  segLab := Vector.replicate 96 Label.empty
  scrBad := []
  shadow := Vector.replicate 8 Nest.reset
  active := Vector.replicate 8 Nest.reset
  cfg := TileCfg.reset
  fmtq := []
  popped := none
  fifo := []
  mgo := none
  stopAt := none
  owner := none
  run := none
  drains := []
  ragged := none
  cuts := []
  plane0 := Plane.reset
  plane1 := Plane.reset
  lace := Lace.reset
  dacc := none
  latch := false
  ending := false
  killed := none
  l1 := []
  pref := []
  utlb := []
  l2tlb := []
  walks := []

/-- The module right after reset, in service with every unit enabled: no task, no registration, no cached copy, TSTEP at its epoch,
memory with nothing listed. The fields that the spec gives no reset value stand at the values of log entries 2 and 7. Log 7: DESIGN CHOICE; log 8: DESIGN CHOICE. -/
def State.reset : State where
  agenda := []
  ir := none
  freeNo := 0
  core := Core.reset 0
  others := []
  clk := 0
  beatClk := 0
  tstep := 0
  viral := false
  inReset := false
  mem := []
  host := []
  peers := []
  peerTags := []
  poison := []
  tags := []
  labels := []
  tenants := []
  origins := []
  grants := []
  jointFrames := []
  policies := []
  logs := []
  hubLog := []
  mailboxes := []
  hubRecs := []
  tickets := 0
  qcbBase := 0
  qcbMoved := []
  qcbs := []
  slots := []
  slotSt := Vector.replicate 8 0
  slotNow := []
  slotHeld := []
  pendmap := []
  parts := Vector.replicate 16 ⟨0, 0, 0, 0⟩
  graphs := []
  kerns := []
  kernNo := 0
  images := []
  jobs := []
  engines := []
  chunks := []
  charged := []
  arrivals := []
  regions := []
  daccWays := 4
  batches := []
  sentTo := []
  merged := []
  lqueues := []
  rdc := []
  dtlb := []
  hwin := []
  l2mask := []
  zscount := []
  clen := Vector.replicate 8 255
  retired := []
  fenced := []
  lanes := Vector.replicate 18 15
  tlbiVa := 0
  tlbiCtl := 0
  tlbiNow := none
  tlbiHeld := []
  heldSteps := []
  bistSel := none
  bistFail := none
  keys := #v[⟨[], true, false⟩, ⟨[], false, false⟩, ⟨[], false, false⟩, ⟨[], false, false⟩]
  golden := ([], [])
  flash := (([], []), ([], []))
  fwrec := false
  domain := none
  members := []
  tdi := []
  powerCap := 3200
  throttle := false
  reply := .none

end Sys2Proof.Machine
end

