-- ==== Sys2Proof/Machine/Base.lean ====
section
/-! DEFINITION. The named operations over the parts of the state: bytes of memory, physical addresses, labels, registers, streams,
tokens, rings, error records, HOLD regions and the lace slot. -/

namespace Sys2Proof.Machine
open Sys2Proof

/-! ### Bytes (R2, R9, R144) -/

/-- What a byte reads as: an unlisted byte reads 0 (log entry 8). Log 8: DESIGN CHOICE. -/
def memGet : List Host.Cell → Nat → Byte
  | [], _ => 0
  | (k, b) :: t, a => if k = a then b else if a < k then 0 else memGet t a

/-- One byte written, in the canonical form. Log 8: DESIGN CHOICE. -/
def memSet : List Host.Cell → Nat → Byte → List Host.Cell
  | [], a, b => if b = 0 then [] else [(a, b)]
  | (k, c) :: t, a, b =>
    if a < k then (if b = 0 then (k, c) :: t else (a, b) :: (k, c) :: t)
    else if a = k then (if b = 0 then t else (a, b) :: t)
    else (k, c) :: memSet t a b

/-- Every address of the list lies above `a`, addresses rise, and no entry reads as an unlisted byte. -/
def memWfFrom : Nat → List Host.Cell → Bool
  | _, [] => true
  | a, (k, b) :: t => a ≤ k && b != 0 && memWfFrom (k + 1) t

/-- The canonical form of a memory. Log 8: DESIGN CHOICE. -/
def Memory.wf (m : List Host.Cell) : Bool := memWfFrom 0 m

/-- `n` bytes from an address. -/
def memBytes (m : List Host.Cell) (a n : Nat) : List Byte := (List.range n).map fun i => memGet m (a + i)
/-- Bytes written from an address. -/
def memPut : List Host.Cell → Nat → List Byte → List Host.Cell
  | m, _, [] => m
  | m, a, b :: bs => memPut (memSet m a b) (a + 1) bs

/-- Peer memory, held by the full peer address (R266). -/
def peerGet (m : List (Nat × Byte)) (a : Nat) : Byte := memGet m a

/-! ### Physical addresses (R9, R266) -/

/-- The class of a physical address above device memory (R266). -/
def paClass (pa : Nat) : Nat := pa / 2 ^ 50 % 4
/-- The home die of a device byte (R9). -/
def homeDie (pa : Nat) : Nat := pa / 2 ^ 38
/-- The frame of an address. -/
def frameOf (pa : Nat) : Nat := pa / 4096
/-- The 64-byte unit or line of an address. -/
def lineOf (a : Nat) : Nat := a / 64

def deviceOk (pa : Nat) : Bool := decide (pa / 2 ^ 38 < 8) && decide (pa % 2 ^ 38 < Config.dieBytes)
/-- The device address of a peer address. -/
def peerPa (pa : Nat) : Nat := pa % 2 ^ 41
def peerModule (pa : Nat) : Nat := (pa - 2 ^ 51) / 2 ^ 41

/-- The addresses that R9 and R266 assign. -/
def assigned (s : State) (pa : Nat) : Bool :=
  match pa / 2 ^ 50 with
  | 0 => deviceOk pa
  | 1 => decide (pa % 2 ^ 50 < 2 ^ 40)
  | 2 => s.domain.isSome && s.members.contains (peerModule pa) && deviceOk (peerPa pa)
  | 3 => decide (pa % 2 ^ 50 < 8 * 65536)
  | _ => false

/-- The home slice within the die (R153). -/
def sliceOf (pa : Nat) : Nat :=
  (pa / 2 ^ 6 % 32) ^^^ (pa / 2 ^ 11 % 32) ^^^ (pa / 2 ^ 16 % 32) ^^^ (pa / 2 ^ 21 % 32) ^^^ (pa / 2 ^ 26 % 32) ^^^
    (pa / 2 ^ 31 % 32) ^^^ (pa / 2 ^ 36 % 4)
/-- The bank and the bank row of a scratchpad address (R144). -/
def scrBank (a : Nat) : Nat := (a / 64 % 32) ^^^ (a / 2048 % 32)
def scrRow (a : Nat) : Nat := a / 2048
/-- The pseudo-channel of a frame within its die (R156). -/
def channelOf (pa : Nat) : Nat :=
  let f := pa / 4096 % 2 ^ 26
  (f % 128) ^^^ (f / 2 ^ 7 % 128) ^^^ (f / 2 ^ 14 % 128) ^^^ (f / 2 ^ 21 % 32)

/-! ### Error records and the viral state (R259, R262) -/

def State.logOf (s : State) (f : Nat) : ErrLog := (s.logs.find? fun l => l.func == f).getD ⟨f, [], 0, 0, false⟩
def State.setLog (s : State) (l : ErrLog) : State := { s with logs := l :: s.logs.filter fun k => k.func != l.func }

/-- A record appended to one log: record `n` at slot `n mod 64`; a full log loses its oldest unread record (R262). -/
def ErrLog.post (l : ErrLog) (r : ErrRec) : ErrLog :=
  { l with
    recs := (l.tail % 64, r) :: l.recs.filter fun k => k.1 != l.tail % 64
    tail := l.tail + 1
    overflow := l.overflow || decide (64 ≤ l.tail - l.head) }

/-- An error record of a function: the physical function's log, and the virtual function's own (R262). A record of severity 2 puts the
module into the viral state (R259, R263). Log 56: DESIGN CHOICE. -/
def State.errRec (s : State) (code sev func unit : Nat) (d0 d1 : W64) : State :=
  let r : ErrRec := ⟨code, sev, func, unit, s.tstep, d0, d1⟩
  let s := s.setLog ((s.logOf 0).post r)
  let s := if func = 0 then s else s.setLog ((s.logOf func).post r)
  if sev = 2 then { s with viral := true } else s

/-! ### Labels (R193 to R196, R208) -/

/-- The handle of a set, if the table has it; the empty set has handle 0 (R194). -/
def State.handle? (s : State) (l : Label) : Option Nat :=
  if l = 0 then some 0 else (s.labels.find? fun e => e.2 == l).map (·.1)

/-- Whether a set has an entry, or one is free for it (R194). -/
def State.canIntern (s : State) (l : Label) : Bool :=
  (s.handle? l).isSome || decide (s.labels.length < Config.labelEntries - 1)

/-- The handles that no entry uses. -/
def State.freeHandles (s : State) : List Nat :=
  (List.range Config.labelEntries).filter fun h => h != 0 && !(s.labels.any fun e => e.1 == h)

/-- Interns a set that `canIntern` allows (R194). Log 3: DESIGN CHOICE. -/
def State.intern (s : State) (l : Label) : State :=
  if (s.handle? l).isSome then s
  else
    let fs := s.freeHandles
    { s with
      labels := (fs.getD (Config.freeHandle s.freeNo % fs.length) 1, l) :: s.labels
      freeNo := s.freeNo + 1 }

/-- The label of the frame of a device address (R203). -/
def State.tagOf (s : State) (pa : Nat) : Tag := (s.tags.find? fun t => t.frame == frameOf pa).getD ⟨frameOf pa, 0, none, false⟩
def State.frameLab (s : State) (pa : Nat) : Label := (s.tagOf pa).lab
def State.setTag (s : State) (t : Tag) : State := { s with tags := t :: s.tags.filter fun u => u.frame != t.frame }

/-- The label of the origin registered to a function; the empty label where none is (R208). -/
def State.funcLab (s : State) (f : Nat) : Label :=
  match s.origins.find? fun o => o.1 == f with
  | some o => Label.ofSlot o.2
  | none => 0

def State.hwinOf (s : State) (w : Nat) : HWin := (s.hwin.find? fun h => h.w == w).getD ⟨w, 0, false, 0⟩
/-- The host window of a host-class address. -/
def winOf (pa : Nat) : Nat := pa % 2 ^ 50 / 2 ^ 32

/-- A peer-class address of the module itself (R266). -/
def State.ownPeer (s : State) (pa : Nat) : Bool := s.domain == some (peerModule pa)
/-- The label of the frame of another module of the domain that a peer-class address names (R207, R271). Log 108: DESIGN CHOICE. -/
def State.peerLab (s : State) (pa : Nat) : Label := ((s.peerTags.find? fun t => t.1 == frameOf pa).map (·.2)).getD 0

/-- The label that a byte read at a physical address carries (R197, R277, R207, R208, R235). -/
def State.readLab (s : State) (pa : Nat) : Label :=
  match paClass pa with
  | 0 => s.frameLab pa
  | 1 => s.funcLab (s.hwinOf (winOf pa)).func
  | 2 => if s.ownPeer pa then s.frameLab (peerPa pa) else s.peerLab pa
  | _ => 0
/-- The frame of a byte is still to be zeroed for its new owner: an access that arrives waits (R206). Log 101: DEDUCED. -/
def State.awaitsZero (s : State) (pa : Nat) : Bool :=
  match paClass pa with
  | 0 => (s.tagOf pa).zeroing
  | 2 => s.ownPeer pa && (s.tagOf (peerPa pa)).zeroing
  | _ => false

/-! ### Cores and streams -/

/-- A core by its physical number. -/
def State.coreOf (s : State) (id : Nat) : Core :=
  if s.core.id = id then s.core else ((s.others.find? fun o => o.1 == id).map (·.2)).getD (Core.reset id)
def State.setCore (s : State) (k : Core) : State :=
  if s.core.id = k.id then { s with core := k }
  else { s with others := (k.id, k) :: s.others.filter fun o => o.1 != k.id }
def State.mapCore (s : State) (id : Nat) (f : Core → Core) : State := s.setCore (f (s.coreOf id))
/-- Brings a core into focus: its words and steps are those that act on `State.core`. -/
def State.focus (s : State) (id : Nat) : State :=
  if s.core.id = id then s
  else { s with core := s.coreOf id, others := (s.core.id, s.core) :: s.others.filter fun o => o.1 != id }
/-- Every core of the module that the state holds. -/
def State.cores (s : State) : List Core := s.core :: s.others.map (·.2)
def State.mapCores (s : State) (f : Core → Core) : State :=
  { s with core := f s.core, others := s.others.map fun o => (o.1, f o.2) }
/-- Runs a step of another core with that core in focus, and goes back. -/
def State.focusing (s : State) (id : Nat) (f : State → State) : State := (f (s.focus id)).focus s.core.id

/-- The die of a core (R8). -/
def coreDie (id : Nat) : Nat := if id < 1024 then id / 128 else (id - 1024) / 2

def Core.strm (k : Core) : Stream → Strm
  | .c => k.c | .a => k.a | .v => k.v | .m => k.m
def Core.setStrm (k : Core) (st : Stream) (t : Strm) : Core :=
  match st with
  | .c => { k with c := t } | .a => { k with a := t } | .v => { k with v := t } | .m => { k with m := t }
def State.strm (s : State) (st : Stream) : Strm := s.core.strm st
def State.setStrm (s : State) (st : Stream) (t : Strm) : State := { s with core := s.core.setStrm st t }
def State.modStrm (s : State) (st : Stream) (f : Strm → Strm) : State := s.setStrm st (f (s.strm st))
def State.modCore (s : State) (f : Core → Core) : State := { s with core := f s.core }

def streams : List Stream := [.c, .a, .v, .m]

/-- The function whose queue launched the core's task (R158, R253). -/
def Core.func (k : Core) : Nat := (k.task.map (·.func)).getD 0

/-! ### Scalar registers (R14) -/

/-- x0 reads zero with the empty label. -/
def Core.readX (k : Core) (r : Fin 64) : LW := if r = 0 then ⟨0, 0⟩ else k.x[r]
/-- A write to x0 is discarded. -/
def Core.writeX (k : Core) (r : Fin 64) (w : LW) : Core := if r = 0 then k else { k with x := k.x.set r w }
def Core.readA (k : Core) (r : Fin 32) : LW := if r = 0 then ⟨0, 0⟩ else k.ar[r]
def Core.writeA (k : Core) (r : Fin 32) (w : LW) : Core := if r = 0 then k else { k with ar := k.ar.set r w }

/-- Rotation of a vector register name (R103). -/
def Core.vphys (k : Core) (r : Fin 32) : Fin 32 :=
  if r.val < 16 then r else Fin.ofNat 32 (16 + (r.val - 16 + k.csr.rrb) % 16)

/-! ### CSR labels (R307) -/

def Csrs.labOf (k : Csrs) (c : Csr) : Label := ((k.labs.find? fun e => e.1 == c).map (·.2)).getD 0
def Csrs.joinLab (k : Csrs) (c : Csr) (l : Label) : Csrs :=
  if l = 0 then k else { k with labs := (c, Label.join (k.labOf c) l) :: k.labs.filter fun e => e.1 != c }
/-- The label of STATUS, CAUSE and the other CSRs that an update by the array or a stream raises (R307). -/
def Core.raiseCsr (k : Core) (c : Csr) (l : Label) : Core := { k with csr := k.csr.joinLab c l }

/-! ### Token queues (R15 to R18, R22, R174, R199) -/

/-- A signal into a queue: discarded when its destination has ended, else it needs room. -/
def Core.canSignal (k : Core) (q : Fin 16) (n : Nat) : Bool :=
  (k.strm (Stream.ofNum (q.val % 4))).ended || decide (k.tok[q] + n ≤ 15)
def Core.signal (k : Core) (q : Fin 16) (lab : Label) : Core :=
  if (k.strm (Stream.ofNum (q.val % 4))).ended then k
  else
    { k with
      tok := k.tok.set q (k.tok[q] + 1)
      tokLab := k.tokLab.set q (Label.join k.tokLab[q] lab)
      latch := k.latch || decide (q.val % 4 = 0) }
/-- A token taken from a queue that has one; a token owed to the queue takes its place (R15, R18). -/
def Core.takeTok (k : Core) (q : Fin 16) : Core :=
  if k.owed.contains q.val then { k with owed := k.owed.erase q.val } else { k with tok := k.tok.set q (k.tok[q] - 1) }
/-- A token given back by a word that has no effect; a queue that its source has filled meanwhile is owed it, so no count passes 15 (R15,
R18). -/
def Core.giveTok (k : Core) (q : Fin 16) : Core :=
  if k.tok[q] < 15 then { k with tok := k.tok.set q (k.tok[q] + 1) } else { k with owed := q.val :: k.owed }

/-- The signals of a word that retires: all of them in one cycle, or none (R17, R353). -/
def Core.signalAll (k : Core) (lab : Label) : List Nat → Option Core
  | [] => some k
  | [q] => if k.canSignal (Fin.ofNat 16 q) 1 then some (k.signal (Fin.ofNat 16 q) lab) else none
  | q :: r =>
    if k.canSignal (Fin.ofNat 16 q) (1 + r.count q) then Core.signalAll (k.signal (Fin.ofNat 16 q) lab) lab r else none

/-- A route that a retiring TROUTE sets (R16, R355). -/
def Strm.setRoute (t : Strm) (r : Option (Fin 16 × Fin 16)) : Strm :=
  match r with
  | some x => { t with routeIn := x.1, routeOut := x.2 }
  | none => t

/-- Retirement in program order: the words whose conditions hold and whose signals fit (R17, R19, R174). A fixed-latency word retires
whatever older word still stands before it (R387); `past` says that one does. The words that stay come back with the core. -/
def Core.retire (k : Core) (st : Stream) (past : Bool) : List Infl → Core × List Infl
  | [] => (k, [])
  | i :: r =>
    if i.done && (!past || i.fixed) then
      match k.signalAll (k.strm st).clab i.sigs with
      | some k' => Core.retire (k'.setStrm st ((k'.strm st).setRoute i.route)) st past r
      | none =>
        let x := Core.retire k st true r
        (x.1, i :: x.2)
    else
      let x := Core.retire k st true r
      (x.1, i :: x.2)
def Core.retireAll (k : Core) (st : Stream) : Core :=
  let x := k.retire st false (k.strm st).infl
  x.1.setStrm st { x.1.strm st with infl := x.2 }
/-- A word has done its work and waits only for room in a queue that it signals: its stream issues nothing younger (R17). -/
def stuckSignal (past : Bool) : List Infl → Bool
  | [] => false
  | i :: r => (i.done && (!past || i.fixed)) || stuckSignal true r

/-! ### Rings (R24, R147 to R150, R176) -/

def Ring.mode (r : Ring) : Nat := r.peer / 2 ^ 14 % 4
def Ring.peerRing (r : Ring) : Nat := r.peer / 2 ^ 10 % 16
def Ring.peerCore (r : Ring) : Nat := r.peer % 2 ^ 10
def Ring.slotSize (r : Ring) : Nat := 2 ^ r.logsz
def Ring.used (r : Ring) : Nat := (r.claimed - r.freed).toNat
def Ring.ready (r : Ring) : Nat := (r.filled - r.freed).toNat
/-- The index of slot `n`: slot numbers wrap with the counts (R24). -/
def Ring.slotIx (r : Ring) (n : Nat) : Nat := n % 2 ^ 32 % r.count
/-- The address of slot `n` (R147). -/
def Ring.slotAddr (r : Ring) (n : Nat) : Nat := r.base + r.slotIx n * r.slotSize
/-- The configuration checks that every operation on a ring makes (R148). -/
def Ring.valid (r : Ring) : Bool := r.count != 0 && decide (r.base + r.count * r.slotSize ≤ Config.scratchBytes)
def Ring.slotLabel (r : Ring) (n : Nat) : Label := ((r.slotLab.find? fun e => e.1 == r.slotIx n).map (·.2)).getD 0
def Ring.setSlotLabel (r : Ring) (n : Nat) (l : Label) : Ring :=
  { r with slotLab := (r.slotIx n, l) :: r.slotLab.filter fun e => e.1 != r.slotIx n }
/-- The labels of the writes into slot `n` since its claim (R149). -/
def Ring.wroteLab (r : Ring) (n : Nat) : Label := ((r.wrote.find? fun e => e.1 == r.slotIx n).map (·.2)).getD 0
/-- The label that a publish gives slot `n` (R149). -/
def Ring.publishLab (r : Ring) (n : Nat) (l : Label) : Label := Label.join l (r.wroteLab n)
/-- A write of data of a label to a line of the scratchpad joins the claimed slot that the line lies in; slots are whole lines (R147,
R149). -/
def Ring.noteWrite (r : Ring) (line : Nat) (l : Label) : Ring :=
  (List.range (r.claimed - r.filled).toNat).foldl (fun g i =>
    let n := g.filled.toNat + i
    let a := g.slotAddr n
    if a ≤ line * 64 && line * 64 < a + g.slotSize then
      { g with wrote := (g.slotIx n, Label.join l (g.wroteLab n)) :: g.wrote.filter fun e => e.1 != g.slotIx n }
    else g) r
def Ring.cfg (r : Ring) : RingCfg := ⟨r.base, r.logsz, r.count, r.peer⟩
/-- A ring with the fields that a word saw at its issue (R346). -/
def Ring.under (r : Ring) (c : RingCfg) : Ring := { r with base := c.base, logsz := c.logsz, count := c.count, peer := c.peer }
/-- The segments that a run of scratchpad bytes touches (R146). -/
def segsOf (a n : Nat) : List Nat := if n = 0 then [] else (List.range ((a + n - 1) / 4096 - a / 4096 + 1)).map (a / 4096 + ·)
def Core.segLabel (k : Core) (i : Nat) : Label := if h : i < 96 then k.segLab[i] else 0
/-- Data of a label may be written to every segment of a run of bytes (R201). -/
def Core.segsAllow (k : Core) (l : Label) (a n : Nat) : Bool := (segsOf a n).all fun i => Label.sub l (k.segLabel i)
/-- The labels of the segments that a run of bytes touches. -/
def Core.segsLabel (k : Core) (a n : Nat) : Label := Label.joins ((segsOf a n).map k.segLabel)

def Core.ring (k : Core) (r : Nat) : Ring := k.rings[Fin.ofNat 16 r]
def Core.setRing (k : Core) (r : Nat) (g : Ring) : Core := { k with rings := k.rings.set (Fin.ofNat 16 r) g }
/-- Slots claimed, published, released (R24). No write stands in a slot that is claimed anew (R149). -/
def Core.claim (k : Core) (r n : Nat) : Core :=
  let g := k.ring r
  let new := (List.range n).map fun i => g.slotIx (g.claimed.toNat + i)
  k.setRing r { g with claimed := g.claimed + BitVec.ofNat 32 n, wrote := g.wrote.filter fun e => !new.contains e.1 }
/-- The scratchpad takes a write of data of a label at a line (R149). -/
def Core.noteWrite (k : Core) (line : Nat) (l : Label) : Core :=
  if l = 0 then k else { k with rings := k.rings.map fun g => g.noteWrite line l }
def Core.publish (k : Core) (r n : Nat) : Core := k.setRing r { k.ring r with filled := (k.ring r).filled + BitVec.ofNat 32 n }
def Core.release (k : Core) (r n : Nat) : Core :=
  let g := k.ring r
  let g := { g with freed := g.freed + BitVec.ofNat 32 n }
  k.setRing r (if g.mode = 1 then { g with credits := g.credits ++ [n] } else g)
/-- A publish of `k` slots may take place: they are claimed (R24). -/
def Ring.mayPublish (r : Ring) (k : Nat) : Bool := decide (k ≤ (r.claimed - r.filled).toNat)
/-- The label of published slots: that of the publish with those of every write since the claim (R149). -/
def Core.labelSlots (k : Core) (r first n : Nat) (l : Label) : Core :=
  k.setRing r ((List.range n).foldl (fun g i => g.setSlotLabel (first + i) (g.publishLab (first + i) l)) (k.ring r))

/-- A word's condition holds (R19): it releases its ring slots, no longer holds its stream back, and retires in its turn. -/
def Core.complete (k : Core) (st : Stream) (id : Nat) : Core :=
  let t := k.strm st
  let k := ((t.infl.filter fun i => i.id == id && !i.done).flatMap (·.rels)).foldl (fun k r => k.release r.1 r.2) k
  let t := k.strm st
  (k.setStrm st { t with
    infl := t.infl.map fun i => if i.id = id then { i with done := true } else i
    blocked := if t.blocked = some id then none else t.blocked
    ahead := if t.blocked = some id then none else t.ahead }).retireAll st
/-- The clocks of a body count from the retirement of its LCWAIT (R226). -/
def State.startBody (s : State) : State :=
  match s.core.c.hold with
  | some h =>
    match h.wait with
    | some id =>
      if s.core.c.infl.any fun i => i.id == id then s
      else { s with core := { s.core with c := { s.core.c with hold := some { h with start := s.clk, wait := none } } } }
    | none => s
  | none => s
/-- The words of a stream that may retire do. -/
def State.retireAll (s : State) (st : Stream) : State := (s.modCore fun k => k.retireAll st).startBody
def State.complete (s : State) (st : Stream) (id : Nat) : State := (s.modCore fun k => k.complete st id).startBody

/-! ### Stops and the service path (R249 to R253) -/

def Stop.stopped : Stop → Bool
  | .running => false
  | _ => true
/-- STATUS.TSTOP (R249). -/
def Core.tstopBits (k : Core) : Nat :=
  (streams.map fun st => if (k.strm st).stop.stopped then 2 ^ st.num else 0).sum

/-- Closes an open HOLD region; PEAK takes the larger count (R315). -/
def State.closeHold (s : State) (st : Stream) : State :=
  match (s.strm st).hold with
  | none => s
  | some h =>
    let n := min Config.holdLimit (s.clk - h.start)
    let s := s.modStrm st fun t => { t with hold := none }
    s.modCore fun k => { k with csr := { k.csr with holdPeak := max k.csr.holdPeak n } }

/-- Abandons or empties a lace slot when the C-stream takes a trap or ends (R218, R227): a GRANTED or SUBMITTED transaction returns its
tiles in a store-queue step that waits as LCEND does, and takes none that is granted from now on. Log 37: DEDUCED. -/
def State.leaveLace (s : State) : State :=
  let l := s.core.lace
  match l.st with
  | .idle => s
  | .declaring => { s with core := { s.core with lace := Lace.reset } }
  | _ =>
    let k := s.core
    let e : SEnt := ⟨k.next, k.next, .laceReturn (l.tiles.map (·.pa)), l.lab, l.num, [], none⟩
    { s with
      batches := s.batches.map fun x => if x.num = some l.num then { x with gone := true } else x
      core := { k with lace := Lace.reset, next := k.next + 1, c := { k.c with sq := k.c.sq ++ [e] } } }

end Sys2Proof.Machine
end

