-- ==== Sys2Proof/Machine/Translate.lean ====
section
/-! DEFINITION. Address translation (R180 to R192): the walk, its faults, access rights, the A and D bits and the translation
caches. -/

namespace Sys2Proof.Machine
open Sys2Proof

/-- Why a translation does not end in an address: a cause code of R254, or an uncorrectable page-table entry (R188). -/
inductive TErr where
  | fault (cause : Nat) | poisoned (pa : Nat)
  deriving DecidableEq, Repr, Inhabited

/-- Cause codes of the translation faults at a level (R254). -/
def cNonCanonical : Nat := 0x40
def cNotPresent (l : Nat) : Nat := 0x48 + l
def cReservedBit (l : Nat) : Nat := 0x50 + l
def cHintMismatch (l : Nat) : Nat := 0x58 + l
def cBadFrame (l : Nat) : Nat := 0x60 + l
def cPermission (l : Nat) : Nat := 0x68 + l

/-- Bits [63:57] all equal bit 56 (R180). -/
def canonical (va : Nat) : Bool := va / 2 ^ 56 == 0 || va / 2 ^ 56 == 255

/-- The index into the table of a level (R180). -/
def vaIndex (va lvl : Nat) : Nat := va / 2 ^ (12 + 9 * lvl) % 512

def pteV (e : Nat) : Bool := e % 2 == 1
def pteLeaf (e : Nat) : Bool := e / 2 % 2 == 1
def pteRD (e : Nat) : Bool := e / 4 % 2 == 1
def pteW (e : Nat) : Bool := e / 8 % 2 == 1
def pteX (e : Nat) : Nat := e / 16 % 16
def pteCP (e : Nat) : Bool := e / 256 % 2 == 1
def pteA (e : Nat) : Bool := e / 512 % 2 == 1
def pteD (e : Nat) : Bool := e / 1024 % 2 == 1
def pteCH (e : Nat) : Bool := e / 2048 % 2 == 1
def ptePFN (e : Nat) : Nat := e / 4096 % 2 ^ 40

/-- An entry with V = 1 that breaks the reserved-bit rule of R182 at a level. -/
def reservedSet (e lvl : Nat) : Bool :=
  e / 2 ^ 52 != 0 || (!pteLeaf e && e / 4 % 2 ^ 10 != 0) || (pteLeaf e && decide (2 ≤ lvl)) || (!pteLeaf e && lvl == 0) ||
    (pteLeaf e && pteW e && !pteRD e) || (pteLeaf e && lvl == 1 && ptePFN e % 512 != 0)

/-- An entry is read whole at its home (R183). -/
def State.readPte (s : State) (pa : Nat) : Nat := leNat (memBytes s.mem pa 8)
/-- A page-table frame is device memory with the empty label (R183). -/
def State.tableFrame (s : State) (pa : Nat) : Bool := deviceOk pa && s.frameLab pa == 0

/-- The frames of one entry of a level (R182, R184). -/
def levelPages (lvl : Nat) : Nat := if lvl = 0 then 1 else 512

/-- The group check of R184: the entries, when all of them agree with the one the walk reached. -/
def State.checkGroup (s : State) (pa pte lvl : Nat) : Option (List Nat) :=
  let base := pa / 128 * 128
  let es := (List.range 16).map fun i => s.readPte (base + 8 * i)
  let sz := levelPages lvl
  let p0 := ptePFN (es.getD 0 0)
  let ok := (List.range 16).all fun i =>
    let e := es.getD i 0
    pteV e && pteLeaf e && pteCH e && pteRD e == pteRD pte && pteW e == pteW pte && pteX e == pteX pte && pteCP e == pteCP pte &&
      !reservedSet e lvl && ptePFN e == p0 + i * sz
  if ok && p0 % (16 * sz) == 0 then some es else none

/-- The leaf that an entry, or its group, translates as (R182, R184, R189); an uncorrectable line of the group is no leaf (R188). -/
def State.leafOf (s : State) (space va pa pte lvl : Nat) : Except TErr Leaf :=
  let vpn := va % 2 ^ 57 / 4096
  let n := levelPages lvl
  let mk := fun (n : Nat) (pfn addr : Nat) (es : List Nat) =>
    (⟨space, vpn / n * n, n, pfn, pteRD pte, pteW pte, pteX pte, pteCP pte, lvl, addr, es.map (BitVec.ofNat 64)⟩ : Leaf)
  if pteCH pte then
    match (if s.poison.contains (2 * (pa / 128)) then some (pa / 128 * 128)
        else if s.poison.contains (2 * (pa / 128) + 1) then some (pa / 128 * 128 + 64) else none) with
    | some bad => .error (.poisoned bad)
    | none =>
    match s.checkGroup pa pte lvl with
    | none => .error (.fault (cHintMismatch lvl))
    | some es => .ok (mk (16 * n) (ptePFN (es.getD 0 0)) (pa / 128 * 128) es)
  else .ok (mk n (ptePFN pte) pa [pte])

/-- A walk-cache entry covers an address: the pointer at level `lvl` of its path (R189). -/
def Walk.covers (w : Walk) (space va : Nat) : Bool := w.space == space && w.idx == va % 2 ^ 57 / 2 ^ (12 + 9 * w.lvl)

/-- Newest first, at most `n` (R189). -/
def pushCap {α : Type} (n : Nat) (a : α) (l : List α) : List α := (a :: l).take n

def walkCap (lvl : Nat) : Nat := if lvl = 4 then 16 else if lvl = 3 then 64 else 256

def Core.walkFill (k : Core) (w : Walk) : Core :=
  let same := k.walks.filter fun v => v.lvl == w.lvl && !(v.space == w.space && v.idx == w.idx)
  { k with walks := pushCap (walkCap w.lvl) w same ++ k.walks.filter fun v => v.lvl != w.lvl }

/-- The deepest walk-cache hit: the level to read and its table (R187, R190). -/
def Core.walkHit (k : Core) (space va root : Nat) : Nat × Nat :=
  match k.walks.find? fun w => w.lvl == 2 && w.covers space va with
  | some w => (1, w.table)
  | none =>
    match k.walks.find? fun w => w.lvl == 3 && w.covers space va with
    | some w => (2, w.table)
    | none =>
      match k.walks.find? fun w => w.lvl == 4 && w.covers space va with
      | some w => (3, w.table)
      | none => (4, root)

/-- The loop of R187, from a table at a level down to a leaf; `fuel` is the number of levels left. -/
def State.walk (s : State) (space va : Nat) : Nat → Nat → Nat → Except TErr (State × Leaf)
  | 0, lvl, _ => .error (.fault (cReservedBit lvl))
  | fuel + 1, lvl, table =>
    let pa := table + 8 * vaIndex va lvl
    if s.poison.contains (lineOf pa) then .error (.poisoned pa)
    else
      let e := s.readPte pa
      if !pteV e then .error (.fault (cNotPresent lvl))
      else if reservedSet e lvl then .error (.fault (cReservedBit lvl))
      else if !pteLeaf e then
        let t := ptePFN e * 4096
        if !s.tableFrame t then .error (.fault (cBadFrame lvl))
        else
          let s := if 2 ≤ lvl then s.modCore fun k => k.walkFill ⟨space, lvl, va % 2 ^ 57 / 2 ^ (12 + 9 * lvl), t⟩ else s
          State.walk s space va fuel (lvl - 1) t
      else
        match s.leafOf space va pa e lvl with
        | .error x => .error x
        | .ok l => .ok (s, l)

def Leaf.covers (l : Leaf) (space va : Nat) : Bool :=
  let v := va % 2 ^ 57 / 4096
  l.space == space && decide (l.vpn ≤ v) && decide (v < l.vpn + l.pages)

/-- The rights of R185. -/
def Leaf.permits (l : Leaf) : Acc → Bool
  | .fetch st => l.x / 2 ^ st.num % 2 == 1
  | .read => l.rd
  | .write => l.w
  | .rdwr => l.rd && l.w

/-- Every address of the mapped range is assigned (R183): its ends are, in one run of assigned addresses. -/
def Leaf.assigned (s : State) (l : Leaf) : Bool :=
  let a := l.pfn * 4096
  let z := a + l.pages * 4096 - 1
  Machine.assigned s a && Machine.assigned s z && (a / 2 ^ 38 == z / 2 ^ 38 || paClass a != 0)

/-- The member of a leaf that maps an address, and its entry's address (R186). -/
def Leaf.member (l : Leaf) (va : Nat) : Nat := (va % 2 ^ 57 / 4096 - l.vpn) * l.ents.length / l.pages

def needsD : Acc → Bool
  | .write => true | .rdwr => true | _ => false

/-- An entry is written at its home as a device-scope atomic is: the core's L1 copy takes the bytes, the die's remote-data copy goes
(R165, R169, R186). -/
def State.writePte (s : State) (pa v : Nat) : State :=
  let bs := natLe 8 v
  let d := coreDie s.core.id
  let put := fun (c : Copy) => ((List.range 8).zip bs).foldl (fun b x => b.set (pa % 64 + x.1) x.2) c.bytes
  let l1 := s.core.l1.map fun c => if c.line = lineOf pa then { c with bytes := put c } else c
  { s with
    mem := memPut s.mem pa bs
    core := { s.core with l1 := l1 }
    rdc := s.rdc.filter fun e => !(e.1 == d && e.2.line == lineOf pa && homeDie pa != d) }

/-- Sets A, and D for a W kind, by a compare-and-swap against the value that the walk read; none when the swap fails (R186). -/
def State.updateAD (s : State) (l : Leaf) (va : Nat) (k : Acc) : Option (State × Leaf) :=
  let i := l.member va
  let old := (l.ents.getD i 0).toNat
  let new := (if pteA old then old else old + 512) + (if needsD k && !pteD old then 1024 else 0)
  if new = old then some (s, l)
  else
    let pa := l.pte + 8 * i
    if s.readPte pa = old then
      some (s.writePte pa new, { l with ents := l.ents.set i (BitVec.ofNat 64 new) })
    else none

/-- A leaf enters the micro-TLB of the pipe, the L2 TLB and the die's cache (R189). -/
def State.leafFill (s : State) (p : Pipe) (l : Leaf) : State :=
  let same := fun (m : Leaf) => m.space == l.space && m.vpn == l.vpn && m.pages == l.pages
  let k := s.core
  let mine := k.utlb.filter fun e => e.1 == p && !same e.2
  let k := { k with
    utlb := pushCap 48 (p, l) mine ++ k.utlb.filter fun e => e.1 != p
    l2tlb := pushCap 2048 l (k.l2tlb.filter fun m => !same m) }
  let d := coreDie k.id
  let dm := s.dtlb.filter fun e => e.1 == d && !same e.2
  { s with core := k, dtlb := pushCap 16384 (d, l) dm ++ s.dtlb.filter fun e => e.1 != d }

/-- The cached leaf of an address, in the order micro-TLB, L2 TLB, die (R189). -/
def State.cachedLeaf (s : State) (p : Pipe) (space va : Nat) : Option Leaf :=
  match s.core.utlb.find? fun e => e.1 == p && e.2.covers space va with
  | some e => some e.2
  | none =>
    match s.core.l2tlb.find? fun l => l.covers space va with
    | some l => some l
    | none => (s.dtlb.find? fun e => e.1 == coreDie s.core.id && e.2.covers space va).map (·.2)

/-- A walk from the root or from the walk caches, with the checks that follow it (R187). -/
def State.finishLeaf (s : State) (p : Pipe) (va : Nat) (k : Acc) (l : Leaf) : Except TErr (Option (State × Nat × Bool)) :=
  if !l.permits k then .error (.fault (cPermission l.lvl))
  else if !l.assigned s then .error (.fault (cBadFrame l.lvl))
  else
    match s.updateAD l va k with
    | none => .ok none
    | some (s, l) => .ok (some (s.leafFill p l, (l.pfn + (va % 2 ^ 57 / 4096 - l.vpn)) * 4096 + va % 4096, l.polN))

/-- Translate (R187): the physical address and whether the page has policy N. A compare-and-swap that fails starts the walk again from the
root (R186). Log 11: DEDUCED. -/
def State.translateIn (s : State) (space root : Nat) (p : Pipe) (va : Nat) (k : Acc) : Except TErr (State × Nat × Bool) :=
  if !canonical va then .error (.fault cNonCanonical)
  else
    let from_ := fun (s : State) (h : Nat × Nat) =>
      match s.walk space va 5 h.1 h.2 with
      | .error x => .error x
      | .ok (s, l) =>
        match s.finishLeaf p va k l with
        | .error x => .error x
        | .ok (some r) => .ok r
        | .ok none => .error (.fault (cNotPresent l.lvl))
    match s.cachedLeaf p space va with
    | none => from_ s (s.core.walkHit space va root)
    | some l =>
      match s.finishLeaf p va k l with
      | .error x => .error x
      | .ok (some r) => .ok r
      | .ok none => from_ s (4, root)

/-- The address space of the core's task; a dispatch core translates in the space that Insole installs for it, whose translations this
model takes as the identity over the addresses R9 assigns (R181, R235; log entry 11). Log 11: DEDUCED. -/
def State.translate (s : State) (p : Pipe) (va : W64) (k : Acc) : Except TErr (State × Nat × Bool) :=
  match s.core.task with
  | some t => s.translateIn t.space t.root p va.toNat k
  | none =>
    if !canonical va.toNat then .error (.fault cNonCanonical)
    else if assigned s va.toNat then .ok (s, va.toNat, true) else .error (.fault (cBadFrame 0))

/-- A module that meets an uncorrectable page-table entry turns viral (R188, R259). -/
def State.ptePoison (s : State) (pa : Nat) : State :=
  s.errRec 0x0702 2 s.core.func 0 (BitVec.ofNat 64 pa) (BitVec.ofNat 64 ((s.core.task.map (·.space)).getD 0))

/-- Hardware's update of the A and D bits before an access (AD_UPDATE, R186). -/
def State.adUpdate (s : State) (p : Pipe) (va : W64) (k : Acc) : State :=
  match s.translate p va k with
  | .ok (s, _, _) => s
  | .error (.poisoned pa) => s.ptePoison pa
  | .error (.fault _) => s

/-- The runs of an access within pages: virtual address and length of each (R188). -/
def pageRuns (va n : Nat) : List (Nat × Nat) :=
  if n = 0 then []
  else
    let first := va / 4096
    (List.range ((va + n - 1) / 4096 - first + 1)).map fun i =>
      let lo := max va ((first + i) * 4096)
      (lo, min (va + n) ((first + i + 1) * 4096) - lo)

/-- Translates every page of an access in order; the first run that fails gives the fault and the address of its first byte (R188). -/
def State.translateRuns (s : State) (p : Pipe) (k : Acc) :
    List (Nat × Nat) → Except (TErr × W64) (State × List (Nat × Nat × Bool))
  | [] => .ok (s, [])
  | (va, n) :: r =>
    match s.translate p (BitVec.ofNat 64 va) k with
    | .error x => .error (x, BitVec.ofNat 64 va)
    | .ok (s, pa, pol) =>
      match State.translateRuns s p k r with
      | .error x => .error x
      | .ok (s, l) => .ok (s, (pa, n, pol) :: l)

/-- The bytes of translated runs with their policies. -/
def runLocs (l : List (Nat × Nat × Bool)) : List (Nat × Bool) :=
  l.flatMap fun r => (List.range r.2.1).map fun i => (r.1 + i, r.2.2)

/-- Drops every cached translation that a TLBICTL command names, in the focus core's caches (R191). -/
def Tlbi.hits (t : Tlbi) (l : Leaf) : Bool :=
  match t.mode with
  | 0 => true
  | 1 => l.space == t.space
  | _ => l.space == t.space && decide (l.vpn ≤ t.vpn) && decide (t.vpn < l.vpn + l.pages)
def Tlbi.hitsWalk (t : Tlbi) (w : Walk) : Bool := t.mode == 0 || w.space == t.space
def State.dropTlb (s : State) (t : Tlbi) : State :=
  let s := s.mapCores fun k => { k with
    utlb := k.utlb.filter fun e => !t.hits e.2
    l2tlb := k.l2tlb.filter fun l => !t.hits l
    walks := k.walks.filter fun w => !t.hitsWalk w }
  { s with dtlb := s.dtlb.filter fun e => !t.hits e.2 }

end Sys2Proof.Machine
end

