-- ==== Sys2Proof/Machine/Elem.lean ====
section
/-! DEFINITION. The array's format words and the operand elements of a tile (R71, R74, R77, R80, R81, R107, R108, R117, R118, R129, R192). -/

namespace Sys2Proof.Machine
open Sys2Proof

/-! ### Format words (R80, R81) -/

def fw (w : W64) (lo n : Nat) : Nat := w.toNat / 2 ^ lo % 2 ^ n
def fwA (w : W64) : Nat := fw w 8 4
def fwB (w : W64) : Nat := fw w 4 4
def fwAcc (w : W64) : Nat := fw w 14 2
def fwSparse (w : W64) : Nat := fw w 48 2
def fwStrict (w : W64) : Bool := fw w 63 1 == 1
def fwOty (w : W64) : VTy := (VTy.ofCode (fw w 53 3)).getD .f32
def fwOrnd (w : W64) : Rnd := (Rnd.ofCode (fw w 51 2)).getD .rne
def fwOsat (w : W64) : Bool := fw w 50 1 == 1
def fwAsrg (w : W64) : Nat := fw w 44 4
def fwBsrg (w : W64) : Nat := fw w 40 4
def fwBand (w : W64) : Bool := fw w 39 1 == 1
def fwBandPtr (w : W64) : Nat := fw w 16 16

/-- The class of a format code: 0 FP8, 1 16-bit, 2 integer, 3 FP4 (R81). -/
def mClass (c : Nat) : Nat := if c ≤ 1 then 0 else if c ≤ 3 then 1 else if c ≤ 5 then 2 else 3
/-- Bits of an element (R80). -/
def mBits (c : Nat) : Nat := if mClass c = 3 then 4 else if mClass c = 1 then 16 else 8
/-- Clocks that a step occupies the edges (R107). -/
def mClocks (c : Nat) : Nat := if mClass c = 1 then 2 else 1

/-- The checks of R81. -/
def fmtOk (w : W64) (sparse : Bool) : Bool :=
  fw w 56 7 == 0 && fw w 32 7 == 0 && fw w 12 2 == 0 && fw w 0 4 == 0 && decide (fwA w ≤ 6) && decide (fwB w ≤ 6) &&
    mClass (fwA w) == mClass (fwB w) && fwAcc w == (if mClass (fwA w) = 2 then 1 else 0) &&
    (mClass (fwA w) == 3 || fw w 39 9 == 0) && (!fwBand w || decide (fwBandPtr w ≤ 49151)) &&
    fwSparse w == (if sparse then 1 else 0)

/-- The value of an element's code; FP4 without its scales (R71, R77). -/
def mValue (c code : Nat) : FV :=
  match c with
  | 0 => fE4M3.value code
  | 1 => fE5M2.value code
  | 2 => fBF16.value code
  | 3 => fFP16.value code
  | 6 => e2m1 code
  | _ => .fin false 0 0
/-- The integer of an INT8 or NAT8 code (R74). -/
def mInt (c code : Nat) : Int := if c = 4 then VTy.intOf .i8 code else VTy.intOf .n8 code

/-- The steps of a tile (R108). -/
def mSteps (c kstep : Nat) (sparse : Bool) : Nat :=
  if mClass c = 3 then kstep / (if sparse then 8 else 4) else kstep

/-! ### Elements (R77, R117, R118, R129, R192) -/

/-- What an element of an operand is: not there yet, missing because of a fault, poisoned, or its code. -/
inductive OpVal where
  | wait | fault (cause : Nat) (va : W64) | bad (va : W64) | code (n : Nat)
  deriving DecidableEq, Repr, Inhabited

/-- The address of a byte of a stored row in virtual memory; 0 in a scratchpad or a ring slot (R254). -/
def OpRows.byteVa (o : OpRows) (row off : Nat) : W64 :=
  match o.src with
  | .virt .. => o.va.getD row 0 + BitVec.ofNat 64 off
  | _ => 0

/-- `n` bytes of a row as one value at address `va`. A byte whose fetch faulted fails the element, whether or not its other bytes are there
(R129, R192). -/
def opVal (va : W64) (bs : List OpByte) : OpVal :=
  match bs.findSome? fun b => match b with | .fault c => some c | _ => none with
  | some c => .fault c va
  | none =>
    if bs.contains .wait then .wait
    else if bs.contains .bad then .bad va
    else .code (leNat (bs.filterMap fun b => match b with | .val v => some v | _ => none))
def OpRows.bytesAt (o : OpRows) (row off n : Nat) : OpVal :=
  let r := o.rows.getD row []
  opVal (o.byteVa row off) ((List.range n).map fun i => r.getD (off + i) .wait)

/-- Element `i` of a stored row; two FP4 elements share a byte, the even one in its low half (R77, R117). Log 83: DEDUCED. -/
def OpRows.elem (o : OpRows) (bits row i : Nat) : OpVal :=
  if bits = 4 then
    match o.bytesAt row (i / 2) 1 with
    | .code v => .code (v / 16 ^ (i % 2) % 16)
    | x => x
  else o.bytesAt row (i * bits / 8) (bits / 8)
/-- Where it stands. -/
def OpRows.elemVa (o : OpRows) (bits row i : Nat) : W64 := o.byteVa row (i * bits / 8)

def Run.op (r : Run) (side : Nat) : OpRows := (r.ops.find? fun o => o.side == side).getD default
/-- An element: row `i`, stored index `t` along K. Log 83: DEDUCED. -/
def Run.aElem (r : Run) (i t : Nat) : OpVal :=
  let o := r.op 0
  if o.col then o.elem (mBits (fwA r.fmt)) t i else o.elem (mBits (fwA r.fmt)) i t
/-- B element (k, j). Log 83: DEDUCED. -/
def Run.bElem (r : Run) (k j : Nat) : OpVal :=
  let o := r.op 1
  if o.col then o.elem (mBits (fwB r.fmt)) j k else o.elem (mBits (fwB r.fmt)) k j

def OpVal.there : OpVal → Bool
  | .code _ => true | .bad _ => true | _ => false
/-- The fields of MROWPROG: the leading whole rows of A and of B that have been fetched, VALID for a stopped tile (R118). Log 82: DEDUCED. -/
def Run.rowProg (r : Run) (stopped : Bool) : W64 :=
  let ka := if r.t.sparse.isSome then r.t.kstep / 2 else r.t.kstep
  let a := ((List.range r.t.m).takeWhile fun i => (List.range ka).all fun k => (r.aElem i k).there).length
  let b := ((List.range r.t.kstep).takeWhile fun k => (List.range r.t.n).all fun j => (r.bElem k j).there).length
  BitVec.ofNat 64 ((if stopped then 2 ^ 56 else 0) + b * 2 ^ 40 + a * 2 ^ 32)
/-- MROWPROG follows the fetch of the tile in flight, with the M-stream's CLABEL (R118, R307). -/
def Core.setRowProg (k : Core) (r : Run) (stopped : Bool) : Core :=
  { k with csr := { k.csr with mrowprog := r.rowProg stopped }.joinLab .mrowprog k.m.clab }

end Sys2Proof.Machine
end

