-- ==== Sys2Proof/Machine/Order.lean ====
section
/-! DEFINITION. The ordering machine (R163 to R178, R390): homes and copies, what holds an entry back, and the steps in which loads,
stores, atomics and markers perform; the landing of vector operations (R97). -/

namespace Sys2Proof.Machine
open Sys2Proof

/-! ### Homes (R144, R153, R163, R235, R266, R267) -/

/-- The host address that a host-class address reaches (R267). Log 66: DEDUCED. -/
def State.hostAddr (s : State) (pa : Nat) : Nat := (s.hwinOf (winOf pa)).basehi * 2 ^ 32 + pa % 2 ^ 32
/-- A register of the scheduler window of die `d` (R235). SLOTCMDST reads BUSY and the last result. Log 32: DEDUCED. -/
def State.hubReg (s : State) (d off : Nat) : Nat :=
  let part := fun (b : Nat) => s.parts[Fin.ofNat 16 ((off - b) / 8)]
  if off = 0x0008 then s.slotSt[Fin.ofNat 8 d] + if s.slotNow.any fun x => x.1 == d then 2 ^ 63 else 0
  else if 0x0100 ≤ off && off < 0x0180 then
    match s.slots.find? fun q => q.die == d && q.slot == (off - 0x0100) / 8 with
    | none => 0
    | some q =>
      match s.qcbs.find? fun c => c.qnum == q.q with
      | none => 0
      | some c => 2 ^ 63 + c.qnum * 2 ^ 32 + c.kcount * 2 ^ 16 + c.prio
  else if 0x0200 ≤ off && off < 0x0400 then
    ((s.pendmap.filter fun q => q / 64 == (off - 0x0200) / 8).map fun q => 2 ^ (q % 64)).sum
  else if 0x0400 ≤ off && off < 0x0480 then (part 0x0400).budget.toNat
  else if 0x0500 ≤ off && off < 0x0580 then (part 0x0500).pclust.toNat
  else if 0x0580 ≤ off && off < 0x0600 then (part 0x0580).pring.toNat
  else if 0x0600 ≤ off && off < 0x0680 then (part 0x0600).pmode.toNat
  else 0

/-- A byte at its home. Log 8: DESIGN CHOICE. -/
def State.homeByte (s : State) : Loc → Byte
  | .scr c a => memGet (s.coreOf c).scratch a
  | .mem pa =>
    match paClass pa with
    | 0 => memGet s.mem pa
    | 1 => memGet s.host (s.hostAddr pa)
    | 2 => if s.ownPeer pa then memGet s.mem (peerPa pa) else peerGet s.peers pa
    | _ => BitVec.ofNat 8 (s.hubReg (pa % 2 ^ 50 / 65536) (pa % 65536 / 8 * 8) / 2 ^ (8 * (pa % 8)))

/-- The word at a physical address, as a fetch reads it at its home (R35, R266). -/
def State.codeAt (s : State) (pa : Nat) : Nat := leNat ((List.range 4).map fun i => s.homeByte (.mem (pa + i)))

/-- A byte written at its home. -/
def State.setHome (s : State) (l : Loc) (b : Byte) : State :=
  match l with
  | .scr c a => s.mapCore c fun k => { k with scratch := memSet k.scratch a b }
  | .mem pa =>
    match paClass pa with
    | 0 => { s with mem := memSet s.mem pa b }
    | 1 => { s with host := memSet s.host (s.hostAddr pa) b }
    | 2 => if s.ownPeer pa then { s with mem := memSet s.mem (peerPa pa) b } else { s with peers := memSet s.peers pa b }
    | _ => s

/-! ### Copies (R151, R155, R168) -/

def Copy.byteAt (c : Copy) (pa : Nat) : Byte := c.bytes.getD (pa % 64) 0
def Copy.put (c : Copy) (pa : Nat) (b : Byte) : Copy := { c with bytes := c.bytes.set (pa % 64) b }

/-- The copy that a policy-C load of the focus core reads first: its L1's, then its die's remote-data cache's (R166). -/
def State.copyOf (s : State) (pa : Nat) : Option Copy :=
  match s.core.l1.find? fun c => c.line == lineOf pa with
  | some c => some c
  | none =>
    if homeDie pa = coreDie s.core.id then none
    else (s.rdc.find? fun e => e.1 == coreDie s.core.id && e.2.line == lineOf pa).map (·.2)

/-- A line as it stands at its home. -/
def State.homeLine (s : State) (line : Nat) : Copy := ⟨line, memBytes s.mem (line * 64) 64, s.poison.contains line⟩

/-- A store of any stream stands half done across a line: its home does not show one whole store (R162, R167). -/
def State.lineTorn (s : State) (line : Nat) : Bool :=
  s.cores.any fun k => streams.any fun u => (k.strm u).sq.any fun e =>
    match e.kind with
    | .store b _ _ _ wrote =>
      let here := fun (l : Loc) => match l with | .mem pa => lineOf pa == line | _ => false
      wrote.any here && b.any fun x => here x.1 && !wrote.contains x.1
    | _ => false

/-- Lines that an L1 and that a die's remote-data cache hold (R8). -/
def l1Lines : Nat := 65536 / 64
def rdcLines : Nat := 2 ^ 24 / 64

/-- Installs a line in the L1, and in the remote-data cache if it is homed on another die (R166); the oldest copy of a full cache is
discarded (R8, R168). A line across which a store stands half done is not installed, so no load from a copy tears (R162). -/
def State.installLine (s : State) (line : Nat) : State :=
  if s.lineTorn line then s
  else
    let c := s.homeLine line
    let s := { s with core := { s.core with l1 := pushCap l1Lines c (s.core.l1.filter fun k => k.line != line) } }
    let d := coreDie s.core.id
    if homeDie (line * 64) = d then s
    else
      let mine := s.rdc.filter fun e => e.1 == d && e.2.line != line
      { s with rdc := pushCap rdcLines (d, c) mine ++ s.rdc.filter fun e => e.1 != d }

/-- An acquire of die scope or wider removes every L1 copy of the core and every copy of its die's remote-data cache (R152, R155, R171). Log 49: DEDUCED. -/
def State.acquire (s : State) (sc : Scope) : State :=
  match sc with
  | .co => s
  | _ => { s with core := { s.core with l1 := [] }, rdc := s.rdc.filter fun e => e.1 != coreDie s.core.id }

/-- A store or atomic that issues removes the die's copies of lines homed on other dies (R155, R165). -/
def State.dropRdc (s : State) (lines : List Nat) : State :=
  let d := coreDie s.core.id
  { s with rdc := s.rdc.filter fun e => !(e.1 == d && lines.contains e.2.line && homeDie (e.2.line * 64) != d) }

/-- A byte written at its home and in the issuing core's L1 copy, if it has one (R167). -/
def State.storeByte (s : State) (l : Loc) (b : Byte) : State :=
  let s := s.setHome l b
  match l with
  | .scr .. => s
  | .mem pa => { s with core := { s.core with l1 := s.core.l1.map fun c => if c.line = lineOf pa then c.put pa b else c } }
def State.storeBytes (s : State) : List (Loc × Byte) → State
  | [] => s
  | (l, b) :: r => State.storeBytes (s.storeByte l b) r

/-- The 64-byte units of device memory that a set of locations covers whole. -/
def wholeUnits (ls : List Loc) : List Nat :=
  let pas := ls.filterMap fun l => match l with | .mem pa => if paClass pa = 0 then some pa else none | _ => none
  ((pas.map lineOf).dedup).filter fun u => (List.range 64).all fun i => pas.contains (u * 64 + i)

/-- The scratchpad lines that a set of locations covers whole. -/
def wholeLines (ls : List Loc) : List (Nat × Nat) :=
  let as_ := ls.filterMap fun l => match l with | .scr c a => some (c, a) | _ => none
  ((as_.map fun x => (x.1, x.2 / 64)).dedup).filter fun u => (List.range 64).all fun i => as_.contains (u.1, u.2 * 64 + i)
/-- A write of a whole scratchpad line makes it good again. Log 16: DEDUCED. -/
def State.mendLines (s : State) (us : List (Nat × Nat)) : State :=
  us.foldl (fun s u => s.mapCore u.1 fun k => { k with scrBad := k.scrBad.filter (· != u.2) }) s
/-- A store that writes all 64 bytes of a poisoned unit clears the poison (R157). -/
def State.clearPoison (s : State) (us : List Nat) : State :=
  { s with
    poison := s.poison.filter fun u => !us.contains u
    core := { s.core with l1 := s.core.l1.map fun c => if us.contains c.line then { c with poison := false } else c } }

/-! ### What holds an entry back (R166, R167, R171, R172, R390) -/

def LKind.isFence : LKind → Bool
  | .fence .. => true | _ => false
def SKind.isFence : SKind → Bool
  | .fence .. => true | _ => false

/-- The head of a load queue, which no fence marker holds (R390). -/
def Strm.lqHead (t : Strm) : Option LEnt := t.lq.find? fun e => !e.kind.isFence
def Strm.sqHead (t : Strm) : Option SEnt := t.sq.find? fun e => !e.kind.isFence

/-- An older entry of the load queue holds back every younger entry: an acquiring load or atomic, an acquire fence, QALIGN. -/
def LEnt.holdsAll (e : LEnt) : Bool :=
  e.acq.isSome || match e.kind with
    | .fence .aq _ => true | .fence .fl _ => true | .qalign => true | _ => false
/-- A release fence holds back every younger entry of the store queue. -/
def SEnt.holdsStores (e : SEnt) : Bool :=
  match e.kind with
  | .fence .rl _ => true | .fence .fl _ => true | .qalign => true | _ => false

def Strm.loadHeld (t : Strm) (seq : Nat) : Bool := t.lq.any fun e => decide (e.seq < seq) && e.holdsAll
def Strm.storeHeld (t : Strm) (seq : Nat) : Bool :=
  t.loadHeld seq || t.sq.any fun e => decide (e.seq < seq) && e.holdsStores

/-- Every older entry, of the load queue or of both queues, has performed; markers hold nothing by standing (R390). -/
def Strm.olderLoads (t : Strm) (seq : Nat) : Bool := t.lq.all fun e => decide (seq ≤ e.seq) || e.kind.isFence
def Strm.olderBoth (t : Strm) (seq : Nat) : Bool :=
  t.olderLoads seq && t.sq.all fun e => decide (seq ≤ e.seq) || e.kind.isFence

/-- A release at a scope may perform: every older entry has, and for system scope the posted set is empty (R171). -/
def Strm.mayRelease (t : Strm) (seq : Nat) (sc : Scope) : Bool :=
  t.olderBoth seq && (sc != .sy || t.posted.isEmpty)

/-- The bytes that a store-queue entry writes. -/
def SKind.bytes : SKind → List (Loc × Byte)
  | .store b .. => b | _ => []
def SKind.ready : SKind → Bool
  | .store _ r .. => r | _ => true

/-- What a step of a store writes whole: the naturally aligned 4-byte granule of a location in memory (R167), the line of a location in a
scratchpad bank (R145). -/
def Loc.granule : Loc → Loc
  | .mem pa => .mem (pa / 4) | .scr c a => .scr c (a / 64)

/-- A store of another stream stands half done across the bytes of a load (R167). -/
def SEnt.tears (e : SEnt) (need : List Loc) : Bool :=
  match e.kind with
  | .store b _ _ _ wrote =>
    !wrote.isEmpty && need.any (fun l => wrote.contains l) &&
      need.any fun l => !wrote.contains l && b.any fun x => x.1 == l
  | _ => false
def State.torn (s : State) (st : Stream) (need : List Loc) : Bool :=
  s.cores.any fun k => streams.any fun u =>
    !(k.id == s.core.id && u == st) && (k.strm u).sq.any fun e => e.tears need

/-- Forwarding: the youngest older store of the stream that writes the byte (R166). -/
def Strm.forward (t : Strm) (seq : Nat) (l : Loc) : Option SEnt :=
  (t.sq.reverse).find? fun e => decide (e.seq < seq) && e.kind.bytes.any fun b => b.1 == l
def SEnt.byteAt (e : SEnt) (l : Loc) : Byte := ((e.kind.bytes.reverse.find? fun b => b.1 == l).map (·.2)).getD 0

/-- A byte of a load of the focus core's stream: forwarding, then under policy C the copies, then the home (R166). An acquiring load
finds no copy, because its step has removed them. Log 18: DEDUCED. -/
def State.loadByte (s : State) (st : Stream) (seq : Nat) (l : Loc) (polN : Bool) : Byte :=
  match (s.strm st).forward seq l with
  | some e => e.byteAt l
  | none =>
    match l with
    | .scr .. => s.homeByte l
    | .mem pa =>
      if polN || paClass pa != 0 then s.homeByte l
      else match s.copyOf pa with
        | some c => c.byteAt pa
        | none => s.homeByte l

/-- A load may read these bytes now: no unready store of the stream forwards one, no entry of the posted set writes one (R170), no
other store stands half done across them (R167), no frame is still to be zeroed (R206). -/
def State.mayRead (s : State) (st : Stream) (seq : Nat) (ls : List Loc) : Bool :=
  let t := s.strm st
  ls.all (fun l => match t.forward seq l with | some e => e.kind.ready | none => true) &&
    ls.all (fun l => match l with
      | .mem pa => !s.awaitsZero pa && !(t.posted.any fun p => decide (p.seq < seq) && p.bytes.any fun b => b.1 == pa)
      | _ => true) &&
    !s.torn st ls

/-! ### A load's completion -/

def leBytes (b : List Byte) : Nat := leNat b

/-- A command of the array has still work to do (R19). -/
def Core.cmdOpen (k : Core) (id : Nat) : Bool :=
  (k.fifo.any fun c => c.id == id) || (k.mgo.any fun c => c.id == id) || (k.run.any fun r => r.cmd.id == id) ||
    (k.drains.any fun d => d.id == id) || k.plane0.fin == some id || k.plane1.fin == some id || k.ragged.any fun w => w.id == id

/-- An entry, landing, command or drain of a word is left, or of the M-stream a row or image on its way to a far home: its condition does
not hold yet (R19, R143, R170, R329). -/
def State.wordOpen (s : State) (st : Stream) (id : Nat) : Bool :=
  let t := s.strm st
  (t.lq.any fun e => e.id == id) || (t.sq.any fun e => e.id == id) ||
    (st == .v && s.core.landings.any fun l => l.id == id) ||
    (st == .m && (s.core.cmdOpen id || t.posted.any fun p => p.id == id)) ||
    s.core.rings.toList.any fun g => g.publishes.any fun p => p.1 == id
/-- NSTCUR.ACTIVE falls when its MGO retires; NSTCUR takes the M-stream's CLABEL (R307, R330). -/
def Core.closeMgo (k : Core) (id : Nat) : Core :=
  if k.owner = some id then
    { k with owner := none, csr := { k.csr with nstcur := k.csr.nstcur &&& ~~~(1#64 <<< 63) }.joinLab .nstcur k.m.clab }
  else k
def State.settleWord (s : State) (st : Stream) (id : Nat) : State :=
  if s.wordOpen st id then s
  else
    let s := s.complete st id
    if st = .m then s.modCore fun k => k.closeMgo id else s

/-- The physical core on which a logical core of the focus core's launch runs (R31, R159). -/
def State.launchCore (s : State) (lc : Nat) : Option Nat :=
  match s.core.task with
  | none => none
  | some t => (s.cores.find? fun k => k.task.any fun u => u.launch == t.launch && u.kern == t.kern && u.lcore == lc).map (·.id)

/-- Where slot `n` of a ring of the focus core lies: its own scratchpad, or its peer's for an export ring (R150). -/
def State.ringCore (s : State) (g : Ring) : Nat := if g.mode = 2 then (s.launchCore g.peerCore).getD s.core.id else s.core.id
def State.slotLocs (s : State) (g : Ring) (n len : Nat) : List Loc :=
  (List.range len).map fun i => .scr (s.ringCore g) (g.slotAddr n + i)

/-- Claims slots; a claim on an export ring stands at the importer too, which keeps the counts (R24, R150). -/
def State.claimSlots (s : State) (r n : Nat) : State :=
  let g := s.core.ring r
  let s := s.modCore fun k => k.claim r n
  if g.mode = 2 then
    match s.launchCore g.peerCore with
    | some p => s.mapCore p fun k => k.claim g.peerRing n
    | none => s
  else s
/-- The label check of a publish of slots of a ring against their segments, with the writes since the claim (R149). -/
def State.slotsAllow (s : State) (g : Ring) (first n : Nat) (lab : Label) : Bool :=
  let k := s.coreOf (s.ringCore g)
  (List.range n).all fun i => k.segsAllow (g.publishLab (first + i) lab) (g.slotAddr (first + i)) g.slotSize

/-- Publishes slots of a local ring with their label (R149), or sends the publish of an export ring behind its writes (R176). -/
def State.publishSlots (s : State) (r first n : Nat) (lab : Label) (id : Nat) : State :=
  let g := s.core.ring r
  if g.mode = 2 then s.modCore fun k => k.setRing r { g with publishes := g.publishes ++ [(id, n, lab)] }
  else s.modCore fun k => (k.labelSlots r first n lab).publish r n

/-- The bytes of an ACOPY's stores, from position `off` of the copy on; `pos` is the position of the list's first byte (R281). -/
def fillCopy (id off : Nat) (bs : List Byte) : Nat → List SEnt → List SEnt
  | _, [] => []
  | pos, e :: r =>
    match e.kind with
    | .store b rdy w rel wr =>
      if e.id = id then
        let b' := ((List.range b.length).zip b).map fun x =>
          if off ≤ pos + x.1 && pos + x.1 < off + bs.length then (x.2.1, bs.getD (pos + x.1 - off) 0) else x.2
        { e with kind := .store b' rdy w rel wr } :: fillCopy id off bs (pos + b.length) r
      else e :: fillCopy id off bs pos r
    | _ => e :: fillCopy id off bs pos r
/-- The stores of an ACOPY stand behind all of its loads (R281). -/
def readyCopy (id : Nat) (l : List SEnt) : List SEnt :=
  l.map fun e => match e.kind with
    | .store b _ w rel wr => if e.id = id then { e with kind := .store b true w rel wr } else e
    | _ => e

/-- Slots of a ring that a performed load fills: claimed, written and published; an export ring's writes go through the store queue, and
its publish follows them (R150, R176). None while the ring has no room, or where the publish fails its label check (R149). -/
def State.fillSlots (s : State) (st : Stream) (id r : Nat) (cfg : RingCfg) (rows : List (List Byte)) (lab : Label) : Option State :=
  let g := (s.core.ring r).under cfg
  let n := rows.length
  let first := g.claimed.toNat
  if g.valid && decide (g.used + n ≤ g.count) && s.slotsAllow { g with wrote := [] } first n lab then
    let s := s.claimSlots r n
    let ws := ((List.range n).zip rows).flatMap fun x => (s.slotLocs g (first + x.1) x.2.length).zip x.2
    if g.mode = 2 then
      let q := s.core.next
      let s := s.modCore fun k => { k with next := q + 1 }
      some (s.modStrm st fun t => { t with sq := t.sq ++ [⟨id, q, .store ws true false none [], lab, 0, [], some (r, first, n)⟩] })
    else some (((s.storeBytes ws).publishSlots r first n lab id).settleWord st id)
  else none

/-- A byte that a load of the stream would read is poisoned, at its home or in the copy it would read (R157), or stands in a scratchpad line
that its bank reports as uncorrectable (R256, R356). Log 16: DEDUCED. -/
def State.byteBad (s : State) (st : Stream) (seq : Nat) (acq : Bool) (l : Loc) (polN : Bool) : Bool :=
  match l with
  | .scr c a => !((s.strm st).forward seq l).isSome && (s.coreOf c).scrBad.contains (a / 64)
  | .mem pa =>
    if paClass pa != 0 || ((s.strm st).forward seq l).isSome then false
    else match (if polN || acq then none else s.copyOf pa) with
      | some c => c.poison
      | none => s.poison.contains (lineOf pa)

/-- Bytes of an operand row arrive. -/
def putBytes (row : List OpByte) (off : Nat) (bs : List OpByte) : List OpByte := row.take off ++ bs ++ row.drop (off + bs.length)
def Run.arrive (r : Run) (side row off : Nat) (bs : List OpByte) : Run :=
  { r with ops := r.ops.map fun o => if o.side = side then { o with rows := o.rows.modify row fun l => putBytes l off bs } else o }
/-- They arrive in the tile in flight, and MROWPROG follows (R118). -/
def Core.arrive (k : Core) (side row off : Nat) (bs : List OpByte) : Core :=
  match k.run with
  | some r =>
    let r := r.arrive side row off bs
    { k with run := some r }.setRowProg r false
  | none => k
/-- The operand bytes of a performed load, those of a poisoned unit marked (R157). -/
def State.operandBytes (s : State) (st : Stream) (e : LEnt) (bs : List Byte) : List OpByte :=
  match e.kind with
  | .load need .. => (need.zip bs).map fun x => if s.byteBad st e.seq false x.1.2.1 x.1.2.2 then .bad else .val x.2
  | _ => bs.map .val

/-- A tile is held by a transaction (R225). -/
def State.holds (s : State) (pa : Nat) (num : W64) : Bool := s.lqueues.any fun q => q.pa == pa && q.holder == some num

/-- LCWAIT performs at the head of its load queue when every declared tile is granted (R166, R178): a device-scope acquire that reads the
tags and makes the slot GRANTED (R220). The region's clocks count from its retirement (R226). -/
def State.lcwaitStep (s : State) (e : LEnt) : State :=
  let l := s.core.lace
  if s.core.c.loadHeld e.seq || !(l.tiles.all fun t => s.holds t.pa l.num) then s
  else
    let s := s.acquire .dv
    let s := s.modCore fun k => { k with
      lace := { l with st := .granted, tiles := l.tiles.map fun t => { t with tag := s.frameLab t.pa } } }
    (s.modStrm .c fun t => { t with lq := t.lq.filter fun x => !(x.id == e.id && x.seq == e.seq) }).settleWord .c e.id

/-- A load has read all its bytes: its effect, or none while it waits for a ring slot (R287). -/
def State.finishLoad (s : State) (st : Stream) (e : LEnt) (bs : List Byte) (dst : LDst) : Option State :=
  let drop := fun (s : State) => s.modStrm st fun t => { t with lq := t.lq.filter fun x => !(x.id == e.id && x.seq == e.seq) }
  match dst with
  | .x d lab =>
    let s := drop s
    let s := s.modCore fun k => { k.writeX d ⟨BitVec.ofNat 64 (leBytes bs), lab⟩ with xPend := k.xPend.erase d }
    some (s.settleWord st e.id)
  | .copy off =>
    let s := (drop s).modStrm st fun t => { t with sq := fillCopy e.id off bs 0 t.sq }
    some (if (s.strm st).lq.any fun x => x.id == e.id then s else s.modStrm st fun t => { t with sq := readyCopy e.id t.sq })
  | .landing =>
    let s := drop s
    some (s.modCore fun k => { k with landings := k.landings.map fun l => if l.id = e.id then { l with bytes := some bs } else l })
  | .slot r cfg lab _ => (drop s).fillSlots st e.id r cfg [bs] lab
  | .operand side row off => some ((drop s).modCore fun k => k.arrive side row off (s.operandBytes st e bs))
  | .rows r cfg n row lab _ =>
    (drop s).fillSlots st e.id r cfg ((List.range n).map fun i => (bs.drop (i * row)).take row) lab

/-! ### Steps of the queues -/

/-- The page or declared tile of a byte of a load, from its key (R166, R226). -/
def pageKey (k : Nat) : Nat := k / 2 ^ 20
/-- The pages or parts of a load that it has still to read (R166, R226). -/
def loadGroups (need : List (Nat × Loc × Bool)) (got : List (Option Byte)) : List Nat :=
  (((need.zip got).filter fun x => x.2.isNone).map fun x => pageKey x.1.1).dedup
/-- The poisoned unit that a step of a zero-substituting gather reads: its row key and its unit (R158, R264). -/
def unitKey (x : Nat × Loc × Bool) : Nat × Nat := (x.1, match x.2.1 with | .mem pa => lineOf pa | _ => 0)

/-- The locations of an atomic. -/
def AtReq.locs : AtReq → List Loc
  | .amo (.mem pa) sz .. => (List.range sz).map fun i => .mem (pa + i)
  | .amo l .. => [l]
  | .vamo .. => []
/-- An access in flight needs bytes of a 64-byte unit of device memory: no step poisons a unit then, so the check at a word's issue stands
(R157). Log 16: DEDUCED. -/
def State.unitInUse (s : State) (u : Nat) : Bool :=
  let hit := fun (l : Loc) => match l with | .mem pa => paClass pa == 0 && lineOf pa == u | .scr .. => false
  s.cores.any fun k => streams.any fun st =>
    ((k.strm st).lq.any fun e => match e.kind with | .load need .. => need.any fun x => hit x.2.1 | _ => false) ||
      (k.strm st).sq.any fun e => match e.kind with | .atomic r => r.locs.any hit | _ => false
/-- A unit becomes poisoned at its home; the poison stands in every copy that is read from it, and none from before is left (R157, R168). -/
def State.poisonUnit (s : State) (u : Nat) : State :=
  let s := s.mapCores fun k => { k with l1 := k.l1.filter fun c => c.line != u }
  { s with poison := u :: s.poison.filter (· != u), rdc := s.rdc.filter fun e => e.2.line != u }

/-- Units delivered as zeros raise ZSCOUNT of the task's function, which saturates (R158). -/
def State.countZs (s : State) (n : Nat) : State :=
  let f := s.core.func
  let c := ((s.zscount.find? fun z => z.1 == f).map (·.2)).getD 0
  if n = 0 then s else { s with zscount := (f, min 0xFFFFFFFF (c + n)) :: s.zscount.filter fun z => z.1 != f }

/-- LOAD_PERFORM (R166): the head load of a stream reads the bytes of one of its pages, or all of them when they lie in one page; a
policy-C load that reads a byte at the home may install the line. An acquire removes copies first (R171). A gather that substitutes zeros
reads each poisoned unit of the page in a step of its own (R158, R264, R285). -/
def State.loadStep (s : State) (st : Stream) (page : Nat) (install : Bool) : State :=
  match (s.strm st).lqHead with
  | none => s
  | some e =>
    match e.kind with
    | .load need got dst =>
      let gs := loadGroups need got
      if (s.strm st).loadHeld e.seq then s
      else if gs = [] then (s.finishLoad st e (got.map fun b => b.getD 0) dst).getD s
      else
        let g := gs.getD (page % gs.length) 0
        let open_ := ((need.zip got).filter fun x => x.2.isNone && pageKey x.1.1 == g).map (·.1)
        let zs := match dst with | .rows _ _ _ _ _ z => z | _ => false
        let one := if zs then (open_.find? fun x => s.byteBad st e.seq false x.2.1 x.2.2).map unitKey else none
        let here := match one with | some u => open_.filter fun x => unitKey x == u | none => open_
        if !s.mayRead st e.seq (here.map fun x => x.2.1) then s
        else
          let s1 := match e.acq with | some sc => s.acquire sc | none => s
          let mine := fun (x : Nat × Loc × Bool) => match one with | some u => unitKey x == u | none => pageKey x.1 == g
          let got := (need.zip got).map fun x =>
            if x.2.isNone && mine x.1 then some (if one.isSome then 0 else s1.loadByte st e.seq x.1.2.1 x.1.2.2) else x.2
          let lines := if install && one.isNone then
              (here.filterMap fun x => match x.2.1 with
                | .mem pa => if !x.2.2 && paClass pa == 0 && ((s1.strm st).forward e.seq x.2.1).isNone && (s1.copyOf pa).isNone
                    then some (lineOf pa) else none
                | _ => none).dedup
            else []
          let s2 := lines.foldl State.installLine s1
          let e' := { e with kind := .load need got dst }
          let s3 := (s2.countZs (if one.isSome then 1 else 0)).modStrm st fun t => { t with lq := t.lq.map fun x => if x.id = e.id && x.seq = e.seq then e' else x }
          if got.all Option.isSome then (s3.finishLoad st e' (got.map fun b => b.getD 0) dst).getD s3 else s3
    | .lcwait => if st = .c then s.lcwaitStep e else s
    | _ => s

/-- An entry leaves the store queue: an export ring's publish follows it, and its word may retire (R19, R176). -/
def State.leaveSq (s : State) (st : Stream) (e : SEnt) : State :=
  let s := s.modStrm st fun t => { t with sq := t.sq.filter fun x => !(x.id == e.id && x.seq == e.seq) }
  let s := match e.pub with
    | some (r, first, n) => s.publishSlots r first n e.lab e.id
    | none => s
  s.settleWord st e.id

/-- The bytes of a store that lie above device memory (R170). -/
def farBytes (b : List (Loc × Byte)) : List (Nat × Byte) :=
  b.filterMap fun x => match x.1 with | .mem pa => if paClass pa = 0 then none else some (pa, x.2) | _ => none

/-- A store's bytes are free of older loads of its stream (R167). -/
def Strm.clearOf (t : Strm) (seq : Nat) (b : List (Loc × Byte)) : Bool :=
  t.lq.all fun e => decide (seq ≤ e.seq) ||
    match e.kind with
    | .load need .. => !(need.any fun x => b.any fun y => y.1 == x.2.1)
    | _ => true

/-- Writes of data of a label stand in the ring slots of the scratchpads that they reach (R149). -/
def State.noteWrites (s : State) (ls : List Loc) (lab : Label) : State :=
  if lab = 0 then s
  else ((ls.filterMap fun l => match l with | .scr c a => some (c, a / 64) | _ => none).dedup).foldl (fun s x =>
    s.mapCore x.1 fun k => k.noteWrite x.2 lab) s

/-- An entry goes on at the head of its queue with the locations written so far, or leaves it when every byte is written (R167, R170). -/
def State.wroteSome (s : State) (st : Stream) (e : SEnt) (now : List Loc) : State :=
  let s := s.noteWrites now e.lab
  match e.kind with
  | .store b ready whole rel wrote =>
    let wrote := wrote ++ now
    if b.all fun x => wrote.contains x.1 then
      let s := if s.cores.all (·.scrBad.isEmpty) then s else s.mendLines (wholeLines (b.map (·.1)))
      (s.clearPoison (wholeUnits (b.map (·.1)))).leaveSq st e
    else
      let e' := { e with kind := .store b ready whole rel wrote }
      s.modStrm st fun t => { t with sq := t.sq.map fun x => if x.id = e.id && x.seq = e.seq then e' else x }
  | _ => s

/-- Whether a byte lies above device memory (R170). -/
def Loc.far : Loc → Bool
  | .mem pa => paClass pa != 0 | .scr .. => false

/-- The store at the head may perform (R167, R171). -/
def Strm.storeFree (t : Strm) (e : SEnt) : Bool :=
  match e.kind with
  | .store b ready _ rel _ =>
    ready && !t.storeHeld e.seq && t.clearOf e.seq b && match rel with | some sc => t.mayRelease e.seq sc | none => true
  | _ => false

/-- STORE_PERFORM (R167): the head of a store queue writes granules at their homes, all that are left when none is named; a store narrower
than 4 bytes performs in one step. -/
def State.storeStep (s : State) (st : Stream) (grans : List Nat) : State :=
  let t := s.strm st
  match t.sqHead with
  | none => s
  | some e =>
    match e.kind with
    | .store b _ whole _ wrote =>
      let rest := b.filter fun x => !x.1.far && !wrote.contains x.1
      let gs := (rest.map fun x => x.1.granule).dedup
      let pick := if whole || b.length < 4 || grans = [] then gs else grans.filterMap fun i => gs[i]?
      let now := rest.filter fun x => pick.contains x.1.granule
      if !t.storeFree e || (now = [] && b != []) then s
      else (s.storeBytes now).wroteSome st e (now.map (·.1))
    | _ => s

/-- The writes that a store makes above device memory, one for each of its runs (R170, R212). -/
def SEnt.posts (e : SEnt) (space graph : Nat) : List Posted :=
  ((List.range e.far.length).zip e.far).map fun x =>
    let bs := (farBytes e.kind.bytes).filter fun b => decide (x.2.pa ≤ b.1) && decide (b.1 < x.2.pa + x.2.len)
    ⟨e.id, e.seq, x.1, bs, e.lab, x.2.va, space, graph, paClass x.2.pa == 3, 0⟩

/-- POSTED_LEAVE (R170): the bytes of a store above 2^50 leave the store queue for the posted set in one step. Scheduler-window writes are
not classed. -/
def State.leaveStep (s : State) (st : Stream) : State :=
  let t := s.strm st
  match t.sqHead with
  | none => s
  | some e =>
    match e.kind with
    | .store b _ _ _ wrote =>
      let now := (b.map (·.1)).filter fun l => l.far && !wrote.contains l
      if !t.storeFree e || now = [] then s
      else
        let tk := s.core.task
        let ps := e.posts ((tk.map (·.space)).getD 0) ((tk.map (·.graph)).getD 65536)
        (s.modStrm st fun t => { t with posted := t.posted ++ ps }).wroteSome st e now
    | _ => s

/-- The bytes of an atomic at its home, as a number. -/
def State.atomOld (s : State) (l : Loc) (sz : Nat) : W64 :=
  BitVec.ofNat 64 (leNat ((List.range sz).map fun i =>
    s.homeByte (match l with | .mem pa => .mem (pa + i) | .scr c a => .scr c (a + i))))
def State.atomPut (s : State) (l : Loc) (sz : Nat) (v : W64) : State :=
  s.storeBytes ((List.range sz).map fun i =>
    ((match l with | .mem pa => .mem (pa + i) | .scr c a => .scr c (a + i)), BitVec.ofNat 8 (v.toNat / 2 ^ (8 * i))))

/-- Reads and writes an atomic's bytes in one step at their home: an operation, or a compare and swap (R169, R289, R302). -/
def State.atomAct (s : State) (l : Loc) (sz : Nat) (op : Option AtOp) (expect v : W64) : State × W64 :=
  let old := s.atomOld l sz
  match op with
  | some o => (s.atomPut l sz (o.applyBytes sz old v), signExtendBytes sz old)
  | none => (if old = zeroExtendBytes sz expect then s.atomPut l sz v else s, signExtendBytes sz old)

/-- The next enabled container of a VAMO from `n` on. -/
def nextOn (em : BitVec 1024) : Nat → Nat → Nat
  | 0, n => n
  | f + 1, n => match decide (n < 1024) && !em.getLsbD n with
    | true => nextOn em f (n + 1)
    | false => n

/-- The read half of an atomic stands at the head of its load queue. -/
def Strm.atomReady (t : Strm) (e : SEnt) : Bool :=
  match t.lqHead with
  | some l => l.id == e.id && l.kind == .atomic
  | none => false

/-- An atomic finds no store half done across its bytes: the home performs each one whole (R161, R167). -/
def State.mayAct (s : State) (st : Stream) (seq : Nat) (ls : List Loc) : Bool :=
  !s.torn st ls && ls.all fun l => match l with
    | .mem pa => !s.awaitsZero pa && !((s.strm st).posted.any fun p => decide (p.seq < seq) && p.bytes.any fun b => b.1 == pa)
    | _ => true

/-- ATOMIC_PERFORM (R169): an atomic at the head of both queues of its stream. A VAMO performs one word (R358). -/
def State.atomicStep (s : State) (st : Stream) : State :=
  let t := s.strm st
  match t.sqHead with
  | none => s
  | some e =>
    match e.kind with
    | .atomic r =>
      if !t.atomReady e || t.storeHeld e.seq || !s.mayAct st e.seq r.locs then s
      else
        let done := fun (s : State) =>
          (s.modStrm st fun t => { t with lq := t.lq.filter fun x => x.id != e.id }).leaveSq st e
        match r with
        | .amo l sz op expect v d lab sc _ =>
          if !t.mayRelease e.seq (if l.far then .sy else sc) then s
          else
            let s := s.acquire sc
            let x := s.atomAct l sz op expect v
            done (x.1.modCore fun k => { k.writeX d ⟨x.2, lab⟩ with xPend := k.xPend.erase d })
        | .vamo op ea n int ftz em vals =>
          let i := nextOn em 1024 n
          if h : i < 1024 then
            let l : Loc := .scr s.core.id (ea + 4 * i)
            let old := (s.atomOld l 4).setWidth 32
            let s := (s.atomPut l 4 ((op.apply int ftz old vals[i]).setWidth 64)).noteWrites [l] e.lab
            let s := s.modCore fun k =>
              { k with landings := k.landings.map fun x => if x.id = e.id then { x with olds := x.olds ++ [old] } else x }
            let j := nextOn em 1024 (i + 1)
            if j < 1024 then
              let e' := { e with kind := .atomic (.vamo op ea j int ftz em vals) }
              s.modStrm st fun t => { t with sq := t.sq.map fun x => if x.id = e.id && x.seq = e.seq then e' else x }
            else
              done (s.modCore fun k =>
                { k with landings := k.landings.map fun x => if x.id = e.id then { x with bytes := some [] } else x })
          else
            done (s.modCore fun k =>
              { k with landings := k.landings.map fun x => if x.id = e.id then { x with bytes := some [] } else x })
    | _ => s

/-- A fence marker may perform (R171, R390). -/
def Strm.fenceReady (t : Strm) (seq : Nat) (k : FKind) (sc : Scope) : Bool :=
  match k with
  | .aq => t.olderLoads seq
  | _ => t.mayRelease seq sc

/-- FENCE_MARKER_PERFORM (R172, R390): marker `n` of the stream's markers leaves both queues. -/
def State.markerStep (s : State) (st : Stream) (n : Nat) : State :=
  let t := s.strm st
  let ms := t.lq.filter fun e => match e.kind with | .fence .. => true | .qalign => true | _ => false
  match ms[n % ms.length]? with
  | none => s
  | some e =>
    let go := fun (s : State) =>
      (s.modStrm st fun t => { t with
        lq := t.lq.filter fun x => !(x.id == e.id && x.seq == e.seq)
        sq := t.sq.filter fun x => !(x.id == e.id && x.seq == e.seq) }).settleWord st e.id
    match e.kind with
    | .fence k sc =>
      if t.loadHeld e.seq || !t.fenceReady e.seq k sc then s
      else go (match k with | .rl => s | _ => s.acquire sc)
    | _ => if t.olderBoth e.seq && !t.loadHeld e.seq then go s else s

/-! ### Vector landing (R87, R93, R97, R179, R366, R372) -/

/-- Writes containers of a register with the label rule of R93. -/
def VReg.write (r : VReg) (es : List (Fin 1024 × W32)) (lab : Label) (repl : Bool) : VReg :=
  ⟨es.foldl (fun v x => v.set x.1 x.2) r.e, if repl then lab else Label.join r.lab lab⟩
def Core.writeV (k : Core) (r : Fin 32) (es : List (Fin 1024 × W32)) (lab : Label) (repl : Bool) : Core :=
  { k with vr := k.vr.set r (k.vr[r].write es lab repl) }

/-- A landed element of memory type `ty` at position `j` of its bytes. -/
def elemAt (bs : List Byte) (ty : VTy) (j : Nat) : Nat := leNat ((bs.drop (j * ty.bytes)).take ty.bytes)

/-- An older landing operation uses the same ring: slots are published and released in order (R24). Log 38: DEDUCED. -/
def State.ringTurn (s : State) (l : Landing) : Bool :=
  l.ring.isNone || !(s.core.landings.any fun x => decide (x.id < l.id) && x.ring == l.ring)

/-- A landing operation may land: its bytes or old values are there, its stores have performed, its publish has. -/
def State.canLand (s : State) (l : Landing) : Bool :=
  s.ringTurn l && match l.kind with
  | .vst => !((s.strm .v).sq.any fun e => e.id == l.id)
  | .vpush =>
    !((s.strm .v).sq.any fun e => e.id == l.id) && !(s.core.rings.toList.any fun g => g.publishes.any fun p => p.1 == l.id) &&
      l.ring.all fun r => (s.core.ring r).mode == 2 || ((s.core.ring r).mayPublish 1 && s.slotsAllow (s.core.ring r) l.slot 1 l.lab)
  | _ => l.bytes.isSome

/-- One landing operation lands: it writes its register or publishes its slot, its token falls and its word may retire (R97). -/
def State.landOne (s : State) (l : Landing) : State :=
  let on := fun (x : Nat × Nat) => l.em.getLsbD x.2
  let s := s.modCore fun k =>
    let k := { k with
      landings := k.landings.filter fun x => x.id != l.id
      lt := k.lt.set l.lt (k.lt[l.lt] - 1) }
    match l.kind, l.reg with
    | .vst, _ => k
    | .vpush, _ =>
      match l.ring with
      | some r => if (k.ring r).mode = 2 then k else (k.labelSlots r l.slot 1 l.lab).publish r 1
      | none => k
    | .vamo, some r =>
      let es := ((List.range 1024).filter fun e => l.em.getLsbD e).zip l.olds
      k.writeV r (es.map fun x => (Fin.ofNat 1024 x.1, x.2)) l.lab l.repl
    | _, some r =>
      let es := (((List.range l.order.length).zip l.order).filter on).map fun x =>
        (Fin.ofNat 1024 x.2, widen l.ty l.vtype (elemAt (l.bytes.getD []) l.ty x.1))
      let k := k.writeV r es l.lab l.repl
      match l.ring with
      | some g => k.release g 1
      | none => k
    | _, none => k
  s.settleWord .v l.id

/-- VECTOR_LANDING (R97): the `n`-th landing operation that may land lands. -/
def State.landStep (s : State) (n : Nat) : State :=
  let ls := s.core.landings.filter s.canLand
  match ls[n % ls.length]? with
  | none => s
  | some l => s.landOne l

/-- A pending fixed-latency write lands (R93, R96, R100, R101). -/
def Core.applyPend (k : Core) (p : VPend) : Core :=
  if p.reg = 32 then { k with em := ⟨p.bits, p.lab⟩ }
  else if p.reg = 33 then { k with cm := ⟨(k.cm.bits &&& ~~~p.sel) ||| (p.bits &&& p.sel), Label.join k.cm.lab p.lab⟩ }
  else
    let r := Fin.ofNat 32 p.reg
    let old := k.vr[r]
    let v : VReg := ⟨Vector.ofFn fun (i : Fin 1024) => if p.sel.getLsbD i then p.data[i] else old.e[i],
      if p.repl then p.lab else Label.join old.lab p.lab⟩
    { k with vr := k.vr.set r v }

/-- Pending writes in the order in which they land: by landing distance, then in program order (R96). -/
def insertPend (p : VPend) : List VPend → List VPend
  | [] => [p]
  | q :: r => if p.left < q.left then p :: q :: r else q :: insertPend p r
def sortPend (l : List VPend) : List VPend := l.foldl (fun acc p => insertPend p acc) []

/-- `occ` cycles of issue distance pass: the writes that reach their latency land (R94 to R96). Log 10: DESIGN CHOICE. -/
def State.passDistance (s : State) (occ : Nat) : State :=
  let due := sortPend (s.core.vpend.filter fun p => decide (p.left ≤ occ))
  let rest := (s.core.vpend.filter fun p => decide (occ < p.left)).map fun p => { p with left := p.left - occ }
  let s := s.modCore fun k => due.foldl Core.applyPend { k with vpend := rest }
  due.foldl (fun s p => s.complete .v p.id) s

/-- Every pending write lands (R250). -/
def State.landPending (s : State) : State :=
  let s1 := s.modCore fun k => (sortPend k.vpend).foldl Core.applyPend { k with vpend := [] }
  s.core.vpend.foldl (fun s p => s.complete .v p.id) s1

/-! ### Ring messages (R150, R176) -/

/-- The binding of an export ring holds: the peer is a core of the same launch and die, a mesh or loop neighbour, and its ring agrees
and imports from this core and ring (R150). -/
def neighbours (a b : Nat) : Bool :=
  let x := a % 128
  let y := b % 128
  let ca := x / 16
  let cb := y / 16
  let hop := min ((ca + 8 - cb) % 8) ((cb + 8 - ca) % 8)
  let dr := max (x % 16 / 4) (y % 16 / 4) - min (x % 16 / 4) (y % 16 / 4)
  let dc := max (x % 4) (y % 4) - min (x % 4) (y % 4)
  a / 128 == b / 128 && ((ca == cb && dr + dc == 1) || (hop == 1 && x % 16 == y % 16))

def State.bound (s : State) (r : Nat) : Bool :=
  let g := s.core.ring r
  match s.core.task, s.launchCore g.peerCore with
  | some t, some p =>
    let h := (s.coreOf p).ring g.peerRing
    neighbours t.lcore g.peerCore && h.mode == 1 && h.peerCore == t.lcore && h.peerRing == r && h.base == g.base &&
      h.logsz == g.logsz && h.count == g.count
  | _, _ => false

/-- RING_PUBLISH_MESSAGE (R176): the oldest publish of an export ring reaches the importer, whose slots take the label; it waits until the
importer has them claimed (R24). -/
def State.publishMessage (s : State) (r : Nat) : State :=
  let g := s.core.ring r
  match g.publishes, s.launchCore g.peerCore with
  | (id, n, lab) :: rest, some p =>
    let first := g.filled.toNat
    if !((s.coreOf p).ring g.peerRing).mayPublish n then s
    else
    let s := s.modCore fun k => k.setRing r { g with publishes := rest, filled := g.filled + BitVec.ofNat 32 n }
    let s := s.mapCore p fun k => (k.labelSlots g.peerRing first n lab).publish g.peerRing n
    streams.foldl (fun s st => if (s.strm st).infl.any fun i => i.id == id then s.settleWord st id else s) s
  | _, _ => s

/-- RING_CREDIT_MESSAGE (R176): the oldest release of an import ring reaches the exporter's copy of freed. -/
def State.creditMessage (s : State) (r : Nat) : State :=
  let g := s.core.ring r
  match g.credits, s.launchCore g.peerCore with
  | n :: rest, some p =>
    let s := s.modCore fun k => k.setRing r { g with credits := rest }
    s.mapCore p fun k =>
      let h := k.ring g.peerRing
      k.setRing g.peerRing { h with freed := h.freed + BitVec.ofNat 32 n }
  | _, _ => s

/-! ### All at once, where a rule makes a stream's operations complete (R245, R250, R352) -/

/-- A store of the focus core that stands half done is finished (R167). -/
def State.finishPart (s : State) (st : Stream) : State :=
  match (s.strm st).sqHead with
  | some e => match e.kind with
    | .store _ _ _ _ wrote => if wrote.isEmpty then s else s.storeStep st []
    | _ => s
  | none => s

/-- The V-stream's entries perform in program order. The fuel bounds the steps. -/
def State.runV : Nat → State → State
  | 0, s => s
  | n + 1, s =>
    let t := s.core.v
    match t.lqHead, t.sqHead with
    | none, none => s
    | some l, some e =>
      if e.seq < l.seq then State.runV n (s.storeStep .v [])
      else if l.kind == .atomic then State.runV n (s.atomicStep .v)
      else State.runV n (s.loadStep .v 0 false)
    | some _, none => State.runV n (s.loadStep .v 0 false)
    | none, some _ => State.runV n (s.storeStep .v [])

/-- Every publish message of the focus core's export rings performs. -/
def State.sendPublishes (s : State) : State :=
  (List.range 16).foldl (fun s r => ((s.core.ring r).publishes).foldl (fun s _ => s.publishMessage r) s) s

/-- The landing operations in flight land: their accesses perform, their publishes follow (R250, R245). -/
def State.landAll (s : State) : State :=
  let s := [Stream.c, .a, .m].foldl State.finishPart s
  let fuel := s.core.v.lq.length + s.core.v.sq.length +
    (s.core.v.sq.map fun e => match e.kind with | .atomic _ => 1025 | _ => 1).sum
  let s := (s.runV fuel).sendPublishes
  s.core.landings.foldl (fun s l => if s.canLand l then s.landOne l else s) s

end Sys2Proof.Machine
end

