-- ==== Sys2Proof/Machine/Operands.lean ====
section
/-! DEFINITION. Operand forms: effective addresses, views of vector registers, what a vector word reads and writes, its occupancy and
latency (R39, R40, R90 to R98, R356). -/

namespace Sys2Proof.Machine
open Sys2Proof

/-! ### Scalar operands (R39, R40, R322) -/

/-- A signed immediate (R39). -/
def simm {n : Nat} (i : BitVec n) : W64 := i.signExtend 64
/-- An unsigned immediate (R39). -/
def uimm {n : Nat} (i : BitVec n) : W64 := i.setWidth 64
/-- The address of a word `n` words from the word at `pc` (R39). -/
def branchTo {n : Nat} (pc : W64) (off : BitVec n) : W64 := pc + 4 * simm off
/-- The effective address of LD and ST: the offset is scaled by the access size (R40, R322). -/
def memEa (base : W64) (sz : Nat) (off : BitVec 7) : W64 := base + BitVec.ofNat 64 sz * simm off
/-- Bytes of an access by its sz code (R40). -/
def accSize (z : Fin 4) : Nat := 2 ^ z.val
/-- The scope that the sc code of LD and ST gives: an acquire or a release for 2 and 3, none for 1 (R40). -/
def ldScope (c : Fin 4) : Option Scope := if c.val = 2 then some .dv else if c.val = 3 then some .sy else none
/-- Bytes of an A-stream element (R45). -/
def elBytes : El → Nat
  | .b => 1 | .h => 2 | .w => 4 | .d => 8 | .q => 16
/-- The scope of an A-stream transfer's acquire or release: none for .CO (R287, R295). -/
def transScope : Scope → Option Scope
  | .co => none | c => some c
/-- The second register of a pair (R45). -/
def pairHi (b : Fin 32) : Fin 32 := Fin.ofNat 32 (b.val + 1)

/-! ### Views (R90, R91, R356) -/

/-- Container (r, c) as an index. -/
def elIx (r c : Nat) : Fin 1024 := Fin.ofNat 1024 (64 * (r % 16) + c % 64)

/-- The source container that feeds destination container `e` (R356). -/
def srcIx (v : View) (k : Nat) (e : Fin 1024) : Fin 1024 :=
  let r := e.val / 64
  let c := e.val % 64
  match v with
  | .w => e
  | .r => elIx (k % 16) c
  | .c => elIx r (k % 64)
  | .d => elIx r ((r + k % 64) % 64)

/-- A container of the destination view (R356). -/
def inView (v : View) (k : Nat) (e : Fin 1024) : Bool :=
  let r := e.val / 64
  let c := e.val % 64
  match v with
  | .w => true
  | .r => r == k % 16
  | .c => c == k % 64
  | .d => c == (r + k % 64) % 64

/-- The containers of a view in ascending order (R179). -/
def viewOrder (v : View) (k : Nat) : List Nat :=
  match v with
  | .w => List.range 1024
  | .r => (List.range 64).map fun c => 64 * (k % 16) + c
  | .c => (List.range 16).map fun r => 64 * r + k % 64
  | .d => (List.range 16).map fun r => 64 * r + (r + k % 64) % 64

/-- The containers of a view as a mask. -/
def viewBits (v : View) (k : Nat) : BitVec 1024 :=
  match v with
  | .w => BitVec.allOnes 1024
  | _ => BitVec.ofNat 1024 ((viewOrder v k).map fun e => 2 ^ e).sum

/-! ### Occupancy and latency (R94) -/

def occOf (d : VOp) : Nat := if d.view = .w then 4 else 1

/-- Cycles for which a V-stream word occupies the issue port (R94). -/
def vOcc : Instr → Nat
  | .vadd _ d .. | .vsub _ d .. | .vmul _ d .. | .vfma _ d .. | .vmin _ d .. | .vmax _ d .. | .vand _ d .. | .vor _ d ..
  | .vxor _ d .. | .vshl _ d .. | .vshr _ d .. | .vsel _ d .. => occOf d
  | .vabs _ d _ _ | .vmov _ d _ _ => occOf d
  | .vcmp _ _ a _ _ => occOf a
  | .vpop _ d .. | .vpush _ d .. => occOf d
  | .vmrd _ d .. => occOf d
  | .vtopk .. => 16
  | .vcvt .. | .vqnt .. | .vdqnt .. | .vmovImm .. | .vbcr .. | .vbcc .. | .vrotr .. | .vrotc .. | .vredr .. | .vredc ..
  | .vtrn .. | .vsfu .. | .viota .. | .vld .. | .vst .. | .vamo .. | .vcqpop .. => 4
  | _ => 1

/-- Issue distance at which a fixed-latency word lands (R94). -/
def vLat : Instr → Nat
  | .vfma .. => 8
  | .vredr .. | .vsfu .. => 12
  | .vrotc .. | .vbcc .. | .vtrn .. => 10
  | .vredc .. => 22
  | .vtopk .. => 40
  | .vmask .. => 2
  | _ => 6

/-! ### The registers that a V-stream word reads and writes, by name; EM is 32 and CM 33 (R96, R97) -/

/-- The registers that a vector word reads or writes (R96): the operands it reads, the masks, what it writes. Log 34: DEDUCED. -/
def vTouched : Instr → List Nat
  | .vadd _ d a b _ | .vsub _ d a b _ | .vmul _ d a b _ | .vmin _ d a b _ | .vmax _ d a b _
  | .vand _ d a b _ | .vor _ d a b _ | .vxor _ d a b _ | .vshl _ d a b _ | .vshr _ d a b _ => [a.r.val, b.r.val, 32, d.r.val]
  | .vfma _ d a b _ => [a.r.val, b.r.val, d.r.val, 32]
  | .vsel _ d a b _ => [a.r.val, b.r.val, 33, 32, d.r.val]
  | .vabs _ d a _ | .vmov _ d a _ => [a.r.val, 32, d.r.val]
  | .vcvt _ d a .. => [a.val, 32, d.val]
  | .vqnt _ d a b _ => [a.val, 32, d.val, b.val]
  | .vdqnt _ d a b _ => [a.val, b.val, 32, d.val]
  | .vcmp _ _ a b _ => [a.r.val, b.r.val, 32, 33]
  | .vmask .. => [32, 33]
  | .vmovImm _ d _ => [32, d.val]
  | .vbcr _ d a _ | .vbcc _ d a _ => [a.r.val, 32, d.val]
  | .vrotr _ d a _ | .vrotc _ d a _ => [a.val, 32, d.val]
  | .vredr _ d a _ | .vredc _ d a _ => [a.val, 32, d.val]
  | .vtrn _ d a => [a.val, 32, d.val]
  | .vsfu _ d a _ => [a.val, 32, d.val]
  | .vtopk _ d a _ => [a.val, (pairHi a).val, 32, d.val, (pairHi d).val]
  | .viota _ d _ => [32, d.val]
  | .vld _ d .. => [32, d.val]
  | .vst _ d .. | .vamo _ d .. => [d.val, 32]
  | .vpop _ d .. => [32, d.r.val]
  | .vpush _ d .. => [d.r.val]
  | .vmrd _ d .. => [32, d.r.val]
  | .vcqpop _ d => [32, d.val]
  | _ => []

/-- The physical number of a register name, 32 and 33 as they are (R103). -/
def Core.vphysN (k : Core) (n : Nat) : Nat := if n < 32 then (k.vphys (Fin.ofNat 32 n)).val else n

/-- The registers of a list, by name, whose pending write or landing-pending state exposes them (R96, R97). -/
def Core.exposed (k : Core) (inHold : Bool) (names : List Nat) : List Nat :=
  (names.filter fun n =>
    let p := k.vphysN n
    k.landPend.any (fun l => l.1.val == p) || (!inHold && k.vpend.any fun w => w.reg == p)).dedup
/-- The exposed register that the trap names; of several, which one is free. Log 23: DESIGN CHOICE. -/
def namedOf (n : Nat) : List Nat → Option Nat
  | [] => none
  | [r] => some r
  | r :: l => some ((r :: l).getD (Config.freeExposed n % (l.length + 1)) r)

/-- VFMA reads three registers of one bank (R98). -/
def Core.threeInBank (k : Core) (d a b : Fin 32) : Bool :=
  let d := (k.vphys d).val
  let a := (k.vphys a).val
  let b := (k.vphys b).val
  d != a && d != b && a != b && d % 4 == a % 4 && d % 4 == b % 4

/-! ### The labels that a word reads (R197, R198) -/

def Core.labX (k : Core) (rs : List (Fin 64)) : Label := Label.joins (rs.map fun r => (k.readX r).lab)
def Core.labA (k : Core) (rs : List (Fin 32)) : Label := Label.joins (rs.map fun r => (k.readA r).lab)
/-- EM, the vector registers by the names in the word, and its ix register where a view is not W. -/
def Core.labV (k : Core) (rs : List (Fin 32)) (vs : List View) (x : Fin 4) : Label :=
  Label.joins (k.em.lab :: (if vs.any (· != .w) then k.ix[x].2 else 0) :: rs.map fun r => k.vr[k.vphys r].lab)
def Core.planeLab (k : Core) (p : Bool) : Label := if p then k.plane1.lab else k.plane0.lab

/-- The labels of the registers, masks, nest slots and planes that a word names as its sources: what ResultLabel joins to CLABEL before the
word has read any memory (R197). A trap that is raised before the word reads memory carries them (R198). -/
def Core.sourceLab (k : Core) : Instr → Label
  | .add _ _ a b | .sub _ _ a b | .mul _ _ a b | .and _ _ a b | .or _ _ a b | .xor _ _ a b | .slt _ _ a b | .sltu _ _ a b
  | .mulh _ _ a b _ | .div _ _ a b _ | .rem _ _ a b _ | .min _ _ a b _ | .max _ _ a b _ | .br _ _ a b _ | .daccOpen _ a b
  | .daccAdd _ a b | .daccAddx _ a b | .lbchk _ _ a b | .amoW _ _ a b _ _ | .amoD _ _ a b _ _ | .launch _ _ a b => k.labX [a, b]
  | .addImm _ _ a _ | .andImm _ _ a _ | .orImm _ _ a _ | .xorImm _ _ a _ | .sltImm _ _ a _ | .clz _ _ a | .popc _ _ a
  | .jalr _ _ a _ | .ld _ _ a .. | .daccRead _ _ a | .daccClose _ a | .fmtq _ a | .lbget _ _ a | .lcdecl _ a | .lcsub _ _ a
  | .cqput _ a _ => k.labX [a]
  | .shl _ _ a b m | .shr _ _ a b m | .sra _ _ a b m => k.labX (if m then [a] else [a, b])
  | .csel _ d a b | .cas _ d a b .. => k.labX [d, a, b]
  | .st _ d a .. => k.labX [d, a]
  | .nstset _ d .. | .rgset _ d .. => k.labX [d]
  | .csrr _ _ c => k.csr.labOf c
  | .csrw _ _ a c => Label.join (k.labX [a]) (k.csr.labOf c)
  | .aadd _ _ a b | .asub _ _ a b | .amul _ _ a b | .aand _ _ a b | .abr _ _ a b _ | .apref _ a b | .aamo _ _ a b .. => k.labA [a, b]
  | .aaddImm _ _ a _ | .ashl _ _ a _ | .ashr _ _ a _ | .aloop _ a _ => k.labA [a]
  | .ald _ a b .. | .ast _ a b .. | .axput _ a b .. | .agath _ a b .. | .ascat _ a b .. => k.labA [a, b, pairHi b]
  | .acopy _ d a b _ => k.labA [d, a, b]
  | .azero _ d b _ => k.labA [d, b]
  | .vadd _ d a b x | .vsub _ d a b x | .vmul _ d a b x | .vmin _ d a b x | .vmax _ d a b x | .vand _ d a b x | .vor _ d a b x
  | .vxor _ d a b x | .vshl _ d a b x | .vshr _ d a b x => k.labV [a.r, b.r] [d.view, a.view, b.view] x
  | .vfma _ d a b x => k.labV [a.r, b.r, d.r] [d.view, a.view, b.view] x
  | .vsel _ d a b x => Label.join k.cm.lab (k.labV [a.r, b.r] [d.view, a.view, b.view] x)
  | .vcmp _ _ a b x => k.labV [a.r, b.r] [a.view, b.view] x
  | .vabs _ d a x | .vmov _ d a x => k.labV [a.r] [d.view, a.view] x
  | .vbcr _ _ a x | .vbcc _ _ a x => k.labV [a.r] [a.view] x
  | .vmask .. => Label.join k.em.lab k.cm.lab
  | .vcvt _ _ a .. | .vrotr _ _ a _ | .vrotc _ _ a _ | .vredr _ _ a _ | .vredc _ _ a _ | .vtrn _ _ a | .vsfu _ _ a _ | .vqnt _ _ a _ _ =>
    k.labV [a] [] 0
  | .vdqnt _ _ a b _ => k.labV [a, b] [] 0
  | .vtopk _ _ a _ => k.labV [a, pairHi a] [] 0
  | .vmovImm .. | .viota .. | .vcqpop .. => k.em.lab
  | .vld _ _ p .. => Label.join k.em.lab k.p[p].2
  | .vst _ d p .. | .vamo _ d p .. => Label.join (k.labV [d] [] 0) k.p[p].2
  | .vpop _ d _ _ x _ | .vmrd _ d _ _ _ x => k.labV [] [d.view] x
  | .vpush _ d _ _ x _ => k.labV [d.r] [d.view] x
  | .vloop _ _ _ x => k.ix[x].2
  | .mgo _ n p .. => Label.join k.shadow[n].lab (k.planeLab p)
  | .mma _ p .. | .mmas _ p .. => Label.join k.cfg.lab (k.planeLab p)
  | .mdrainMem _ n p => Label.join k.shadow[n].lab (k.planeLab p)
  | .mdrainRing _ p _ => k.planeLab p
  | .mcfg _ n _ | .mwelt _ n | .mrstr _ n => k.shadow[n].lab
  | _ => 0

/-! ### Words that are illegal where they stand (R16, R26, R102, R255, R312, R367) -/

/-- Inside a loop's body. -/
def Core.inBody (k : Core) : Bool := match k.loop with | some l => decide ((k.v.pc - l.body).toNat < 4 * l.len) | none => false
/-- A region reaches past the loop's body (R367). -/
def Core.pastBody (k : Core) (n : Nat) : Bool :=
  match k.loop with
  | some l => k.inBody && decide (4 * l.len < (k.v.pc - l.body).toNat + 4 + 4 * n)
  | none => false

/-- The word raises the illegal-instruction trap where it stands: it would use a route that its stream lacks or set one that it cannot have
(R16, R17), a HOLD stands in a region or reaches past the body (R26, R367), VLOOP or STEND stands in a body, VSTG names a stage that the loop
lacks (R102, R367), ERET finds NEST = 0 (R312). -/
def Core.misplaced (k : Core) (i : Instr) (st : Stream) (h : Hdr) : Bool :=
  let t := k.strm st
  (h.w && t.routeIn.val == noRoute st) || (h.s && t.routeOut.val == noRoute st) ||
    match i with
    | .troute _ _ i o => !((queueInto st i || i.val == noRoute st) && (queueFrom st o || o.val == noRoute st))
    | .hold _ _ n => t.hold.isSome || (st == .v && k.pastBody (n.val + 1))
    | .stend .. => st == .v && k.inBody
    | .vloop .. => k.inBody
    | .vstg _ g => k.inBody && match k.loop with | some l => decide (l.stages ≤ g.val) | none => false
    | .eret _ => !k.csr.nest
    | _ => false

end Sys2Proof.Machine
end

