-- ==== Sys2Proof/Machine/Ops.lean ====
section
/-! DEFINITION. The shared operations of every instruction word: interning a result's label, taking a trap and returning from one, and
the frame in which a word issues, has its effect and retires (R16 to R27, R36, R95, R96, R103, R194, R198, R199, R209, R214,
R249 to R253). -/

namespace Sys2Proof.Machine
open Sys2Proof

/-! ### How a word ends -/

/-- Why a word does not complete: it waits; it waits and has read accumulator rows (R370); it is illegal; it raises a trap with a cause,
a TVAL and its ResultLabel; a page-table entry that its translation read is uncorrectable (R36, R188, R250). -/
inductive Halt where
  | stall | rows (l : List (List W32 × Label)) | illegal | trap (cause : Nat) (tval : W64) (lab : Label) | viral (pa : Nat)
  deriving DecidableEq, Repr, Inhabited

/-- What a word leaves: the state, a target if it branches, whether its condition of R19 already holds, queues that it signals beside
its S mark, ring slots to release at retirement, whether its stream issues nothing younger before it has performed, or only words that can be
taken back (`ahead`), the route that it sets as it retires, and the address register whose readers wait for its retirement (R277). -/
structure After where
  s : State
  next : Option W64
  done : Bool
  sigs : List Nat
  rels : List (Nat × Nat)
  block : Bool
  ahead : Bool
  route : Option (Fin 16 × Fin 16)
  aw : Option (Fin 32)
  deriving DecidableEq, Repr, Inhabited

def After.of (s : State) : After := ⟨s, none, true, [], [], false, false, none, none⟩
/-- A word that retires later. Log 15: DEDUCED. -/
def After.later (s : State) : After := ⟨s, none, false, [], [], false, false, none, none⟩

abbrev Body := State → Except Halt After

def State.pc (s : State) (st : Stream) : W64 := (s.strm st).pc
def State.clab (s : State) (st : Stream) : Label := (s.strm st).clab

/-! ### Labels of results (R194, R197, R198) -/

/-- A new label set needs a table entry; with none free the word faults, the set joining CLABEL (R194, R198). -/
def State.need (s : State) (l : Label) : Except Halt State :=
  if s.canIntern l then .ok (s.intern l) else .error (.trap 0x0022 0 l)

/-- Raises a stream's CLABEL (R198, R199). -/
def State.raise (s : State) (st : Stream) (l : Label) : Except Halt State :=
  let n := Label.join (s.clab st) l
  match s.need n with
  | .ok s => .ok (s.modStrm st fun t => { t with clab := n })
  | .error x => .error x

/-- A register result with its label; a write to x0 or a0 is discarded (R277, R299). -/
def State.putX (s : State) (d : Fin 64) (v : W64) (l : Label) : Except Halt State :=
  if d = 0 then .ok s
  else match s.need l with
    | .ok s => .ok (s.modCore fun k => k.writeX d ⟨v, l⟩)
    | .error x => .error x
def State.putA (s : State) (d : Fin 32) (v : W64) (l : Label) : Except Halt State :=
  if d = 0 then .ok s
  else match s.need l with
    | .ok s => .ok (s.modCore fun k => k.writeA d ⟨v, l⟩)
    | .error x => .error x

/-! ### Taking a trap, and returning from one (R214, R249 to R253) -/

/-- The stop of a stream A, V or M: delegated to the C-stream's handler, or on the service path (R251). The trap sets the event latch
(R383). -/
def State.stopStream (s : State) (st : Stream) : State :=
  let d := s.core.csr.deleg.toNat / 2 ^ st.num % 2 == 1 && s.core.csr.tvec != 0
  let s := s.modStrm st fun t => { t with stop := if d then .delegated else .held }
  { s with core := { s.core with latch := true } }

/-- Delivery of a trap whose bank has been written (R251). -/
def State.deliver (s : State) (st : Stream) (cause : Nat) : State :=
  match st with
  | .c =>
    let k := s.core
    if k.csr.nest then
      let s := s.modStrm .c fun t => { t with
        stop := .held, bank := { t.bank with cause := 2, tval := BitVec.ofNat 64 cause } }
      { s with core := { s.core with latch := true } }
    else if k.csr.tvec = 0 then
      let s := s.modStrm .c fun t => { t with stop := .held }
      { s with core := { s.core with latch := true } }
    else
      let s := { s with core := { k with csr := { k.csr with nest := true } } }
      s.modStrm .c fun t => { t with pc := s.core.csr.tvec, clab := Label.join t.clab (k.csr.labOf .tvec) }
  | _ => s.stopStream st

/-- Fills the bank of a stream: CLABEL takes the word's ResultLabel first, and the bank carries it (R198, R249, R250). A set that finds the
label table full is kept without an entry, and no second fault arises. Log 98: DESIGN CHOICE. -/
def State.fillBank (s : State) (st : Stream) (cause : Nat) (tval epc : W64) (lab : Label) : State :=
  let l := Label.join (s.clab st) lab
  let s := if s.canIntern l then s.intern l else s
  s.modStrm st fun t => { t with
    clab := l, bank := ⟨BitVec.ofNat 64 cause, epc, tval, l⟩, stitch := .none, pc := epc }

/-- What a synchronous trap does first in its stream (R250): the V-stream's pending writes and landing operations land, the open HOLD
region closes. Log 12: DEDUCED. -/
def State.settleTrap (s : State) (st : Stream) : State :=
  let s := if st = .v then s.landPending.landAll.modCore fun k => { k with vrows := [] } else s
  s.closeHold st

/-- A synchronous trap (R250, R251). `keep` leaves a DECLARING lace slot as it is (R223); every other trap of the C-stream empties or
abandons it (R218, R227). -/
def State.trapAt (s : State) (st : Stream) (cause : Nat) (tval epc : W64) (lab : Label) (keep : Bool) : State :=
  let s := s.settleTrap st
  let s := if st = .c && !keep then s.leaveLace else s
  (s.fillBank st cause tval epc lab).deliver st cause

/-- A word at the stream's program counter raises a trap. -/
def State.takeTrap (s : State) (st : Stream) (cause : Nat) (tval : W64) (lab : Label) : State :=
  s.trapAt st cause tval (s.pc st) lab false

/-- ERET (R214, R312): NEST clears, CLABEL joins the label of bank C, and the word at EPC issues next. -/
def State.returnFromTrap (s : State) : Except Halt (State × W64) :=
  match s.raise .c s.core.c.bank.lab with
  | .ok s => .ok ({ s with core := { s.core with csr := { s.core.csr with nest := false } } }, s.core.c.bank.epc &&& ~~~3#64)
  | .error x => .error x

/-- The V-stream's stage at a word of the body: that of the last VSTG before it (R102). -/
def State.bodyStage (s : State) (l : Loop) (pc : W64) : Nat :=
  (List.range ((pc - l.body).toNat / 4)).foldl (fun g i =>
    match s.translate .fetch (l.body + BitVec.ofNat 64 (4 * i)) (.fetch .v) with
    | .ok (_, pa, _) =>
      let w := s.codeAt pa
      if w / 2 ^ 23 % 64 = 0x2B then w % 8 else g
    | .error _ => g) 0

def Loop.inside (l : Loop) (pc : W64) : Bool := decide ((pc - l.body).toNat < 4 * l.len)

/-- A stopped stream goes on at the EPC of its bank (R249, R253); a return of the V-stream into a loop's body resumes the pass there,
and one outside it ends the loop (R367). -/
def State.resumeStream (s : State) (st : Stream) : State :=
  let s := s.modStrm st fun t => { t with stop := .running, pc := t.bank.epc &&& ~~~3#64 }
  match st, s.core.loop with
  | .v, some l =>
    if l.inside s.core.v.pc then { s with core := { s.core with loop := some { l with stage := s.bodyStage l s.core.v.pc } } }
    else { s with core := { s.core with loop := none } }
  | _, _ => s

/-- The record of a stream's stop: EPC and TVAL are withheld where the bank's label is not a subset of the function's origin (R253). -/
def State.mailRec (s : State) (st : Stream) (ticket : Nat) : MailRec :=
  let k := s.core
  let b := (k.strm st).bank
  let w := !Label.sub b.lab (s.funcLab k.func)
  let t := k.task
  ⟨ticket, st.num, w, b.cause.toNat % 65536, (t.map (·.queue)).getD 0, (t.map (·.graph)).getD 0, (t.map (·.lcore)).getD 0,
    BitVec.ofNat 64 ((t.map (·.idx)).getD 0), if w then 0 else b.epc, if w then 0 else b.tval⟩
/-- The ticket of the next record. -/
def State.newTicket (s : State) : Nat := s.tickets % (2 ^ 32 - 1) + 1
/-- A record that the mailbox has not taken yet is held at the hub, with its ticket, where its stream goes on, its task leaves the core or ends:
no record is lost (R253). Log 61: DEDUCED. -/
def State.fileStop (s : State) (st : Stream) : State :=
  if (s.strm st).stop = .held then
    let n := s.newTicket
    { s with tickets := n, hubRecs := s.hubRecs ++ [(s.core.func, s.mailRec st n)] }.modStrm st fun t => { t with stop := .posted n }
  else s
def State.fileStops (s : State) : State := streams.foldl State.fileStop s

/-- The words that a stream has issued past a release are taken back: their results, their entries and their places (R209, R214, R390). Log 15:
DEDUCED. -/
def State.rewind (s : State) (st : Stream) (back : Option Ahead) : State :=
  match back with
  | none => s
  | some a =>
    let s := s.modCore fun k => { k with x := a.x, xPend := [] }
    s.modStrm st fun t => { t with
      clab := a.clab, pc := a.pc, ahead := none
      infl := t.infl.filter fun i => decide (i.id ≤ a.id)
      lq := t.lq.filter fun e => decide (e.id ≤ a.id) }

/-- The egress-refused trap at a system-scope release or acquire that has performed, or at an MBAR: TVAL names the first refused write
of the stream, EPC the word that follows (R209, R214). Every refusal of the stream counts as reported (log entry 24). `lab` is the
ResultLabel of the release or acquire, `back` what the stream goes back to where it has issued past it. Log 15: DEDUCED; log 24: DEDUCED. -/
def State.egressTrap (s : State) (st : Stream) (lab : Label) (back : Option Ahead) : State :=
  match (s.strm st).refused with
  | [] => s
  | r :: _ =>
    let s := s.rewind st back
    (s.modStrm st fun t => { t with refused := [] }).trapAt st 0x0021 r.2 (s.pc st) lab false

/-- A word that has issued and turns out to trap, or is withdrawn, has had no effect: its tokens go back, its region does not count it,
and the stream stands at it again (R223, R229, R310). -/
def State.unissue (s : State) (st : Stream) (id : Nat) : State :=
  match (s.strm st).infl.find? fun i => i.id == id with
  | none => s
  | some i =>
    let s := s.modCore fun k => i.took.foldl (fun k q => k.giveTok (Fin.ofNat 16 q)) k
    s.modStrm st fun t => { t with
      infl := t.infl.filter fun j => j.id != id
      blocked := if t.blocked = some id then none else t.blocked
      pc := i.pc
      hold := t.hold.map fun h => { h with left := h.left + 1 } }

/-! ### Issue (R16 to R26, R36, R96, R103) -/

/-- One arithmetic clock passes (R221, R388). Log 10: DESIGN CHOICE. -/
def State.tick (s : State) : State := { s with clk := s.clk + 1, beatClk := s.beatClk + 1 }
/-- The clocks for which a word occupies its stream's issue port (R26, R94). Log 10: DESIGN CHOICE. -/
def State.ticks (s : State) (n : Nat) : State := { s with clk := s.clk + n, beatClk := s.beatClk + n }

/-- Fixed-latency words retire within their latency in clocks (R387). Log 10: DESIGN CHOICE. -/
def State.retireDue (s : State) : State :=
  (s.core.vpend.filter fun p => decide (p.due ≤ s.clk)).foldl (fun s p => s.complete .v p.id) s

/-- What a stream does with the word at its head. -/
inductive Issue where
  | go (s : State) | idle (s : State) | illegal | trap (cause : Nat) (tval : W64) (lab : Label) | inert
  deriving DecidableEq, Repr, Inhabited

/-- The stream issues nothing now: it has ended, is stopped, waits for a word to perform and may not run ahead of it, or its oldest word cannot
signal (R17, R209). -/
def Strm.barred (t : Strm) : Bool :=
  t.ended || t.stop.stopped || (t.blocked.isSome && (t.ahead.isNone || t.hold.isSome)) || stuckSignal false t.infl

/-- A word of the C-stream whose whole effect is a result in a scalar register, and which bears no mark: it may issue past a system-scope
release that has still to perform, and can be taken back (R209, R390). Log 15: DEDUCED. -/
def runsAhead (i : Instr) (h : Hdr) : Bool :=
  !h.w && !h.s && !h.k && match i with
  | .add .. | .addImm .. | .sub .. | .mul .. | .mulh .. | .div .. | .rem .. | .and .. | .andImm .. | .or .. | .orImm .. | .xor ..
  | .xorImm .. | .shl .. | .shr .. | .sra .. | .slt .. | .sltImm .. | .sltu .. | .min .. | .max .. | .clz .. | .popc .. | .csel ..
  | .lui .. | .br .. | .jal .. | .jalr .. => true
  | .ld _ _ _ _ c _ => decide (c.val ≤ 2)
  | _ => false
/-- The stream has issued past a release and this word may follow. -/
def Strm.mayRunAhead (t : Strm) (i : Instr) (h : Hdr) : Bool := t.ahead.isSome && t.hold.isNone && runsAhead i h
/-- The stream may not issue this word now. -/
def Strm.barredFor (t : Strm) (i : Instr) (h : Hdr) : Bool :=
  t.ended || t.stop.stopped || (t.blocked.isSome && !t.mayRunAhead i h) || stuckSignal false t.infl

/-- The first delegated stop that has not been delivered (R252). -/
def Core.firstStop (k : Core) : Option Stream := streams.find? fun st => (k.strm st).stop == .delegated

/-- STREAM_TRAP (R252): at a boundary of the C-stream, a delegated stop goes to the service path if its delegation is gone, and
otherwise traps the C-stream; none if no stop waits or the C-stream may not take one. -/
def State.streamTrap (s : State) : Option State :=
  let k := s.core
  match k.firstStop with
  | none => none
  | some st =>
    if k.csr.nest || k.c.hold.isSome || k.c.blocked.isSome || k.c.ended || k.c.stop.stopped || !(k.lace.st == .idle || k.lace.st == .declaring) then none
    else if k.csr.tvec = 0 || k.csr.deleg.toNat / 2 ^ st.num % 2 = 0 then
      some (s.modStrm st fun t => { t with stop := .held })
    else
      let s := s.modStrm st fun t => { t with stop := .delivered }
      some (s.takeTrap .c 0x0003 (BitVec.ofNat 64 st.num) (k.strm st).bank.lab)

/-- The queues from which a word takes tokens: its route for W, the queue that TKWAIT names (R17, R353). -/
def tokensOf (i : Instr) (h : Hdr) (t : Strm) : List (Fin 16) :=
  (if h.w then [t.routeIn] else []) ++ match i with | .tkwait _ _ q => [q] | _ => []

/-- A queue that cannot give its tokens (R17, R353): first one that is empty and whose source has ended (R22). -/
def Core.lacking (k : Core) (qs : List (Fin 16)) : Option (Fin 16) :=
  let short := qs.filter fun q => decide (k.tok[q] < qs.count q)
  match short.find? fun q => k.tok[q] == 0 && (k.strm (Stream.ofNum (q.val / 4))).ended with
  | some q => some q
  | none => short.head?

/-- The streams that take part in a stitch (R21). -/
def Core.stitchers (k : Core) : List Stream :=
  streams.filter fun st => k.csr.stitchset.getLsbD st.num && !(k.strm st).ended

/-- The streams of a stitch issue together: CLABELs join, and those that wait issue their words before any other step takes place (R21,
R199). Log 12: DEDUCED. -/
def State.stitch (s : State) : Except Halt State :=
  let ps := s.core.stitchers
  let l := Label.joins (ps.map s.clab)
  match s.need l with
  | .error x => .error x
  | .ok s =>
    let go := (ps.filter fun st => (s.strm st).stitch == .waiting).map fun st => Instr.wordFetch s.core.id st
    .ok { ps.foldl (fun s st => s.modStrm st fun t =>
      { t with clab := l, stitch := if t.stitch = .waiting then .released else t.stitch }) s with agenda := go ++ s.agenda }

/-- A HOLD region has stood for 256 clocks (R26). A body's clocks count from its LCWAIT (R226). Log 10: DESIGN CHOICE; log 33: DEDUCED. -/
def State.overrun (s : State) (i : Instr) (st : Stream) : Option W64 :=
  match (s.strm st).hold with
  | none => none
  | some h =>
    let atWait := h.wait.isSome || (h.first && s.core.lace.st == .submitted && match i with | .lcwait .. => true | _ => false)
    if Config.holdLimit ≤ s.clk - h.start && !atWait then some h.addr else none

/-- The word of a body that its stage makes inert (R103). -/
def Core.inert (k : Core) : Bool :=
  match k.loop with
  | some l => l.inside k.v.pc && !k.csr.act.getLsbD l.stage
  | none => false

/-- The stitch of a word with K = 1 (R21). Log 12: DEDUCED. -/
def State.joinStitch (s : State) (st : Stream) (h : Hdr) : Issue :=
  let ps := s.core.stitchers
  if !h.k || !ps.contains st || ps.length < 2 || (s.strm st).stitch == .released then .go s
  else if ps.all fun u => u == st || (s.strm u).stitch == .waiting then
    match s.stitch with
    | .ok s => .go s
    | .error (.trap c v _) => .trap c v (s.clab st)
    | .error _ => .idle s
  else .idle (s.modStrm st fun t => { t with stitch := .waiting })

/-- The tokens of a word, with their labels (R17, R199, R353). -/
def State.takeTokens (s : State) (st : Stream) (qs : List (Fin 16)) : Issue :=
  match s.raise st (Label.joins (qs.map fun q => s.core.tokLab[q])) with
  | .error (.trap c v l) => .trap c v l
  | .error _ => .idle s
  | .ok s => .go (s.modCore fun k => qs.foldl Core.takeTok k)

/-- The queues that a word signals as it retires (R17, R353). -/
def signalsOf (i : Instr) (h : Hdr) (t : Strm) : List (Fin 16) :=
  (if h.s then [t.routeOut] else []) ++ match i with | .tksig _ _ q => [q] | _ => []
/-- The sets that a word's signals will join into their queues need entries too (R194, R199). Log 99: DEDUCED. -/
def State.needSignals (s : State) (st : Stream) (lab : Label) : List (Fin 16) → Issue
  | [] => .go s
  | q :: r =>
    let l := Label.join s.core.tokLab[q] (s.clab st)
    if s.canIntern l then State.needSignals (s.intern l) st lab r else .trap 0x0022 0 lab

/-- A pre-empted task has reached its safe point (R245): no stream is inside a HOLD region, the lace slot is IDLE or DECLARING, and the
V-stream has left its loop by the forced epilogue of R105 or is stopped. Log 47: DEDUCED. -/
def Core.atSafePoint (k : Core) : Bool :=
  (k.task.any fun t => t.preempt) && !k.ending && k.killed.isNone && (streams.all fun st => (k.strm st).hold.isNone) &&
    (k.lace.st == .idle || k.lace.st == .declaring) && (k.loop.isNone || k.v.stop.stopped || k.v.ended)

/-- A stream issues nothing more: TASKEND has stopped the streams beside the C-stream (R352), the task ends from outside, or it stands at its safe point, where a
waiting WFE may still retire (R245, R383). LCSUB issues only when a task that is to be pre-empted has resumed (R229). -/
def Core.halted (k : Core) (st : Stream) (i : Instr) : Bool :=
  ((k.task.any fun t => t.preempt) && match i with | .lcsub .. => true | _ => false) ||
  (k.ending && st != .c) || k.killed.isSome || (k.atSafePoint && match i with | .wfe _ => false | _ => true)

/-- The activity of the stages in a pass (R103). -/
def actOf (stages trips pass : Nat) : BitVec 8 :=
  BitVec.ofNat 8 ((List.range stages).map fun g => if g ≤ pass && pass - g < trips then 2 ^ g else 0).sum

/-- Requests that the core's queues hold (R8). -/
def Core.requests (k : Core) : Nat := (streams.map fun st => (k.strm st).lq.length + (k.strm st).sq.length).sum
def maxRequests : Nat := 4096

/-- A loop that a forced epilogue left goes on through its prologue at the next iteration (R105); ITER stays at the number of the
iterations that an uninterrupted run would have started. Log 100: DEDUCED. -/
def Core.restartLoop (k : Core) : Core :=
  match k.again with
  | some l => { k with again := none, loop := some l, csr := { k.csr with act := actOf l.stages l.trips 0 } }
  | none => k

/-- Whether a word issues: after the checks of R36 at decode come the stops, a stream trap, an inert word, a word that is illegal where it
stands, the exposed read, the region and the lace slot, the tokens and the stitch (R255). Each trap carries the word's ResultLabel (R198).
Log 28: DEDUCED; log 31: DEDUCED. -/
def issue (i : Instr) (st : Stream) (h : Hdr) (s0 : State) : Issue :=
  let s := (if st = .v then s0.retireDue else s0).retireAll st
  let t := s.strm st
  if s.viral || s.inReset || t.barredFor i h || s.core.halted st i then .idle s
  else match (if st = .c && t.blocked.isNone then s.streamTrap else none) with
    | some s => .idle s
    | none =>
      let s := if st = .v then s.modCore Core.restartLoop else s
      let lab := s.core.sourceLab i
      if st = .v && s.core.inert then .inert
      else if (h.w || h.s) && t.infl.any (·.route.isSome) then .idle s
      else if s.core.misplaced i st h then .illegal
      else match (if st = .v then namedOf s.clk (s.core.exposed t.hold.isSome (vTouched i)) else none) with
        | some r => .trap 0x0008 (BitVec.ofNat 64 r) lab
        | none =>
          match s.overrun i st with
          | some a => .trap 0x0007 a lab
          | none =>
            if st = .c && s.core.lace.st == .granted && t.hold.isNone then .trap 0x0028 0 lab
            else
              let qs := tokensOf i h t
              match s.core.lacking qs with
              | some q =>
                if s.core.tok[q] = 0 && (s.strm (Stream.ofNum (q.val / 4))).ended then
                  .trap 0x0006 (BitVec.ofNat 64 q.val) lab
                else .idle s
              | none =>
                match s.joinStitch st h with
                | .go s =>
                  match s.takeTokens st qs with
                  | .go s => s.needSignals st lab (signalsOf i h t)
                  | r => r
                | r => r

/-! ### Retirement -/

/-- The stream's open region counts a word that issued inside it (R25, R315). -/
def State.countHold (s : State) (st : Stream) : State :=
  match (s.strm st).hold with
  | none => s
  | some h =>
    if h.left ≤ 1 then s.closeHold st
    else s.modStrm st fun t => { t with hold := some { h with left := h.left - 1, first := false } }

/-- A pre-emption request outside a HOLD region clamps the iterations at the end of a pass (R105). Log 47: DEDUCED. -/
def Core.clamped (k : Core) (l : Loop) : Loop :=
  if (k.task.any fun t => t.preempt) && k.v.hold.isNone then { l with trips := min l.trips (l.pass + 1) } else l

/-- The end of a pass (R103): RRB and ITER move, and the next pass begins at the body's first word or the loop is over. A loop whose
iterations were clamped keeps its T and the iteration at which it goes on, with RRB to match, and the V-stream stands at its body (R105). -/
def State.endPass (s : State) (l0 : Loop) (pc : W64) : State :=
  let k := s.core
  let l := k.clamped l0
  let more := l.pass + 1 < l.trips + l.stages - 1
  let cut := !more && decide (l.skip + l.trips < l.full)
  let resume := l.skip + l.trips
  let csr := { k.csr with
    rrb := if cut then (16 - resume % 16) % 16 else (k.csr.rrb + 15) % 16
    iter := l.skip + min (l.pass + 1) l.trips
    act := if more then actOf l.stages l.trips (l.pass + 1) else k.csr.act }
  let csr := csr.joinLab .stg k.v.clab
  { s with core := { k with
      csr := csr
      loop := if more then some { l with pass := l.pass + 1, stage := 0 } else none
      again := if cut then some { l with trips := l.full - resume, pass := 0, stage := 0, skip := resume } else k.again
      v := { k.v with pc := if more || cut then l.body else pc } } }

/-- The V-stream moves on to `pc`; a loop's body ends a pass at its last word (R103, R367). -/
def State.moveV (s : State) (was : Option Loop) (pc : W64) : State :=
  match was, s.core.loop with
  | some _, some l =>
    if pc = l.body + BitVec.ofNat 64 (4 * l.len) then s.endPass l pc
    else { s with core := { s.core with v := { s.core.v with pc := pc } } }
  | _, _ => { s with core := { s.core with v := { s.core.v with pc := pc } } }

/-- A word that has issued and had its effect: it stands among the issued words until it retires, its region counts it, the stream
moves on, issue distance passes (R17, R19, R25, R95). `s1` is the state in which it issued. Log 19: DEDUCED. -/
def finish (i : Instr) (st : Stream) (h : Hdr) (s1 : State) (r : After) : State :=
  let t := s1.strm st
  let id := s1.core.next
  let pc := t.pc
  let e : Infl := ⟨id, pc, r.done, (if h.s then [t.routeOut.val] else []) ++ r.sigs, (tokensOf i h t).map (·.val), r.rels,
    r.s.core.vpend.any fun p => p.id == id, r.route, r.aw⟩
  let s := r.s.modCore fun k => { k with next := r.s.core.next + 1 }
  let s := s.modStrm st fun u => { u with
    infl := u.infl ++ [e]
    stitch := .none
    blocked := if r.block then some id else u.blocked }
  let s := if t.hold.isSome then s.countHold st else s
  let npc := r.next.getD (pc + 4)
  let s := if r.block && r.ahead then s.modStrm st fun u => { u with ahead := some ⟨id, s.core.x, u.clab, npc⟩ } else s
  let s := if st = .v then (s.moveV s1.core.loop npc).passDistance (vOcc i) else s.modStrm st fun u => { u with pc := npc }
  (s.modCore fun k => k.retireAll st).ticks (if t.stitch = .released then 0 else if st = .v then vOcc i else 1)

/-- An inert word of a loop's body: its occupancy, no reads, writes or traps (R103). A VSTG still assigns the words that follow it. -/
def State.passInert (s : State) (i : Instr) : State :=
  let s := match i, s.core.loop with
    | .vstg _ g, some l => { s with core := { s.core with loop := some { l with stage := g.val } } }
    | _, _ => s
  let s := s.countHold .v
  ((s.moveV s.core.loop (s.core.v.pc + 4)).passDistance (vOcc i)).ticks (vOcc i)

/-- The word itself, for the TVAL of an illegal instruction (R36). -/
def wordOf (i : Instr) : W64 := BitVec.ofNat 64 ((encode i).getD 0)

/-- How a word that was to issue ends when its body does not complete (R36, R188, R250). -/
def State.halt (s : State) (i : Instr) (st : Stream) : Halt → State
  | .stall => s
  | .rows l => s.modCore fun k => { k with vrows := l }
  | .illegal => s.takeTrap st 0x0001 (wordOf i) (s.core.sourceLab i)
  | .trap c v l => s.takeTrap st c v l
  | .viral pa => s.ptePoison pa

/-- Commands of the array that are older than a word of the M-stream may still trap, precisely at themselves: a younger word's trap waits
for them (R250, R324). Log 96: DEDUCED. -/
def State.olderMay (s : State) (st : Stream) : Bool := st == .m && !s.core.m.infl.isEmpty
def Halt.traps : Halt → Bool
  | .illegal => true | .trap .. => true | _ => false

/-- An instruction word at the head of its stream: it issues and has its effect, or waits, or traps with no effect. A word that runs ahead
of a release waits where it would trap or would hold its stream back; no word takes the core's queues past their capacity (R8). Log 96:
DEDUCED. -/
def runWord (i : Instr) (st : Stream) (h : Hdr) (body : Body) (s : State) : Host.Outcome State Fault Refusal :=
  let past := (s.strm st).blocked.isSome
  match issue i st h s with
  | .idle s => .next s.tick
  | .inert => .next (s.passInert i)
  | .illegal => .next (if s.olderMay st || past then s.tick else (s.takeTrap st 0x0001 (wordOf i) (s.core.sourceLab i)).tick)
  | .trap c v l => .next (if s.olderMay st || past then s.tick else (s.takeTrap st c v l).tick)
  | .go s1 =>
    match body s1 with
    | .ok r =>
      .next (if (past && r.block) || maxRequests < r.s.core.requests then s.tick else finish i st h s1 r)
    | .error x => .next (if (s.olderMay st || past) && x.traps then s.tick else (s.halt i st x).tick)

end Sys2Proof.Machine
end

