-- ==== Sys2Proof/Machine/Scalar.lean ====
section
/-! DEFINITION. The scalar words of the C-stream that write a register from registers and an immediate (R283, R291, R303, R305, R311,
R323, R326, R335, R341, R342, R344, R347, R348, R351, R384). -/

namespace Sys2Proof.Machine
open Sys2Proof

/-- A word waits until every older word that writes one of its registers has retired (R299). -/
def Core.ready (k : Core) (rs : List (Fin 64)) : Bool := rs.all fun r => r == 0 || !k.xPend.contains r

/-- The labels of source registers. -/
def Core.labsX (k : Core) (rs : List (Fin 64)) : List Label := rs.map fun r => (k.readX r).lab

/-- ResultLabel of a C-stream word that reads these registers (R197). -/
def State.resultLab (s : State) (rs : List (Fin 64)) : Label := Label.joins (s.clab .c :: s.core.labsX rs)

/-- `xd := f`, where `f` reads the source registers; the result carries ResultLabel (R277, R299). -/
def scalar (rs : List (Fin 64)) (d : Fin 64) (f : Core → W64) : Body := fun s =>
  if s.core.ready (d :: rs) then
    match s.putX d (f s.core) (s.resultLab rs) with
    | .ok s => .ok (After.of s)
    | .error x => .error x
  else .error .stall

/-- The value of a register. -/
def Core.vx (k : Core) (r : Fin 64) : W64 := (k.readX r).val

/-- The amount of a shift: xb[5:0], or the field itself (R347). -/
def shiftAmount (k : Core) (b : Fin 64) (m : Bool) : Nat := if m then b.val else (k.vx b).toNat % 64
def shiftSrcs (a b : Fin 64) (m : Bool) : List (Fin 64) := if m then [a] else [a, b]

/-- R311. -/
def divide (u : Bool) (a b : W64) : W64 :=
  if b = 0 then BitVec.allOnes 64
  else if u then BitVec.ofNat 64 (a.toNat / b.toNat)
  else BitVec.ofInt 64 (a.toInt.tdiv b.toInt)
/-- R344. -/
def remainder (u : Bool) (a b : W64) : W64 :=
  if b = 0 then a
  else if u then BitVec.ofNat 64 (a.toNat % b.toNat)
  else BitVec.ofInt 64 (a.toInt.tmod b.toInt)
/-- The high half of a product (R335). -/
def mulHigh (u : Bool) (a b : W64) : W64 :=
  if u then BitVec.ofNat 64 (a.toNat * b.toNat / 2 ^ 64) else BitVec.ofInt 64 (a.toInt * b.toInt / 2 ^ 64)
/-- `a <= b` in the order that the suffix selects (R7). -/
def leq (u : Bool) (a b : W64) : Bool := if u then decide (a.toNat ≤ b.toNat) else !W64.slt b a
/-- Zero bits above the highest set bit (R303). -/
def leadingZeros (a : W64) : Nat := if a = 0 then 64 else 63 - a.toNat.log2
/-- Set bits (R342). -/
def popCount (a : W64) : Nat := ((List.range 64).filter fun i => a.getLsbD i).length
def bool64 (b : Bool) : W64 := if b then 1 else 0

def execAdd (h : Hdr) (d a b : Fin 64) (s : State) := runWord (.add h d a b) .c h (scalar [a, b] d fun k => k.vx a + k.vx b) s
def execAddImm (h : Hdr) (d a : Fin 64) (i : BitVec 11) (s : State) :=
  runWord (.addImm h d a i) .c h (scalar [a] d fun k => k.vx a + simm i) s
def execSub (h : Hdr) (d a b : Fin 64) (s : State) := runWord (.sub h d a b) .c h (scalar [a, b] d fun k => k.vx a - k.vx b) s
def execMul (h : Hdr) (d a b : Fin 64) (s : State) := runWord (.mul h d a b) .c h (scalar [a, b] d fun k => k.vx a * k.vx b) s
def execMulh (h : Hdr) (d a b : Fin 64) (u : Bool) (s : State) :=
  runWord (.mulh h d a b u) .c h (scalar [a, b] d fun k => mulHigh u (k.vx a) (k.vx b)) s
def execDiv (h : Hdr) (d a b : Fin 64) (u : Bool) (s : State) :=
  runWord (.div h d a b u) .c h (scalar [a, b] d fun k => divide u (k.vx a) (k.vx b)) s
def execRem (h : Hdr) (d a b : Fin 64) (u : Bool) (s : State) :=
  runWord (.rem h d a b u) .c h (scalar [a, b] d fun k => remainder u (k.vx a) (k.vx b)) s
def execAnd (h : Hdr) (d a b : Fin 64) (s : State) := runWord (.and h d a b) .c h (scalar [a, b] d fun k => k.vx a &&& k.vx b) s
def execAndImm (h : Hdr) (d a : Fin 64) (i : BitVec 11) (s : State) :=
  runWord (.andImm h d a i) .c h (scalar [a] d fun k => k.vx a &&& simm i) s
def execOr (h : Hdr) (d a b : Fin 64) (s : State) := runWord (.or h d a b) .c h (scalar [a, b] d fun k => k.vx a ||| k.vx b) s
def execOrImm (h : Hdr) (d a : Fin 64) (i : BitVec 11) (s : State) :=
  runWord (.orImm h d a i) .c h (scalar [a] d fun k => k.vx a ||| simm i) s
def execXor (h : Hdr) (d a b : Fin 64) (s : State) := runWord (.xor h d a b) .c h (scalar [a, b] d fun k => k.vx a ^^^ k.vx b) s
def execXorImm (h : Hdr) (d a : Fin 64) (i : BitVec 11) (s : State) :=
  runWord (.xorImm h d a i) .c h (scalar [a] d fun k => k.vx a ^^^ simm i) s
def execShl (h : Hdr) (d a b : Fin 64) (m : Bool) (s : State) :=
  runWord (.shl h d a b m) .c h (scalar (shiftSrcs a b m) d fun k => k.vx a <<< shiftAmount k b m) s
def execShr (h : Hdr) (d a b : Fin 64) (m : Bool) (s : State) :=
  runWord (.shr h d a b m) .c h (scalar (shiftSrcs a b m) d fun k => k.vx a >>> shiftAmount k b m) s
def execSra (h : Hdr) (d a b : Fin 64) (m : Bool) (s : State) :=
  runWord (.sra h d a b m) .c h (scalar (shiftSrcs a b m) d fun k => (k.vx a).sshiftRight (shiftAmount k b m)) s
def execSlt (h : Hdr) (d a b : Fin 64) (s : State) :=
  runWord (.slt h d a b) .c h (scalar [a, b] d fun k => bool64 (W64.slt (k.vx a) (k.vx b))) s
def execSltImm (h : Hdr) (d a : Fin 64) (i : BitVec 11) (s : State) :=
  runWord (.sltImm h d a i) .c h (scalar [a] d fun k => bool64 (W64.slt (k.vx a) (simm i))) s
def execSltu (h : Hdr) (d a b : Fin 64) (s : State) :=
  runWord (.sltu h d a b) .c h (scalar [a, b] d fun k => bool64 (decide ((k.vx a).toNat < (k.vx b).toNat))) s
def execMin (h : Hdr) (d a b : Fin 64) (u : Bool) (s : State) :=
  runWord (.min h d a b u) .c h (scalar [a, b] d fun k => if leq u (k.vx a) (k.vx b) then k.vx a else k.vx b) s
def execMax (h : Hdr) (d a b : Fin 64) (u : Bool) (s : State) :=
  runWord (.max h d a b u) .c h (scalar [a, b] d fun k => if leq u (k.vx b) (k.vx a) then k.vx a else k.vx b) s
def execClz (h : Hdr) (d a : Fin 64) (s : State) :=
  runWord (.clz h d a) .c h (scalar [a] d fun k => BitVec.ofNat 64 (leadingZeros (k.vx a))) s
def execPopc (h : Hdr) (d a : Fin 64) (s : State) :=
  runWord (.popc h d a) .c h (scalar [a] d fun k => BitVec.ofNat 64 (popCount (k.vx a))) s
def execCsel (h : Hdr) (d a b : Fin 64) (s : State) :=
  runWord (.csel h d a b) .c h (scalar [d, a, b] d fun k => if k.vx d != 0 then k.vx a else k.vx b) s
def execLui (h : Hdr) (d : Fin 64) (i : BitVec 17) (s : State) :=
  runWord (.lui h d i) .c h (scalar [] d fun _ => uimm i <<< 11) s

end Sys2Proof.Machine
end

