-- ==== Sys2Proof/Machine/Control.lean ====
section
/-! DEFINITION. Control flow of the C-stream (R300, R312, R316, R317, R354) and the common-group words of every stream (R301, R315,
R339, R350, R353, R355). -/

namespace Sys2Proof.Machine
open Sys2Proof

/-! ### Branches, jumps, TRAP and ERET -/

def brBody (cc : CC) (a b : Fin 64) (o : BitVec 8) : Body := fun s =>
  if s.core.ready [a, b] then do
    let pc := s.pc .c
    let s ← s.raise .c (Label.joins (s.core.labsX [a, b]))
    .ok { After.of s with next := if cc.holds (s.core.vx a) (s.core.vx b) then some (branchTo pc o) else none }
  else .error .stall
def execBr (h : Hdr) (cc : CC) (a b : Fin 64) (o : BitVec 8) (s : State) := runWord (.br h cc a b o) .c h (brBody cc a b o) s

def jalBody (d : Fin 64) (i : BitVec 17) : Body := fun s =>
  if s.core.ready [d] then do
    let pc := s.pc .c
    let s ← s.putX d (pc + 4) (s.clab .c)
    .ok { After.of s with next := some (branchTo pc i) }
  else .error .stall
def execJal (h : Hdr) (d : Fin 64) (i : BitVec 17) (s : State) := runWord (.jal h d i) .c h (jalBody d i) s

def jalrBody (d a : Fin 64) (i : BitVec 11) : Body := fun s =>
  if s.core.ready [d, a] then do
    let pc := s.pc .c
    let t := (s.core.vx a + simm i) &&& ~~~3#64
    let s ← s.raise .c (s.core.readX a).lab
    let s ← s.putX d (pc + 4) (s.clab .c)
    .ok { After.of s with next := some t }
  else .error .stall
def execJalr (h : Hdr) (d a : Fin 64) (i : BitVec 11) (s : State) := runWord (.jalr h d a i) .c h (jalrBody d a i) s

/-- The software trap, TVAL holding the code (R354). -/
def execTrap (h : Hdr) (i : BitVec 17) (s : State) :=
  runWord (.trap h i) .c h (fun s => .error (.trap 0x0005 (uimm i) (s.clab .c))) s

/-- ERET (R312); with NEST = 0 it is illegal where it stands. -/
def eretBody : Body := fun s =>
  match s.returnFromTrap with
  | .ok r => .ok { After.of r.1 with next := some r.2 }
  | .error x => .error x
def execEret (h : Hdr) (s : State) := runWord (.eret h) .c h eretBody s

/-! ### The common group -/

/-- The words of the M-stream outside the array's commands wait until the older commands have retired, since those may still trap
precisely (R250, R324). Log 96: DEDUCED. -/
def State.mQuiet (s : State) (st : Stream) : Bool := st != .m || s.core.m.infl.isEmpty

/-- Log 96: DEDUCED. -/
def quietly (st : Stream) (f : Body) : Body := fun s => if s.mQuiet st then f s else .error .stall

def execNop (st : Stream) (h : Hdr) (s : State) := runWord (.nop st h) st h (quietly st fun s => .ok (After.of s)) s
/-- The token was taken at issue (R353). -/
def execTkwait (st : Stream) (h : Hdr) (q : Fin 16) (s : State) :=
  runWord (.tkwait st h q) st h (quietly st fun s => .ok (After.of s)) s
/-- The token is signalled at retirement (R353). -/
def execTksig (st : Stream) (h : Hdr) (q : Fin 16) (s : State) :=
  runWord (.tksig st h q) st h (quietly st fun s => .ok { After.of s with sigs := [q.val] }) s

/-- The route changes as the word retires; its own W and S marks use the route in force before it (R16, R355). -/
def trouteBody (i o : Fin 16) : Body := fun s => .ok { After.of s with route := some (i, o) }
def execTroute (st : Stream) (h : Hdr) (i o : Fin 16) (s : State) :=
  runWord (.troute st h i o) st h (quietly st (trouteBody i o)) s

/-- R315: a region over the next `n + 1` words; inside an open region of the stream the word is illegal where it stands (R26). -/
def holdBody (st : Stream) (n : Fin 64) : Body := fun s =>
  .ok (After.of (s.modStrm st fun t => { t with hold := some ⟨n.val + 1, s.clk, t.pc, true, none⟩ }))
def execHold (st : Stream) (h : Hdr) (n : Fin 64) (s : State) := runWord (.hold st h n) st h (quietly st (holdBody st n)) s

/-- The breakpoint trap, TVAL holding the code (R301). -/
def execBrk (st : Stream) (h : Hdr) (c : BitVec 18) (s : State) :=
  runWord (.brk st h c) st h (quietly st fun s => .error (.trap 0x0004 (uimm c) (s.clab st))) s

/-- Abandons the transaction of a lace slot that is SUBMITTED or GRANTED, with record 0x0501 (R227, R350, R352). -/
def State.abandonLace (s : State) : State :=
  let l := s.core.lace
  match l.st with
  | .submitted | .granted => (s.errRec 0x0501 1 s.core.func 0 l.num 0).leaveLace
  | _ => s

end Sys2Proof.Machine
end

