-- ==== Sys2Proof/Machine/Csr.lean ====
section
/-! DEFINITION. The CSRs that csr11 names: what each reads as, the label it carries, and what a write stores (R4, R5, R20, R31, R43,
R85, R88, R104, R116, R118, R120, R123, R141, R195, R242, R249, R306 to R308). -/

namespace Sys2Proof.Machine
open Sys2Proof

/-- The stream whose bank STATUS.BANK selects (R249). -/
def State.bankStream (s : State) : Stream := Stream.ofNum s.core.csr.bankSel

/-- The handle that names a set; a set that no entry holds reads 0 (R194; log entry 25). Log 25: DEDUCED. -/
def State.handleOf (s : State) (l : Label) : Nat := (s.handle? l).getD 0

/-- The fields of MROWPROG and of NSTCUR: their Reserved bits read as zero (R5, R116, R118). -/
def rowProgBits : W64 := 0x01FFFFFF00000000#64
def nstCurBits : W64 := 0xF000FFFFFFFFFFFF#64
def Plane.wmk (p : Plane) : Nat := (if p.dirty then 256 else 0) + p.wm

/-- The value of a CSR (R249 and the rules of each layout). Log 25: DEDUCED; log 35: DEDUCED. -/
def State.csrVal (s : State) (c : Csr) : W64 :=
  let k := s.core
  let r := k.csr
  let b := (s.strm s.bankStream).bank
  match c with
  | .status => BitVec.ofNat 64 (k.tstopBits * 2 ^ 16 + r.deleg.toNat * 2 ^ 12 + r.bankSel % 4 * 2 ^ 8 + if r.nest then 1 else 0)
  | .cause => b.cause
  | .epc => b.epc
  | .tval => b.tval
  | .tvec => r.tvec
  | .scratch => r.scratch
  | .clabel => BitVec.ofNat 64 (s.handleOf k.m.clab * 2 ^ 36 + s.handleOf k.v.clab * 2 ^ 24 + s.handleOf k.a.clab * 2 ^ 12 +
      s.handleOf k.c.clab)
  | .taskid => BitVec.ofNat 64 ((k.task.map fun t => t.graph % 65536 * 2 ^ 48 + t.queue % 4096 * 2 ^ 36 + t.idx % 2 ^ 32).getD 0)
  | .lcore => BitVec.ofNat 64 ((k.task.map (·.lcore)).getD 0)
  | .tstep => BitVec.ofNat 64 s.tstep
  | .stitchset => r.stitchset.setWidth 64
  | .budget => (k.task.map fun t => s.parts[Fin.ofNat 16 t.part].budget).getD 0
  | .holdlim => BitVec.ofNat 64 (Config.holdLimit * 2 ^ 16 + r.holdPeak % 512)
  | .fmtlvl => BitVec.ofNat 64 k.fmtq.length
  | .wmk0 => BitVec.ofNat 64 k.plane0.wmk
  | .wmk1 => BitVec.ofNat 64 k.plane1.wmk
  | .mrowprog => r.mrowprog &&& rowProgBits
  | .nstcur => r.nstcur &&& nstCurBits
  | .weltstat => r.weltstat
  | .vtype => r.vtype
  | .stg => BitVec.ofNat 64 (r.iter % 65536 * 2 ^ 16 + r.rrb % 16 * 2 ^ 12 + r.act.toNat)
  | .bankstall => r.bankstall
  | .skipspec => if r.skipspec then 1 else 0

/-- The label that a CSR carries (R195, R249, R307). -/
def State.csrLab (s : State) (c : Csr) : Label :=
  match c with
  | .cause | .epc | .tval => (s.strm s.bankStream).bank.lab
  | .clabel => s.clab .c
  | _ => s.core.csr.labOf c

/-- Csr registers whose every field is read-only: a CSRW to one is ignored (R4, R43). Log 13: DEDUCED. -/
def csrReadOnly : Csr → Bool
  | .clabel | .taskid | .lcore | .tstep | .budget | .fmtlvl | .wmk0 | .wmk1 | .mrowprog | .nstcur => true
  | _ => false

def State.modCsr (s : State) (f : Csrs → Csrs) : State := { s with core := { s.core with csr := f s.core.csr } }
def State.modBank (s : State) (f : Bank → Bank) : State := s.modStrm s.bankStream fun t => { t with bank := f t.bank }

/-- Writing 1 to TSTOP bit `n`, for a stopped stream 1 to 3, resumes it (R249). -/
def State.resumeBits (s : State) (v : W64) : State :=
  [Stream.a, .v, .m].foldl (fun s st =>
    if v.getLsbD (16 + st.num) && (s.strm st).stop.stopped then (s.fileStop st).resumeStream st else s) s

/-- The fields that CSRW writes (R4, R5). Log 13: DEDUCED. -/
def State.csrStore (s : State) (c : Csr) (v : W64) : State :=
  match c with
  | .status =>
    (s.resumeBits v).modCsr fun r => { r with
      deleg := BitVec.ofNat 4 (v.toNat / 2 ^ 13 % 8 * 2), bankSel := v.toNat / 2 ^ 8 % 4 }
  | .cause => s.modBank fun b => { b with cause := v &&& 0xFFFF#64 }
  | .epc => s.modBank fun b => { b with epc := v }
  | .tval => s.modBank fun b => { b with tval := v }
  | .tvec => s.modCsr fun r => { r with tvec := v &&& ~~~3#64 }
  | .scratch => s.modCsr fun r => { r with scratch := v }
  | .stitchset => s.modCsr fun r => { r with stitchset := v.setWidth 4 }
  | .holdlim => s.modCsr fun r => { r with holdPeak := v.toNat % 512 }
  | .weltstat => s.modCsr fun r => { r with weltstat := if v.getLsbD 63 then r.weltstat &&& ~~~(1#64 <<< 63) else r.weltstat }
  | .vtype => s.modCsr fun r => { r with vtype := v &&& 0xFF#64 }
  | .stg => s.modCsr fun r => { r with rrb := v.toNat / 2 ^ 12 % 16, act := v.setWidth 8 }
  | .bankstall => s.modCsr fun r => { r with bankstall := v }
  | .skipspec => s.modCsr fun r => { r with skipspec := r.skipspec && !v.getLsbD 0 }
  | _ => s

/-- The label of a written CSR joins the source's and CLABEL (R306). Log 13: DEDUCED. -/
def State.csrJoin (s : State) (c : Csr) (l : Label) : Except Halt State :=
  if csrReadOnly c then .ok s
  else match s.need (Label.join (s.csrLab c) l) with
    | .error x => .error x
    | .ok s =>
      match c with
      | .cause | .epc | .tval => .ok (s.modBank fun b => { b with lab := Label.join b.lab l })
      | _ => .ok (s.modCsr fun r => r.joinLab c l)

def csrrBody (d : Fin 64) (c : Csr) : Body := fun s =>
  if s.core.ready [d] then do
    let s ← s.putX d (s.csrVal c) (Label.join (s.csrLab c) (s.clab .c))
    .ok (After.of s)
  else .error .stall
def execCsrr (h : Hdr) (d : Fin 64) (c : Csr) (s : State) := runWord (.csrr h d c) .c h (csrrBody d c) s

/-- R306: the old value and the old label go to xd; the label is joined in the bank that the word wrote. Log 13: DEDUCED. -/
def csrwBody (d a : Fin 64) (c : Csr) : Body := fun s =>
  if s.core.ready [d, a] then do
    let old := s.csrVal c
    let oldLab := s.csrLab c
    let v := (s.core.readX a).val
    let s ← s.csrJoin c (Label.join (s.core.readX a).lab (s.clab .c))
    let s ← (s.csrStore c v).putX d old oldLab
    .ok (After.of s)
  else .error .stall
def execCsrw (h : Hdr) (d a : Fin 64) (c : Csr) (s : State) := runWord (.csrw h d a c) .c h (csrwBody d a c) s

end Sys2Proof.Machine
end

