-- ==== Sys2Proof/Machine/CMem.lean ====
section
/-! DEFINITION. The C-stream's accesses to memory and scratchpad: LD, ST, AMO, CAS, LBGET, LBCHK, FENCE and QALIGN (R201, R213, R216,
R226, R227, R266, R267, R289, R302, R313, R319, R320, R322, R343, R349). -/

namespace Sys2Proof.Machine
open Sys2Proof

/-! ### What an access by virtual address reaches -/

/-- A run of an access that one translation or one declared tile covers: its page or tile, virtual and physical address, length, whether
its page has policy N, the label of its frame, and the level of its leaf. -/
structure Piece where
  grp : Nat
  va : Nat
  pa : Nat
  len : Nat
  polN : Bool
  tag : Label
  lvl : Nat
  deriving DecidableEq, Repr, Inhabited

/-- A translation fault, or an uncorrectable entry, as the end of a word (R188, R192). -/
def TErr.halt (x : TErr) (va : W64) (lab : Label) : Halt :=
  match x with
  | .fault c => .trap c va lab
  | .poisoned pa => .viral pa

/-- The level of the leaf that an address translates through. -/
def State.leafLevel (s : State) (p : Pipe) (va : Nat) : Nat :=
  match s.core.task with
  | some t => ((s.cachedLeaf p t.space va).map (·.lvl)).getD 0
  | none => 0

/-- Every page of an access translates, in order (R188). -/
def State.pieces (s : State) (p : Pipe) (k : Acc) (lab : Label) : List (Nat × Nat) → Except Halt (State × List Piece)
  | [] => .ok (s, [])
  | (va, n) :: r =>
    match s.translate p (BitVec.ofNat 64 va) k with
    | .error x => .error (x.halt (BitVec.ofNat 64 va) lab)
    | .ok (s, pa, pol) =>
      match State.pieces s p k lab r with
      | .error x => .error x
      | .ok (s', l) =>
        .ok (s', ⟨va / 4096 * 2 ^ 20, va, pa, n, pol, s.readLab pa, s.leafLevel p va⟩ :: l)

/-- The declared tile that holds a byte. -/
def Lace.tileOf (l : Lace) (va : Nat) : Option (Nat × LTile) :=
  ((List.range l.tiles.length).zip l.tiles).find? fun x => decide (x.2.va.toNat ≤ va) && decide (va < x.2.va.toNat + 256)

/-- The runs of an access within 256-byte tiles. -/
def tileRuns (va n : Nat) : List (Nat × Nat) :=
  if n = 0 then []
  else
    let first := va / 256
    (List.range ((va + n - 1) / 256 - first + 1)).map fun i =>
      let lo := max va ((first + i) * 256)
      (lo, min (va + n) ((first + i + 1) * 256) - lo)

/-- The pieces of an access in a body, each in its declared tile, which is a part of its own (R166, R226); any byte outside them is an
undeclared access (R227). -/
def Lace.pieces (l : Lace) (ea : W64) (lab : Label) : List (Nat × Nat) → Except Halt (List Piece)
  | [] => .ok []
  | (va, n) :: r =>
    match l.tileOf va with
    | none => .error (.trap 0x0029 ea lab)
    | some (i, t) =>
      match Lace.pieces l ea lab r with
      | .error x => .error x
      | .ok ps => .ok (⟨i * 2 ^ 20, va, t.pa + (va - t.va.toNat), n, t.polN, t.tag, 0⟩ :: ps)

/-- An access of the C-stream by virtual address: through the declared tiles in a body, by translation elsewhere (R187, R226). -/
def State.access (s : State) (k : Acc) (ea : W64) (n : Nat) (lab : Label) : Except Halt (State × List Piece) :=
  if s.core.lace.st = .granted then
    match s.core.lace.pieces ea lab (tileRuns ea.toNat n) with
    | .ok l => .ok (s, l)
    | .error x => .error x
  else s.pieces .c k lab (pageRuns ea.toNat n)

/-- A strap port is up (R270). -/
def State.strapsUp (s : State) : Bool := s.lanes.toList.any (· != 0)

/-- A far address that an access may use: a window in use, a module that is reached, the scheduler window on a dispatch core
(R266, R267, R270). -/
def State.farOk (s : State) (pa : Nat) : Bool :=
  match paClass pa with
  | 0 => true
  | 1 => (s.hwinOf (winOf pa)).en
  | 2 => s.ownPeer pa || s.strapsUp
  | _ => s.core.dispatch

/-- The bad-frame fault of a piece that reaches a far address it may not (R266, R267, R270). -/
def State.checkFar (s : State) (ps : List Piece) (lab : Label) : Except Halt Unit :=
  match ps.find? fun p => !s.farOk p.pa with
  | some p => .error (.trap (cBadFrame p.lvl) (BitVec.ofNat 64 p.va) lab)
  | none => .ok ()

/-- A dispatch core reaches frames with the empty label only, those of the module reached as a peer among them (R213, R266). -/
def State.checkDispatch (s : State) (ps : List Piece) (lab : Label) : Except Halt Unit :=
  match ps.find? fun p => s.core.dispatch && (paClass p.pa == 0 || paClass p.pa == 2) && p.tag != 0 with
  | some p => .error (.trap 0x0020 (BitVec.ofNat 64 p.va) lab)
  | none => .ok ()

/-- The subset rule for every device frame written (R201, R216). Log 17: DEDUCED; log 30: DEDUCED. -/
def checkFrames (d : Label) (ps : List Piece) (lab : Label) : Except Halt Unit :=
  match ps.find? fun p => paClass p.pa == 0 && !Label.sub d p.tag with
  | some p => .error (.trap 0x0020 (BitVec.ofNat 64 p.va) lab)
  | none => .ok ()

def Piece.locs (p : Piece) : List Loc := (List.range p.len).map fun i => .mem (p.pa + i)
def pieceNeed (ps : List Piece) : List (Nat × Loc × Bool) := ps.flatMap fun p => p.locs.map fun l => (p.grp, l, p.polN)
def pieceBytes (ps : List Piece) : List (Nat × Loc) :=
  ps.flatMap fun p => (List.range p.len).map fun i => (p.va + i, .mem (p.pa + i))

/-- The first poisoned byte of an access (R157). Log 16: DEDUCED. -/
def State.poisoned (s : State) (st : Stream) (acq : Bool) (ps : List Piece) : Option Nat :=
  (ps.flatMap fun p => (List.range p.len).filterMap fun i =>
    if s.byteBad st s.core.next acq (.mem (p.pa + i)) p.polN then some (p.va + i) else none).head?

/-- Log 16: DEDUCED. -/
def State.checkPoison (s : State) (st : Stream) (acq : Bool) (ps : List Piece) (lab : Label) : Except Halt Unit :=
  match s.poisoned st acq ps with
  | some va => .error (.trap 0x0014 (BitVec.ofNat 64 va) lab)
  | none => .ok ()

/-- The label of the bytes of an access: of their frames, or of the function of their host window (R277). Log 17: DEDUCED. -/
def pieceLab (ps : List Piece) : Label := Label.joins (ps.map (·.tag))
def farPieces (ps : List Piece) : Bool := ps.any fun p => paClass p.pa != 0
/-- The lines of device memory that an access touches. -/
def pieceLines (ps : List Piece) : List Nat :=
  (ps.filter fun p => paClass p.pa == 0).flatMap fun p =>
    (List.range ((p.pa + p.len - 1) / 64 - p.pa / 64 + 1)).map (p.pa / 64 + ·)

/-- A refused write of the stream may be reported at a system-scope release or acquire, so nothing younger issues until it has performed
(R209, R214). Log 15: DEDUCED. -/
def State.mayRefuse (s : State) (st : Stream) : Bool :=
  let t := s.strm st
  !t.posted.isEmpty || !t.refused.isEmpty || t.sq.any fun e => !(farBytes e.kind.bytes).isEmpty

/-- Entries enter the queues of a stream (R165). -/
def State.pushLq (s : State) (st : Stream) (e : LEnt) : State := s.modStrm st fun t => { t with lq := t.lq ++ [e] }
/-- Log 18: DEDUCED. -/
def State.pushSq (s : State) (st : Stream) (e : SEnt) : State := s.modStrm st fun t => { t with sq := t.sq ++ [e] }
/-- A destination register waits for its load (R299). -/
def Core.pend (k : Core) (d : Fin 64) : Core := if d = 0 then k else { k with xPend := d :: k.xPend }

/-- Locations of scratchpad bytes of the focus core. -/
def State.scrLocs (s : State) (a n : Nat) : List Loc := (List.range n).map fun i => .scr s.core.id (a + i)

/-- The scratchpad-range check of LD and ST (R144). -/
def State.scratchOk (s : State) (ea n : Nat) : Bool := !s.core.dispatch && decide (ea + n ≤ Config.scratchBytes)

/-! ### LD (R322) -/

/-- A scratchpad load: the segments' labels join the result; a line that its bank reports as uncorrectable traps as it does for the
V-stream (R356). Log 16: DEDUCED. -/
def ldScratch (d : Fin 64) (a : Fin 64) (ea : W64) (n : Nat) : Body := fun s => do
  let lab := s.resultLab [a]
  if !s.scratchOk ea.toNat n then .error (.trap 0x0011 ea lab)
  else
    let l := Label.join lab (s.core.segsLabel ea.toNat n)
    let s ← s.need l
    let id := s.core.next
    let need := (s.scrLocs ea.toNat n).map fun x => (0, x, true)
    if need.any fun x => s.byteBad .c id false x.2.1 true then .error (.trap 0x0014 (ea &&& ~~~63#64) l)
    else .ok (After.later ((s.pushLq .c ⟨id, id, .load need (need.map fun _ => none) (.x d l), none⟩).modCore fun k => k.pend d))

/-- A load from memory, plain or acquiring. Far loads, and system-scope ones that may report a refusal, hold back the stream. The labels
of the bytes join the result as the load reads them (R203). Log 17: DEDUCED. -/
def ldMem (d : Fin 64) (a : Fin 64) (ea : W64) (n : Nat) (c : Fin 4) : Body := fun s => do
  let lab := s.resultLab [a]
  if 2 ≤ c.val && ea.toNat % n != 0 then .error (.trap 0x0010 ea lab)
  else
    let (s, ps) ← s.access .read ea n lab
    s.checkFar ps lab
    s.checkDispatch ps lab
    let l := Label.join lab (pieceLab ps)
    s.checkPoison .c (ldScope c).isSome ps l
    let s ← s.need l
    let id := s.core.next
    let need := pieceNeed ps
    let block := farPieces ps || (c.val == 3 && s.mayRefuse .c)
    let s := (s.pushLq .c ⟨id, id, .load need (need.map fun _ => none) (.x d lab), ldScope c⟩).modCore fun k => k.pend d
    .ok { After.later s with block := block }

def ldBody (d a : Fin 64) (z c : Fin 4) (o : BitVec 7) : Body := fun s =>
  if s.core.ready [d, a] then do
    let n := accSize z
    let ea := memEa (s.core.vx a) n o
    let s ← s.raise .c (s.core.readX a).lab
    if c = 0 then ldScratch d a ea n s else ldMem d a ea n c s
  else .error .stall
def execLd (h : Hdr) (d a : Fin 64) (z c : Fin 4) (o : BitVec 7) (s : State) :=
  runWord (.ld h d a z c o) .c h (ldBody d a z c o) s

/-! ### ST (R349) -/

/-- A scratchpad store retires when it has performed in its bank. Log 18: DEDUCED. -/
def stScratch (d a : Fin 64) (ea : W64) (n : Nat) : Body := fun s => do
  let lab := s.resultLab [a, d]
  let s ← s.need lab
  if !s.scratchOk ea.toNat n then .error (.trap 0x0011 ea lab)
  else if !s.core.segsAllow lab ea.toNat n then .error (.trap 0x0020 ea lab)
  else
    let id := s.core.next
    let bs := (s.scrLocs ea.toNat n).zip (natLe n (s.core.vx d).toNat)
    .ok (After.later (s.pushSq .c ⟨id, id, .store bs true false none [], lab, ea, [], none⟩))

/-- The runs of a store above device memory: bytes that follow one another in one window are one write (R170, R212, R267). -/
def farRuns : List Piece → List FarRun
  | [] => []
  | p :: r =>
    if paClass p.pa = 0 then farRuns r
    else match farRuns r with
      | f :: t =>
        if p.pa + p.len = f.pa && p.pa / 2 ^ 32 == f.pa / 2 ^ 32 then ⟨p.pa, BitVec.ofNat 64 p.va, p.len + f.len⟩ :: t
        else ⟨p.pa, BitVec.ofNat 64 p.va, p.len⟩ :: f :: t
      | [] => [⟨p.pa, BitVec.ofNat 64 p.va, p.len⟩]

/-- A store: one entry, with its bytes and its runs above device memory (R165, R170). -/
def State.pushStore (s : State) (st : Stream) (id : Nat) (rel : Option Scope) (ready whole : Bool) (lab : Label)
    (ps : List Piece) (bs : List Byte) : State :=
  let q := s.core.next
  let va := BitVec.ofNat 64 ((ps.head?.map (·.va)).getD 0)
  (s.pushSq st ⟨id, q, .store ((ps.flatMap (·.locs)).zip bs) ready whole rel [], lab, va, farRuns ps, none⟩).modCore fun k =>
    { k with next := q + 1 }
/-- Store entries in order; the first is the release, and the rest stand behind it (R281, R297). -/
def State.pushStores (s : State) (st : Stream) (id : Nat) (rel : Option Scope) (ready whole : Bool) (lab : Label) :
    List (List Piece × List Byte) → State
  | [] => s
  | (ps, bs) :: r => State.pushStores (s.pushStore st id rel ready whole lab ps bs) st id none ready whole lab r

/-- A store to memory. A release at system scope has done its work as it enters the store queue (R19); while a refusal may be
reported as it performs, only words that can be taken back issue past it (R209, R390). Log 15: DEDUCED; log 17: DEDUCED. -/
def stMem (d a : Fin 64) (ea : W64) (n : Nat) (c : Fin 4) : Body := fun s => do
  let lab := s.resultLab [a, d]
  let s ← s.need lab
  if 2 ≤ c.val && ea.toNat % n != 0 then .error (.trap 0x0010 ea lab)
  else
    let (s, ps) ← s.access .write ea n lab
    s.checkFar ps lab
    s.checkDispatch ps lab
    checkFrames lab ps lab
    let s' := (s.dropRdc (pieceLines ps)).pushStore .c s.core.next (ldScope c) true false lab ps (natLe n (s.core.vx d).toNat)
    .ok { After.of s' with block := c.val == 3 && s.mayRefuse .c, ahead := true }

def stBody (d a : Fin 64) (z c : Fin 4) (o : BitVec 7) : Body := fun s =>
  if s.core.ready [d, a] then do
    let n := accSize z
    let ea := memEa (s.core.vx a) n o
    let s ← s.raise .c (s.core.readX a).lab
    if c = 0 then stScratch d a ea n s else stMem d a ea n c s
  else .error .stall
def execSt (h : Hdr) (d a : Fin 64) (z c : Fin 4) (o : BitVec 7) (s : State) :=
  runWord (.st h d a z c o) .c h (stBody d a z c o) s

/-! ### Atomics at the home (R289, R302) -/

/-- AMO, or CAS where `op` is none: checks in the order of the entries, then one entry in both queues. Log 17: DEDUCED. -/
def atomBody (srcs : List (Fin 64)) (d a b : Fin 64) (sz : Nat) (op : Option AtOp) (c : Scope) : Body := fun s =>
  if s.core.ready (d :: srcs) then do
    let ea := s.core.vx a
    let s ← s.raise .c (s.core.readX a).lab
    let lab := s.resultLab srcs
    if ea.toNat % sz != 0 then .error (.trap 0x0010 ea lab)
    else
      let (s, ps) ← s.access .rdwr ea sz lab
      match ps with
      | [p] =>
        if paClass p.pa = 1 || paClass p.pa = 3 then .error (.trap (cBadFrame p.lvl) ea lab)
        else
          s.checkFar ps lab
          s.checkDispatch ps lab
          let l := Label.join lab p.tag
          checkFrames l ps lab
          if paClass p.pa == 2 && !Label.sub l p.tag then .error (.trap 0x0020 ea lab)
          else if s.poison.contains (lineOf p.pa) && paClass p.pa == 0 then .error (.trap 0x0014 ea l)
          else
            let s ← s.need l
            let id := s.core.next
            let r : AtReq := .amo (.mem p.pa) sz op (s.core.vx d) (s.core.vx b) d lab c ea
            let block := farPieces ps || (c == .sy && s.mayRefuse .c)
            let s := (s.dropRdc (pieceLines ps)).pushLq .c ⟨id, id, .atomic, some c⟩
            let s := (s.pushSq .c ⟨id, id, .atomic r, l, ea, [], none⟩).modCore fun k => k.pend d
            .ok { After.later s with block := block }
      | _ => .error .stall
  else .error .stall

def execAmoW (h : Hdr) (d a b : Fin 64) (p : AtOp) (c : Scope) (s : State) :=
  runWord (.amoW h d a b p c) .c h (atomBody [a, b] d a b 4 (some p) c) s
def execAmoD (h : Hdr) (d a b : Fin 64) (p : AtOp) (c : Scope) (s : State) :=
  runWord (.amoD h d a b p c) .c h (atomBody [a, b] d a b 8 (some p) c) s
def execCas (h : Hdr) (d a b : Fin 64) (z : Bool) (c : Scope) (s : State) :=
  runWord (.cas h d a b z c) .c h (atomBody [d, a, b] d a b (if z then 8 else 4) none c) s

/-! ### Labels (R319, R320) -/

def execLbget (h : Hdr) (d a : Fin 64) (s : State) :=
  runWord (.lbget h d a) .c h (fun s => scalar [a] d (fun k => BitVec.ofNat 64 (s.handleOf (k.readX a).lab)) s) s

/-- Tests R201 for a store without storing. LBCHK accesses no data, and raises no CLABEL (R319; log entry 26). Log 26: DEDUCED. -/
def lbchkBody (d a b : Fin 64) : Body := fun s =>
  if s.core.ready [d, a, b] then do
    let lab := s.resultLab [a, b]
    let ea := s.core.vx b
    let (s, ps) ← s.pieces .c .write lab [(ea.toNat, 1)]
    let ok := ps.all fun p => if paClass p.pa = 0 then Label.sub lab p.tag else lab == 0
    let s ← s.putX d (bool64 ok) lab
    .ok (After.of s)
  else .error .stall
def execLbchk (h : Hdr) (d a b : Fin 64) (s : State) := runWord (.lbchk h d a b) .c h (lbchkBody d a b) s

/-! ### Markers (R313, R343, R390) -/

/-- A marker in both queues; the word retires when it has left them. A release fence does not stop younger loads (R390): while it may report
a refused write, the words that can be taken back issue past it. Log 15: DEDUCED. -/
def marker (st : Stream) (k : LKind) (k' : SKind) (sc : Scope) : Body := fun s =>
  let id := s.core.next
  let rl := match k with | .fence .rl _ => true | _ => false
  let s' := (s.pushLq st ⟨id, id, k, none⟩).pushSq st ⟨id, id, k', 0, 0, [], none⟩
  .ok { After.later s' with block := sc == .sy && s.mayRefuse st, ahead := rl && st == .c }

def execFence (h : Hdr) (n : FKind) (c : Scope) (s : State) :=
  runWord (.fence h n c) .c h (marker .c (.fence n c) (.fence n c) c) s
def execQalign (h : Hdr) (s : State) := runWord (.qalign h) .c h (marker .c .qalign .qalign .co) s

end Sys2Proof.Machine
end

