-- ==== Sys2Proof/Machine/CSys.lean ====
section
/-! DEFINITION. The C-stream's words over the core's queues, nest slots and rings: FMTQ, CQPUT, NSTSET, RGSET, RGQRY (R23, R113, R119,
R147, R148, R175, R304, R314, R340, R345, R346). -/

namespace Sys2Proof.Machine
open Sys2Proof

/-- A core-scope release of the C-stream's older entries may perform (R171, R175). -/
def State.cReleased (s : State) : Bool := s.core.c.olderBoth s.core.next

/-- FMTQ (R314): the format queue holds sixteen words. -/
def fmtqBody (a : Fin 64) : Body := fun s =>
  if s.core.ready [a] && s.cReleased && decide (s.core.fmtq.length < 16) then do
    let l := s.resultLab [a]
    let s ← s.need l
    .ok (After.of (s.modCore fun k => { k with fmtq := k.fmtq ++ [⟨k.vx a, l⟩] }))
  else .error .stall
def execFmtq (h : Hdr) (a : Fin 64) (s : State) := runWord (.fmtq h a) .c h (fmtqBody a) s

/-- CQPUT (R304): `q` selects the queue to V. A push to a stream that has ended is discarded. -/
def cqputBody (a : Fin 64) (q : Bool) : Body := fun s =>
  let k := s.core
  if !(k.ready [a] && s.cReleased) then .error .stall
  else if (k.strm (if q then .v else .a)).ended then .ok (After.of s)
  else if 16 ≤ (if q then k.cqV else k.cqA).length then .error .stall
  else do
    let l := s.resultLab [a]
    let s ← s.need l
    .ok (After.of (s.modCore fun k =>
      if q then { k with cqV := k.cqV ++ [⟨k.vx a, l⟩] } else { k with cqA := k.cqA ++ [⟨k.vx a, l⟩] }))
def execCqput (h : Hdr) (a : Fin 64) (q : Bool) (s : State) := runWord (.cqput h a q) .c h (cqputBody a q) s

/-- The index of a nest field: level `l` field `f` at `6 l + f`, slot-wide field `f` at `36 + f` (R112). -/
def nestIx (l f : Nat) : Fin 51 := Fin.ofNat 51 (if l = 6 then 36 + f else 6 * l + f)
/-- A field of a shadow copy, with the label that its slot takes (R113). -/
def Nest.put (n : Nest) (l f : Nat) (v : W64) (lab : Label) : Nest := ⟨n.f.set (nestIx l f) v, Label.join n.lab lab⟩
def Core.putShadow (k : Core) (t : Fin 8) (l f : Nat) (v : W64) (lab : Label) : Core :=
  { k with shadow := k.shadow.set t (k.shadow[t].put l f v lab) }

/-- NSTSET (R340). -/
def nstsetBody (d : Fin 64) (t v : Fin 8) (f : Fin 32) : Body := fun s =>
  if s.core.ready [d] then do
    let l := s.resultLab [d]
    let s ← s.need (Label.join s.core.shadow[t].lab l)
    .ok (After.of (s.modCore fun k => k.putShadow t v.val f.val (k.vx d) l))
  else .error .stall
def execNstset (h : Hdr) (d : Fin 64) (t v : Fin 8) (f : Fin 32) (s : State) :=
  runWord (.nstset h d t v f) .c h (nstsetBody d t v f) s

/-- The legal values of a ring field (R147, R150). -/
def ringLegal (f : RgFld) (v : W64) : Bool :=
  let n := v.toNat
  match f with
  | .base => n % 64 == 0 && decide (n ≤ 393152)
  | .logsz => decide (6 ≤ n) && decide (n ≤ 16)
  | .count => decide (1 ≤ n) && decide (n ≤ 4096)
  | .peer => decide (n < 2 ^ 16) && n / 2 ^ 14 != 3
  | .reset => n == 0

/-- A field written; RESET sets the three counts to 0 (R147, R148). A ring whose fields change makes the checks of a first claim anew
(R150). -/
def Ring.putField (g : Ring) (f : RgFld) (v : W64) : Ring :=
  match f with
  | .base => { g with base := v.toNat, checked := false }
  | .logsz => { g with logsz := v.toNat, checked := false }
  | .count => { g with count := v.toNat, checked := false }
  | .peer => { g with peer := v.toNat, checked := false }
  | .reset => { g with claimed := 0, filled := 0, freed := 0 }

/-- The segments that a ring's slots cover (R346). Log 45: DEDUCED. -/
def Ring.segs (g : Ring) : List Nat := (segsOf g.base (g.count * g.slotSize)).filter fun i => decide (i < 96)

/-- RGSET (R346): the ring's checks, then the label of its placement. A claim or release of another stream acts in one step, so RESET
never finds one part-way. Log 45: DEDUCED. -/
def rgsetBody (d : Fin 64) (r : Fin 16) (f : RgFld) : Body := fun s =>
  if s.core.ready [d] then
    let g := s.core.ring r
    let v := s.core.vx d
    let l := s.resultLab [d]
    let g' := g.putField f v
    let placed := match f with | .base | .logsz | .count => g' | _ => g
    if !ringLegal f v || (f != .reset && g.claimed != g.freed) then .error (.trap 0x0012 (BitVec.ofNat 64 r.val) l)
    else
      match s.need l with
      | .error x => .error x
      | .ok s =>
        if !(placed.segs.all fun i => Label.sub l (s.core.segLabel i)) then .error (.trap 0x0020 (BitVec.ofNat 64 r.val) l)
        else .ok (After.of (s.modCore fun k => k.setRing r g'))
  else .error .stall
def execRgset (h : Hdr) (d : Fin 64) (r : Fin 16) (f : RgFld) (s : State) :=
  runWord (.rgset h d r f) .c h (rgsetBody d r f) s

/-- The count that RGQRY names (R345). -/
def Ring.countOf (g : Ring) : RgCnt → W32
  | .clm => g.claimed | .fil => g.filled | .fre => g.freed
/-- The CLABELs of a core's four streams. -/
def Core.clabs (k : Core) : Label := Label.joins (streams.map fun st => (k.strm st).clab)
/-- The label of a count: the CLABELs of the streams that move it (R345). -/
def State.countLab (s : State) (g : Ring) : Label :=
  if g.mode = 0 then s.core.clabs
  else match s.launchCore g.peerCore with
    | some p => Label.join s.core.clabs (s.coreOf p).clabs
    | none => s.core.clabs

/-- RGQRY (R345). -/
def rgqryBody (d : Fin 64) (r : Fin 16) (n : RgCnt) : Body := fun s =>
  if s.core.ready [d] then do
    let g := s.core.ring r
    let s ← s.putX d ((g.countOf n).setWidth 64) (s.countLab g)
    .ok (After.of s)
  else .error .stall
def execRgqry (h : Hdr) (d : Fin 64) (r : Fin 16) (n : RgCnt) (s : State) :=
  runWord (.rgqry h d r n) .c h (rgqryBody d r n) s

end Sys2Proof.Machine
end

