-- ==== Sys2Proof/Machine/Lace.lean ====
section
/-! DEFINITION. Laced transactions (R217 to R229): the four lace words, the lacers' batches, the merge, the grants and the return of
tiles. -/

namespace Sys2Proof.Machine
open Sys2Proof

/-! ### The four words (R220) -/

def State.setLace (s : State) (f : Lace → Lace) : State := s.modCore fun k => { k with lace := f k.lace }

/-- LCDECL (R220): a repeated tile counts once, a seventeenth faults. -/
def lcdeclBody (a : Fin 64) : Body := fun s =>
  if s.core.ready [a] then do
    let l := s.core.lace
    let va := s.core.vx a
    let lab := s.resultLab [a]
    if !(l.st == .idle || l.st == .declaring) then .error (.trap 0x0028 va lab)
    else
      let s ← s.raise .c (s.core.readX a).lab
      if va.toNat % 256 != 0 then .error (.trap 0x0028 va lab)
      else
        match s.translate .c va .rdwr with
        | .error x => .error (x.halt va lab)
        | .ok (s, pa, pol) =>
          let slot : Lace := { l with st := .declaring, lab := s.clab .c }
          if 2 ^ 50 ≤ pa then .error (.trap 0x0028 va lab)
          else if l.tiles.any fun t => t.pa == pa then .ok (After.of (s.setLace fun _ => slot))
          else if 16 ≤ l.tiles.length then .error (.trap 0x0028 va lab)
          else .ok (After.of (s.setLace fun _ => { slot with tiles := l.tiles ++ [⟨va, pa, pol, 0⟩] }))
  else .error .stall
def execLcdecl (h : Hdr) (a : Fin 64) (s : State) := runWord (.lcdecl h a) .c h (lcdeclBody a) s

/-- LCSUB (R220): the slot goes to the lacer, and the word waits until its beat closes. -/
def lcsubBody (d a : Fin 64) : Body := fun s =>
  if s.core.ready [d, a] then do
    let t := s.core.vx a
    let lab := s.resultLab [a]
    if s.core.lace.st != .declaring then .error (.trap 0x0028 t lab)
    else
      let s ← s.raise .c (s.core.readX a).lab
      let n := t.toNat
      if n != 0 && (decide (n < s.tstep) || decide (s.tstep + 65535 < n)) then .error (.trap 0x0028 t lab)
      else
        let b := if n = 0 then s.tstep else n
        let s := s.setLace fun l => { l with beat := b, sub := .sent n b, rd := d, lab := s.clab .c }
        .ok { After.later (s.modCore fun k => k.pend d) with block := true }
  else .error .stall
def execLcsub (h : Hdr) (d a : Fin 64) (s : State) := runWord (.lcsub h d a) .c h (lcsubBody d a) s

/-- LCWAIT (R165, R220, R226): the first word of a region, an acquire entry of the load queue; the word retires when the entry has
performed, and the region's clocks count from there. -/
def lcwaitBody : Body := fun s =>
  match s.core.c.hold with
  | some h =>
    if s.core.lace.st != .submitted || !h.first then .error (.trap 0x0028 0 (s.clab .c))
    else
      let id := s.core.next
      let s := s.pushLq .c ⟨id, id, .lcwait, some .dv⟩
      .ok { After.later (s.modStrm .c fun t => { t with hold := some { h with wait := some id } }) with block := true }
  | none => .error (.trap 0x0028 0 (s.clab .c))
def execLcwait (h : Hdr) (s : State) := runWord (.lcwait h) .c h lcwaitBody s

/-- LCEND (R220): a device-scope release that returns every tile as it performs. Log 31: DEDUCED; log 37: DEDUCED. -/
def lcendBody : Body := fun s =>
  if s.core.lace.st != .granted || s.core.c.hold.isNone then .error (.trap 0x0028 0 (s.clab .c))
  else .ok (After.later s.leaveLace)
def execLcend (h : Hdr) (s : State) := runWord (.lcend h) .c h lcendBody s

/-! ### The lacer (R223, R224) -/

def State.batchOf (s : State) (die beat : Nat) : List LaceTx := s.batches.filter fun x => x.die == die && x.beat == beat && x.num.isNone

/-- The word LCSUB that a core waits at. -/
def Core.waitingId (k : Core) : Nat := k.c.blocked.getD k.next

/-- The sorting key of R223. -/
def Core.laceKey (k : Core) : Nat × Nat × Nat × Nat :=
  match k.task with
  | some t => (t.lcore % 1024, t.graph, t.idx, k.waitingId)
  | none => (0, 0, 0, k.waitingId)

/-- LACE_SUBMISSION (R223): the lacer accepts a submission before its beat closes while the batch has room; otherwise target 0 moves to
the next beat, and another target is the lace-state fault, the slot staying DECLARING. -/
def State.laceSubmission (s : State) : State :=
  let k := s.core
  match k.lace.sub with
  | .sent n b =>
    let die := coreDie k.id
    if s.tstep ≤ b && decide ((s.batchOf die b).length < 64) then
      let x : LaceTx := ⟨die, b, k.laceKey, k.id, k.lace.tiles.map (·.pa), none, false⟩
      { s with batches := s.batches ++ [x], core := { k with lace := { k.lace with sub := .accepted b, beat := b } } }
    else if n = 0 then s.setLace fun l => { l with sub := .sent 0 (b + 1), beat := b + 1 }
    else
      let id := k.waitingId
      let s := s.setLace fun l => { l with sub := .refused }
      let s := (s.unissue .c id).modCore fun k => { k with xPend := k.xPend.erase k.lace.rd }
      s.trapAt .c 0x0028 (BitVec.ofNat 64 n) (s.pc .c) k.lace.lab true
  | _ => s

/-- A submission leaves the open batch, and LCSUB stands to issue again (R229). Log 65: DEDUCED. -/
def State.withdraw (s : State) : State :=
  let k := s.core
  match k.lace.sub with
  | .sent .. | .accepted _ =>
    let s := { s with batches := s.batches.filter fun x => !(x.core == k.id && x.num.isNone) }
    ((s.setLace fun l => { l with sub := .none }).unissue .c k.waitingId).modCore fun k => { k with xPend := k.xPend.erase k.lace.rd }
  | _ => s

def keyLt (a b : Nat × Nat × Nat × Nat) : Bool :=
  a.1 < b.1 || (a.1 == b.1 && (a.2.1 < b.2.1 || (a.2.1 == b.2.1 && (a.2.2.1 < b.2.2.1 ||
    (a.2.2.1 == b.2.2.1 && a.2.2.2 < b.2.2.2)))))

/-- A lace number (R222). -/
def laceNum (beat die slot : Nat) : W64 := BitVec.ofNat 64 (beat % 2 ^ 55 * 2 ^ 9 + die % 8 * 2 ^ 6 + slot % 64)

/-- Position of a submission in its batch: those with a smaller key come first (R223). -/
def slotIn (b : List LaceTx) (x : LaceTx) : Nat := (b.filter fun y => keyLt y.key x.key).length

/-- A beat closes: the batches of the beat are numbered, and each LCSUB writes its number and retires (R220, R223). -/
def State.numberBatches (s : State) (beat : Nat) : State :=
  let open_ := s.batches.filter fun x => x.beat == beat && x.num.isNone
  let num := fun (x : LaceTx) => laceNum beat x.die (slotIn (s.batchOf x.die beat) x)
  let s' := { s with batches := s.batches.map fun x =>
    if x.beat == beat && x.num.isNone then { x with num := some (num x) } else x }
  open_.foldl (fun s x => s.focusing x.core fun s =>
    let id := s.core.waitingId
    let n := num x
    let s := s.modCore fun k =>
      let k := k.writeX k.lace.rd ⟨n, k.c.clab⟩
      { k with xPend := k.xPend.erase k.lace.rd, lace := { k.lace with st := .submitted, num := n, sub := .numbered n, lab := k.c.clab } }
    s.complete .c id) s'

/-- Die `d`'s batch of a beat has reached every die: the exchange of beat b is complete before beat b + 1 closes (R224). -/
def State.exchanged (s : State) (d beat : Nat) : Bool := decide (beat + 2 ≤ s.tstep) || s.sentTo.contains (d, beat)

/-- LACE_BATCH_EXCHANGE (R224): a closed batch reaches every die during the next beat. -/
def State.laceExchange (s : State) (d beat : Nat) : State :=
  if d < 8 && decide (beat < s.tstep) && !s.exchanged d beat then { s with sentTo := (d, beat) :: s.sentTo } else s
def execLaceBatchExchange (d beat : Nat) (s : State) : Host.Outcome State Fault Refusal := .next (s.laceExchange d beat)

/-- The beat that a home slice merges next: beats without a submission are merged in passing (R224). -/
def State.nextMerge (s : State) (d sl : Nat) : Option Nat :=
  let from_ := ((s.merged.find? fun m => m.1 == d && m.2.1 == sl).map (·.2.2)).getD 0
  ((s.batches.filter fun x => x.num.isSome && decide (from_ ≤ x.beat)).map (·.beat)).min?

def LQueue.append (q : LQueue) (n : W64) : LQueue := { q with queue := q.queue ++ [n] }
def State.queueOf (s : State) (pa : Nat) : LQueue := (s.lqueues.find? fun q => q.pa == pa).getD ⟨pa, none, []⟩
/-- A tile's queue; one with no holder and nobody waiting is not listed. -/
def State.setQueue (s : State) (q : LQueue) : State :=
  let r := s.lqueues.filter fun p => p.pa != q.pa
  { s with lqueues := if q.holder.isNone && q.queue.isEmpty then r else q :: r }

/-- Transactions in ascending lace-number order. -/
def insertTx (x : LaceTx) : List LaceTx → List LaceTx
  | [] => [x]
  | y :: r => if (x.num.getD 0).toNat < (y.num.getD 0).toNat then x :: y :: r else y :: insertTx x r
def sortTx (l : List LaceTx) : List LaceTx := l.foldl (fun a x => insertTx x a) []

/-- LACE_MERGE (R225): slice `sl` of die `d` merges its next beat, once all eight batches of it have arrived; the batch order is the
lace-number order. -/
def State.laceMerge (s : State) (d sl : Nat) : State :=
  match s.nextMerge d sl with
  | none => s
  | some b =>
    if !((List.range 8).all fun e => s.exchanged e b) then s
    else
      let xs := sortTx (s.batches.filter fun x => x.beat == b && x.num.isSome)
      let s := { s with merged := (d, sl, b + 1) :: s.merged.filter fun m => !(m.1 == d && m.2.1 == sl) }
      xs.foldl (fun s x =>
        (x.tiles.filter fun pa => homeDie pa == d && sliceOf pa == sl).foldl
          (fun s pa => s.setQueue ((s.queueOf pa).append (x.num.getD 0))) s) s
def execLaceMerge (d sl : Nat) (s : State) : Host.Outcome State Fault Refusal := .next (s.laceMerge d sl)

/-- A transaction by its number. -/
def State.txOf (s : State) (num : W64) : Option LaceTx := s.batches.find? fun x => x.num == some num

/-- GRANT_STEP (R225, R178): a tile without a holder goes to the head of its queue, never before the beat after its beat has closed; a tile of an abandoned transaction is returned in this step (R227). -/
def State.grantStep (s : State) (pa : Nat) : State :=
  let q := s.queueOf pa
  match q.holder, q.queue with
  | none, n :: r =>
    match s.txOf n with
    | some x => if x.beat + 2 ≤ s.tstep then s.setQueue { q with holder := if x.gone then none else some n, queue := r } else s
    | none => s
  | _, _ => s
def execGrantStep (pa : Nat) (s : State) : Host.Outcome State Fault Refusal := .next (s.grantStep pa)

/-- LACE_TILE_RETURN (R178, R227): the return at the head of the C-stream's store queue waits as a device-scope release does, then
returns the tiles that the transaction holds. Log 37: DEDUCED. -/
def State.laceReturn (s : State) : State :=
  let t := s.core.c
  match t.sqHead with
  | some e =>
    match e.kind with
    | .laceReturn tiles =>
      if !t.mayRelease e.seq .dv || t.storeHeld e.seq then s
      else
        let n := e.va
        let s := tiles.foldl (fun s pa =>
          let q := s.queueOf pa
          if q.holder = some n then s.setQueue { q with holder := none } else s) s
        s.leaveSq .c e
    | _ => s
  | none => s

end Sys2Proof.Machine
end

