-- ==== Sys2Proof/Machine/Dacc.lean ====
section
/-! DEFINITION. The deterministic accumulators (R86, R154, R177, R202, R309, R310). A word sends its entry at issue, after alignment and
translation; every other check is made as the entry performs at its home. -/

namespace Sys2Proof.Machine
open Sys2Proof

/-! ### Contributions (R86) -/

def Acc256.zero : Acc256 := ⟨0, false, false, false, false⟩

/-- AddContribution of R86: the contribution is truncated on its own and added exactly. -/
def addContribution (w : Acc256) (v : W32) (sc e : Int) : Acc256 :=
  match v32 v with
  | .nan => { w with nan := true }
  | .inf false => { w with pinf := true }
  | .inf true => { w with ninf := true }
  | .fin neg m x =>
    let sh := x + sc - e
    let t := if 0 ≤ sh then m * 2 ^ sh.toNat else m / 2 ^ (-sh).toNat
    if 2 ^ 224 ≤ t then { w with ovf := true }
    else { w with acc := if neg then w.acc - BitVec.ofNat 256 t else w.acc + BitVec.ofNat 256 t }

/-- The rounding of R86. -/
def Acc256.rounded (w : Acc256) (e : Int) : W32 :=
  if w.nan || w.ovf || (w.pinf && w.ninf) then qnan32
  else if w.pinf then 0x7F800000#32
  else if w.ninf then 0xFF800000#32
  else round32 (.fin (w.acc.toInt < 0) w.acc.toInt.natAbs e)

/-- The value that READ returns, with its flags (R309). -/
def Acc256.readout (w : Acc256) (e : Int) : W64 :=
  let bit := fun (b : Bool) (n : Nat) => if b then 2 ^ n else 0
  BitVec.ofNat 64 ((w.rounded e).toNat + bit w.ovf 32 + bit w.pinf 33 + bit w.ninf 34 + bit w.nan 35)

/-- The exponent of a scale that is +2^s with s from −126 to 127 (R86). -/
def scaleExp (v : W32) : Option Int :=
  let x : Nat := v.toNat / 2 ^ 23
  if v.toNat % 2 ^ 23 = 0 && 1 ≤ x && x ≤ 254 then some ((x : Int) - 127) else none

/-! ### Sending an entry -/

/-- The open region that holds a word, with the word (R310). -/
def State.regionOf (s : State) (pa : Nat) : Option Region := s.regions.find? fun r => r.words.any fun w => w.1 == pa
/-- The open region whose base is a word. -/
def State.regionAt (s : State) (pa : Nat) : Option Region := s.regions.find? fun r => (r.words.head?.map (·.1)) == some pa

/-- Words of an OPEN descriptor (R309). -/
def descWords (d : W64) : Nat := d.toNat / 2 ^ 16 % 4096 + 1

/-- The address checks of R310: alignment, translation of every word, and device memory; the word is then on its way to its home, and the
C-stream issues nothing younger until the entry has performed. CLOSE stores, so the die's copies of its lines go as it issues (R165). Log 36:
DEDUCED. -/
def daccBody (srcs : List (Fin 64)) (a : Fin 64) (op : DaccOp) : Body := fun s =>
  if s.core.ready ((match op with | .read d => [d] | _ => []) ++ srcs) then do
    let ea := s.core.vx a
    let s ← s.raise .c (s.core.readX a).lab
    let lab := s.resultLab srcs
    if ea.toNat % 4 != 0 then .error (.trap 0x0010 ea lab)
    else
      let (s, first) ← s.access .rdwr ea 4 lab
      let n := match op with
        | .open_ d => descWords d
        | .close => ((first.head?.bind fun p => s.regionAt p.pa).map (·.words.length)).getD 1
        | _ => 1
      let (s, ps) ← s.access .rdwr ea (4 * n) lab
      match ps.find? fun p => paClass p.pa != 0 with
      | some p => .error (.trap (cBadFrame p.lvl) (BitVec.ofNat 64 p.va) lab)
      | none =>
        s.checkDispatch ps lab
        let pas := ps.flatMap fun p => (List.range (p.len / 4)).map fun i => p.pa + 4 * i
        let tag := if s.core.lace.st = .granted then (ps.head?.map (·.tag)) else none
        let r : DaccReq := ⟨op, s.core.next, ea, pas, lab, tag⟩
        let s := match op with | .close => s.dropRdc (pas.map lineOf).dedup | _ => s
        .ok { After.later (s.modCore fun k => { k with dacc := some r }) with block := true }
  else .error .stall

def execDaccOpen (h : Hdr) (a b : Fin 64) (s : State) :=
  runWord (.daccOpen h a b) .c h (fun s => daccBody [a, b] a (.open_ (s.core.vx b)) s) s
def execDaccAdd (h : Hdr) (a b : Fin 64) (s : State) :=
  runWord (.daccAdd h a b) .c h (fun s => daccBody [a, b] a (.add (s.core.vx b) false) s) s
def execDaccAddx (h : Hdr) (a b : Fin 64) (s : State) :=
  runWord (.daccAddx h a b) .c h (fun s => daccBody [a, b] a (.add (s.core.vx b) true) s) s
def execDaccRead (h : Hdr) (d a : Fin 64) (s : State) :=
  runWord (.daccRead h d a) .c h (daccBody [a] a (.read d)) s
def execDaccClose (h : Hdr) (a : Fin 64) (s : State) :=
  runWord (.daccClose h a) .c h (daccBody [a] a .close) s

/-! ### At the home -/

/-- The conditions of R171 and R177 under which the entry performs. -/
def Strm.daccReady (t : Strm) (r : DaccReq) : Bool :=
  let names := fun (k : SKind) => match k with
    | .atomic (.amo (.mem pa) sz ..) => r.pas.any fun w => decide (pa < w + 4) && decide (w < pa + sz)
    | k => k.bytes.any fun b => match b.1 with
      | .mem pa => r.pas.any fun w => decide (w ≤ pa) && decide (pa < w + 4)
      | _ => false
  match r.op with
  | .open_ _ => t.mayRelease r.id .dv && !t.storeHeld r.id
  | .close => t.mayRelease r.id .dv && !t.storeHeld r.id
  | .add .. => (t.sq.all fun e => decide (r.id ≤ e.seq) || e.kind.isFence) && !t.storeHeld r.id
  | .read _ => t.olderLoads r.id && !t.loadHeld r.id && !(t.sq.any fun e => decide (e.seq < r.id) && names e.kind)

/-- Accumulator words of open regions in one home slice. -/
def State.accWords (s : State) (d sl : Nat) : Nat :=
  (s.regions.flatMap fun r => r.words.filter fun w => homeDie w.1 == d && sliceOf w.1 == sl).length

/-- Every home slice has room in its DACC ways for the words that it would hold (R154, R310). Log 22: DESIGN CHOICE. -/
def State.accRoom (s : State) (pas : List Nat) : Bool :=
  pas.all fun p =>
    let d := homeDie p
    let sl := sliceOf p
    decide (s.accWords d sl + (pas.filter fun q => homeDie q == d && sliceOf q == sl).length ≤ Config.daccSpace s.daccWays)

/-- The first failing check of an entry at its home, in the order of R310; poison comes last. Log 22: DESIGN CHOICE; log 36: DEDUCED. -/
def State.daccCheck (s : State) (r : DaccReq) : Option Nat :=
  let bad := fun (ps : List Nat) => ps.any fun p => s.poison.contains (lineOf p)
  let pa := r.pas.headD 0
  match r.op with
  | .open_ d =>
    if d &&& ~~~0x0FFF03FF#64 != 0 || r.va.toNat / 65536 != (r.va.toNat + 4 * descWords d - 1) / 65536 ||
        r.pas.any (fun p => (s.regionOf p).isSome) || !s.accRoom r.pas then some 0x0016
    else if bad r.pas then some 0x0014 else none
  | .close =>
    match s.regionAt pa with
    | none => some 0x0016
    | some g => if bad (g.words.map (·.1)) then some 0x0014 else none
  | .add v scaled =>
    if (s.regionOf pa).isNone then some 0x0016
    else if !scaled && v.toNat / 2 ^ 32 != 0 then some 0x0016
    else if scaled && (scaleExp (BitVec.ofNat 32 (v.toNat / 2 ^ 32))).isNone then some 0x0016
    else if !Label.sub r.lab (r.tag.getD (s.frameLab pa)) then some 0x0020
    else if bad [pa] then some 0x0014 else none
  | .read _ => if (s.regionOf pa).isNone then some 0x0016 else if bad [pa] then some 0x0014 else none

/-- A word of a region changed. -/
def Region.modWord (g : Region) (pa : Nat) (f : Acc256 → Acc256) : Region :=
  { g with words := g.words.map fun w => if w.1 = pa then (w.1, f w.2) else w }
def State.wordAt (s : State) (pa : Nat) : Acc256 × Int :=
  match s.regionOf pa with
  | some g => (((g.words.find? fun w => w.1 == pa).map (·.2)).getD Acc256.zero, g.e)
  | none => (Acc256.zero, 0)

/-- The effect of an entry whose checks pass (R310). -/
def State.daccAct (s : State) (r : DaccReq) : Except Halt State :=
  let pa := r.pas.headD 0
  match r.op with
  | .open_ d =>
    .ok { s with regions := ⟨(BitVec.ofNat 10 d.toNat).toInt, r.pas.map fun p => (p, Acc256.zero)⟩ :: s.regions }
  | .add v scaled =>
    let sc := if scaled then (scaleExp (BitVec.ofNat 32 (v.toNat / 2 ^ 32))).getD 0 else 0
    .ok { s with regions := s.regions.map fun g => g.modWord pa fun w => addContribution w (v.setWidth 32) sc g.e }
  | .read d =>
    let w := s.wordAt pa
    (s.acquire .dv).putX d (w.1.readout w.2) (Label.join r.lab (r.tag.getD (s.frameLab pa)))
  | .close =>
    match s.regionAt pa with
    | none => .ok s
    | some g =>
      let bs := g.words.flatMap fun w =>
        ((List.range 4).map fun i => Loc.mem (w.1 + i)).zip (natLe 4 (w.2.rounded g.e).toNat)
      let s := s.storeBytes bs
      .ok { s with regions := s.regions.filter fun h => (h.words.head?.map (·.1)) != some pa }

/-- DACC_ENTRY_PERFORM (R177, R310): the entry performs, or its word takes a precise trap with TVAL = xa. Log 36: DEDUCED. -/
def State.daccStep (s : State) : State :=
  match s.core.dacc with
  | none => s
  | some r =>
    if !s.core.c.daccReady r then s
    else
      let s0 := s.modCore fun k => { k with dacc := none }
      let fail := fun (c : Nat) (tval : W64) =>
        let s := s0.unissue .c r.id
        s.trapAt .c c tval (s.pc .c) r.lab false
      match s0.daccCheck r with
      | some c => fail c r.va
      | none =>
        match s0.daccAct r with
        | .ok s => s.complete .c r.id
        | .error (.trap c v _) => fail c v
        | .error _ => s

end Sys2Proof.Machine
end

