-- ==== Sys2Proof/Machine/AStream.lean ====
section
/-! DEFINITION. The A-stream (R23, R45, R46, R147 to R150, R157 to R159, R179, R198 to R201, R264, R265, R277 to R298). -/

namespace Sys2Proof.Machine
open Sys2Proof

def Core.va (k : Core) (r : Fin 32) : W64 := (k.readA r).val
def Core.labsA (k : Core) (rs : List (Fin 32)) : List Label := rs.map fun r => (k.readA r).lab
/-- ResultLabel of an A-stream word that reads these registers (R197). -/
def State.resultLabA (s : State) (rs : List (Fin 32)) : Label := Label.joins (s.clab .a :: s.core.labsA rs)

/-! ### Arithmetic, branches and the control queue -/

/-- A word of the A-stream that reads address registers waits until every older word that writes one of them has retired (R277). -/
def Core.aReady (k : Core) (rs : List (Fin 32)) : Bool :=
  rs.all fun r => r == 0 || !(k.a.infl.any fun i => i.aw == some r)
/-- A word over address registers: it waits for those it reads, and its readers wait for what it writes (R277). -/
def overA (rs : List (Fin 32)) (d : Option (Fin 32)) (f : Body) : Body := fun s =>
  if s.core.aReady rs then
    match f s with
    | .ok r => .ok { r with aw := d }
    | .error x => .error x
  else .error .stall

/-- `ad := f` with ResultLabel (R277). -/
def addrOp (rs : List (Fin 32)) (d : Fin 32) (f : Core → W64) : Body :=
  overA rs (some d) fun s =>
    match s.putA d (f s.core) (s.resultLabA rs) with
    | .ok s => .ok (After.of s)
    | .error x => .error x

def execAadd (h : Hdr) (d a b : Fin 32) (s : State) := runWord (.aadd h d a b) .a h (addrOp [a, b] d fun k => k.va a + k.va b) s
def execAsub (h : Hdr) (d a b : Fin 32) (s : State) := runWord (.asub h d a b) .a h (addrOp [a, b] d fun k => k.va a - k.va b) s
def execAmul (h : Hdr) (d a b : Fin 32) (s : State) := runWord (.amul h d a b) .a h (addrOp [a, b] d fun k => k.va a * k.va b) s
def execAand (h : Hdr) (d a b : Fin 32) (s : State) := runWord (.aand h d a b) .a h (addrOp [a, b] d fun k => k.va a &&& k.va b) s
def execAaddImm (h : Hdr) (d a : Fin 32) (i : BitVec 13) (s : State) :=
  runWord (.aaddImm h d a i) .a h (addrOp [a] d fun k => k.va a + simm i) s
def execAshl (h : Hdr) (d a : Fin 32) (sh : Fin 64) (s : State) :=
  runWord (.ashl h d a sh) .a h (addrOp [a] d fun k => k.va a <<< sh.val) s
def execAshr (h : Hdr) (d a : Fin 32) (sh : Fin 64) (s : State) :=
  runWord (.ashr h d a sh) .a h (addrOp [a] d fun k => k.va a >>> sh.val) s
def execAmovi (h : Hdr) (d : Fin 32) (i : BitVec 13) (s : State) :=
  runWord (.amovi h d i) .a h (addrOp [] d fun _ => simm i) s

/-- ABR (R280). -/
def abrBody (cc : CC) (a b : Fin 32) (o : BitVec 10) : Body := fun s => do
  let pc := s.pc .a
  let s ← s.raise .a (Label.joins (s.core.labsA [a, b]))
  .ok { After.of s with next := if cc.holds (s.core.va a) (s.core.va b) then some (branchTo pc o) else none }
def execAbr (h : Hdr) (cc : CC) (a b : Fin 32) (o : BitVec 10) (s : State) :=
  runWord (.abr h cc a b o) .a h (overA [a, b] none (abrBody cc a b o)) s

/-- ALOOP (R288): a write to a0 is discarded, so a0 counts nothing. -/
def aloopBody (a : Fin 32) (o : BitVec 10) : Body := fun s => do
  let pc := s.pc .a
  let l := (s.core.readA a).lab
  let s ← s.putA a (s.core.va a - 1) (s.resultLabA [a])
  let s ← s.raise .a l
  .ok { After.of s with next := if s.core.va a != 0 then some (branchTo pc o) else none }
def execAloop (h : Hdr) (a : Fin 32) (o : BitVec 10) (s : State) := runWord (.aloop h a o) .a h (overA [a] (some a) (aloopBody a o)) s

/-- ACQPOP (R282). -/
def acqpopBody (d : Fin 32) : Body := fun s =>
  match s.core.cqA with
  | [] => .error (if (s.strm .c).ended then .trap 0x0006 16 (s.clab .a) else .stall)
  | e :: r => do
    let s ← s.raise .a e.lab
    let s ← s.putA d e.val e.lab
    .ok (After.of (s.modCore fun k => { k with cqA := r }))
def execAcqpop (h : Hdr) (d : Fin 32) (s : State) := runWord (.acqpop h d) .a h (overA [] (some d) (acqpopBody d)) s

def execAfence (h : Hdr) (n : FKind) (c : Scope) (s : State) :=
  runWord (.afence h n c) .a h (marker .a (.fence n c) (.fence n c) c) s

/-! ### Ring operands -/

/-- Slots that older loads of the A-stream will claim when they perform. Log 39: DEDUCED. -/
def State.claimsDue (s : State) (r : Nat) : Nat :=
  (s.core.a.lq.map fun e => match e.kind with
    | .load _ _ (.slot q ..) => if q = r then 1 else 0
    | .load _ _ (.rows q _ n ..) => if q = r then n else 0
    | _ => 0).sum

/-- An older word of the A-stream has still to release slots of a ring: words take its slots in program order. Log 39: DEDUCED. -/
def State.releaseDue (s : State) (r : Nat) : Bool := s.core.a.infl.any fun i => i.rels.any fun x => x.1 == r

/-- The first claim of an export ring checks its binding (R150). -/
def State.bindingOk (s : State) (r : Nat) : Bool :=
  let g := s.core.ring r
  g.mode != 2 || g.checked || s.bound r
def State.noteClaim (s : State) (r : Nat) : State :=
  s.modCore fun k => if (k.ring r).mode = 2 then k.setRing r { k.ring r with checked := true } else k

/-- A claim is allowed on a local or export ring, a wait or a release on a local or import ring (R148, R150). -/
def Ring.claimable (g : Ring) : Bool := g.valid && (g.mode == 0 || g.mode == 2)
def Ring.waitable (g : Ring) : Bool := g.valid && (g.mode == 0 || g.mode == 1)

/-- The label check of a publish against the segments of the slots that it will fill, as it stands when the word issues (R149, R277); no
write stands in them yet. It is made again at the publish. Log 27: DEDUCED. -/
def State.publishOk (s : State) (r first n : Nat) (lab : Label) : Bool :=
  s.slotsAllow { s.core.ring r with wrote := [] } first n lab

/-- The bytes of slot `n` of a ring of the core. -/
def State.slotBytes (s : State) (g : Ring) (n len : Nat) : List Byte :=
  (List.range len).map fun i => memGet s.core.scratch (g.slotAddr n + i)
/-- The labels of `n` slots from the oldest filled one (R199). -/
def Ring.frontLab (g : Ring) (n : Nat) : Label := Label.joins ((List.range n).map fun i => g.slotLabel (g.freed.toNat + i))

/-- The runs of `cnt` elements of width `w` that stand `st` bytes apart (R287, R295). -/
def elemRuns (base : W64) (cnt w : Nat) (st : W64) : List (Nat × Nat) :=
  if st = BitVec.ofNat 64 w then pageRuns base.toNat (cnt * w)
  else (List.range cnt).flatMap fun t => pageRuns (base + BitVec.ofNat 64 t * st).toNat w

/-- The stride of .LIN is the width; that of .STR stands in ab + 1. -/
def strideOf (k : Core) (b : Fin 32) (w : Nat) (m : Bool) : W64 := if m then k.va (pairHi b) else BitVec.ofNat 64 w

/-- The ring-configuration fault. Log 45: DEDUCED. -/
def ringFault (r : Nat) (lab : Label) : Halt := .trap 0x0012 (BitVec.ofNat 64 r) lab

/-! ### ALD, AST, AXPUT -/

/-- ALD (R287): one load; its slot is claimed, written and published as it performs. The publish's label check is made at issue, against
the slot that program order gives the word, and again at the publish (log entry 27). Log 27: DEDUCED; log 29: DEDUCED. -/
def aldBody (a b : Fin 32) (r : Fin 16) (c : Scope) (e : El) (m : Bool) : Body := fun s => do
  let k := s.core
  let g := k.ring r
  let w := elBytes e
  let cnt := (k.va b).toNat
  let st := strideOf k b w m
  let rs := [a, b, pairHi b]
  let lab := s.resultLabA rs
  let s ← s.raise .a (k.readA a).lab
  if cnt = 0 || g.slotSize < cnt * w || !g.claimable then .error (ringFault r lab)
  else if g.count < g.used + s.claimsDue r + 1 then .error .stall
  else
    let (s, ps) ← s.pieces .aLoad .read lab (elemRuns (k.va a) cnt w st)
    s.checkFar ps lab
    let l := Label.join lab (pieceLab ps)
    s.checkPoison .a (transScope c).isSome ps l
    let s ← s.need (Label.join (s.clab .a) (pieceLab ps))
    if !s.bindingOk r then .error (ringFault r l)
    else if !s.publishOk r (g.claimed.toNat + s.claimsDue r) 1 (Label.join (s.clab .a) (pieceLab ps)) then
      .error (.trap 0x0020 (BitVec.ofNat 64 r.val) l)
    else
      let id := s.core.next
      let block := farPieces ps || (c == .sy && s.mayRefuse .a)
      let need := pieceNeed ps
      let s ← ((s.pushLq .a ⟨id, id, .load need (need.map fun _ => none) (.slot r g.cfg (s.clab .a) (a, k.ar[a])), transScope c⟩).noteClaim r).putA a
        (k.va a + BitVec.ofNat 64 cnt * st) (s.resultLabA rs)
      .ok { After.later s with block := block }
def execAld (h : Hdr) (a b : Fin 32) (r : Fin 16) (c : Scope) (e : El) (m : Bool) (s : State) :=
  runWord (.ald h a b r c e m) .a h (overA [a, b, pairHi b] (some a) (aldBody a b r c e m)) s

/-- Slots are filled for a word to take (R176); a word takes them after older words have released theirs. Log 39: DEDUCED. -/
def State.filledFor (s : State) (r n : Nat) : Bool := decide (n ≤ (s.core.ring r).ready) && !s.releaseDue r

/-- AST, or AXPUT where `unit` holds (R295, R297): one store, or one for each unit of 64 bytes. The slot is released once every store has left the store queue. -/
def astBody (unit : Bool) (a b : Fin 32) (r : Fin 16) (c : Scope) (e : El) (m : Bool) : Body := fun s => do
  let k := s.core
  let g := k.ring r
  let w := elBytes e
  let cnt := (k.va b).toNat
  let st := strideOf k b w m
  let rs := [a, b, pairHi b]
  let lab := s.resultLabA rs
  let s ← s.raise .a (k.readA a).lab
  if cnt = 0 || g.slotSize < cnt * w || !g.waitable then .error (ringFault r lab)
  else if unit && ((k.va a).toNat % 64 != 0 || cnt * w % 64 != 0) then .error (.trap 0x0010 (k.va a) lab)
  else if !s.filledFor r 1 then .error .stall
  else
    let lab := Label.join lab (g.frontLab 1)
    let s ← s.raise .a (g.frontLab 1)
    let (s, ps) ← s.pieces .aStore .write lab (elemRuns (k.va a) cnt w st)
    s.checkFar ps lab
    let s ← s.need lab
    checkFrames lab ps lab
    let id := s.core.next
    let bs := s.slotBytes g g.freed.toNat (cnt * w)
    let parts := if unit then
        (List.range (cnt * w / 64)).map fun u =>
          let va := (k.va a).toNat + 64 * u
          ((ps.filter fun p => decide (p.va ≤ va) && decide (va < p.va + p.len)).map fun p =>
            { p with va := va, pa := p.pa + (va - p.va), len := 64 }, (bs.drop (64 * u)).take 64)
      else [(ps, bs)]
    let block := c == .sy && s.mayRefuse .a
    let s ← ((s.dropRdc (pieceLines ps)).pushStores .a id (transScope c) true unit lab parts).putA a
      (k.va a + BitVec.ofNat 64 cnt * st) (s.resultLabA rs)
    .ok { After.later s with rels := [(r.val, 1)], block := block }
def execAst (h : Hdr) (a b : Fin 32) (r : Fin 16) (c : Scope) (e : El) (m : Bool) (s : State) :=
  runWord (.ast h a b r c e m) .a h (overA [a, b, pairHi b] (some a) (astBody false a b r c e m)) s
def execAxput (h : Hdr) (a b : Fin 32) (r : Fin 16) (c : Scope) (e : El) (s : State) :=
  runWord (.axput h a b r c e) .a h (overA [a, b, pairHi b] (some a) (astBody true a b r c e false)) s

/-! ### AGATH, ASCAT, AIDX and the ring waits -/

/-- The fields of the pair register (R264): row length in elements, index count. -/
def gatherE (v : W64) : Nat := v.toNat % 65536
def gatherN (v : W64) : Nat := v.toNat / 65536 % 65536

/-- The ring checks that AGATH and ASCAT share (R264, R293). -/
def gatherBad (k : Core) (b : Fin 32) (r x : Fin 16) (w : Nat) : Bool :=
  let v := k.va b
  decide (2 ^ 32 ≤ v.toNat) || gatherN v == 0 || gatherE v == 0 || decide ((k.ring r).count < gatherN v) || r == x ||
    decide ((k.ring x).slotSize < 4 * gatherN v) || decide ((k.ring r).slotSize < gatherE v * w)

/-- The row addresses that the oldest slot of the index ring gives (R264). -/
def State.rowAddrs (s : State) (a b : Fin 32) (x : Fin 16) (n : Nat) : List W64 :=
  let g := s.core.ring x
  (List.range n).map fun t =>
    let idx := leNat ((s.slotBytes g g.freed.toNat (4 * n)).drop (4 * t) |>.take 4)
    s.core.va a + BitVec.ofNat 64 idx * s.core.va (pairHi b)

/-- Pieces of rows, each told from the others of its page (R166, R264). -/
def regroup (ps : List Piece) : List Piece := ((List.range ps.length).zip ps).map fun x => { x.2 with grp := x.2.grp + x.1 }

/-- AGATH (R264, R285): one load of all rows; the slots are claimed, written and published as it performs, and the index slot is released
then. Log 27: DEDUCED; log 29: DEDUCED. -/
def agathBody (a b : Fin 32) (r x : Fin 16) (zs : Bool) (e : El) : Body := fun s => do
  let k := s.core
  let w := elBytes e
  let n := gatherN (k.va b)
  let row := gatherE (k.va b) * w
  let rs := [a, b, pairHi b]
  let lab := s.resultLabA rs
  let s ← s.raise .a (Label.joins (k.labsA rs))
  if gatherBad k b r x w then .error (ringFault r lab)
  else if !(k.ring x).waitable then .error (ringFault x lab)
  else if !s.filledFor x 1 then .error .stall
  else
    let ixLab := (k.ring x).frontLab 1
    let lab := Label.join lab ixLab
    let s ← s.raise .a ixLab
    let rows := s.rowAddrs a b x n
    match rows.find? fun p => p.toNat % w != 0 with
    | some p => .error (.trap 0x0010 p lab)
    | none =>
      let (s, ps) ← s.pieces .aLoad .read lab (rows.flatMap fun p => pageRuns p.toNat row)
      s.checkFar ps lab
      let l := Label.join lab (pieceLab ps)
      if !zs then s.checkPoison .a false ps l
      if !(k.ring r).claimable || !s.bindingOk r then .error (ringFault r l)
      else
      let s ← s.need l
      if !s.publishOk r ((k.ring r).claimed.toNat + s.claimsDue r) n l then .error (.trap 0x0020 (BitVec.ofNat 64 r.val) l)
      else
        let id := s.core.next
        let need := pieceNeed (regroup ps)
        let e : LEnt := ⟨id, id, .load need (need.map fun _ => none) (.rows r (k.ring r).cfg n row lab zs), none⟩
        let s := (s.pushLq .a e).noteClaim r
        .ok { After.later s with rels := [(x.val, 1)], block := farPieces ps }
def execAgath (h : Hdr) (a b : Fin 32) (r x : Fin 16) (p : Bool) (e : El) (s : State) :=
  runWord (.agath h a b r x p e) .a h (overA [a, b, pairHi b] none (agathBody a b r x p e)) s

/-- ASCAT (R293): each row is checked against its frames with its own label; rows are stored in ascending order. -/
def ascatBody (a b : Fin 32) (r x : Fin 16) (e : El) : Body := fun s => do
  let k := s.core
  let w := elBytes e
  let g := k.ring r
  let n := gatherN (k.va b)
  let row := gatherE (k.va b) * w
  let rs := [a, b, pairHi b]
  let lab := s.resultLabA rs
  let s ← s.raise .a (Label.joins (k.labsA rs))
  if gatherBad k b r x w || !g.waitable || !(k.ring x).waitable then .error (ringFault r lab)
  else if !(s.filledFor x 1 && s.filledFor r n) then .error .stall
  else
    let slots := Label.join ((k.ring x).frontLab 1) (g.frontLab n)
    let rowLab := Label.join lab ((k.ring x).frontLab 1)
    let lab := Label.join lab slots
    let s ← s.raise .a slots
    let l := Label.join (s.clab .a) rowLab
    let (s, per) ← (s.rowAddrs a b x n).foldlM (init := (s, ([] : List (List Piece)))) fun acc p =>
      match acc.1.pieces .aStore .write lab (pageRuns p.toNat row) with
      | .ok (s, ps) => Except.ok (s, acc.2 ++ [ps])
      | .error x => Except.error x
    s.checkFar per.flatten lab
    let s ← s.need l
    per.forM fun ps => checkFrames l ps lab
    let bs := (List.range n).flatMap fun t => s.slotBytes g (g.freed.toNat + t) row
    let s := (s.dropRdc (pieceLines per.flatten)).pushStore .a s.core.next none true false l per.flatten bs
    .ok { After.later s with rels := [(r.val, n), (x.val, 1)] }
def execAscat (h : Hdr) (a b : Fin 32) (r x : Fin 16) (e : El) (s : State) :=
  runWord (.ascat h a b r x e) .a h (overA [a, b, pairHi b] none (ascatBody a b r x e)) s

/-- AIDX (R265, R286). -/
def aidxBody (d : Fin 32) (r : Fin 16) : Body := fun s =>
  let g := s.core.ring r
  if !g.waitable then .error (ringFault r (s.clab .a))
  else if !s.filledFor r 1 then .error .stall
  else do
    let v := leNat (s.slotBytes g g.freed.toNat 4)
    let s ← s.raise .a (g.frontLab 1)
    let s ← s.putA d (BitVec.ofNat 64 v) (s.clab .a)
    .ok (After.of (s.modCore fun k => k.release r 1))
def execAidx (h : Hdr) (d : Fin 32) (r : Fin 16) (s : State) := runWord (.aidx h d r) .a h (overA [] (some d) (aidxBody d r)) s

/-- AWFILL (R296): their labels join CLABEL. -/
def awfillBody (n : Fin 512) (r : Fin 16) : Body := fun s =>
  let g := s.core.ring r
  if g.count < n.val || !g.waitable then .error (ringFault r (s.clab .a))
  else if !s.filledFor r n.val then .error .stall
  else do
    let s ← s.raise .a (g.frontLab n.val)
    .ok (After.of s)
def execAwfill (h : Hdr) (n : Fin 512) (r : Fin 16) (s : State) := runWord (.awfill h n r) .a h (awfillBody n r) s

/-- AWFREE (R296). A wait for room is no claim: it checks the count and the mode alone. -/
def awfreeBody (n : Fin 512) (r : Fin 16) : Body := fun s =>
  let g := s.core.ring r
  if g.count < n.val || g.count = 0 || !(g.mode == 0 || g.mode == 2) then .error (ringFault r (s.clab .a))
  else if g.count < g.used + n.val then .error .stall
  else .ok (After.of s)
def execAwfree (h : Hdr) (n : Fin 512) (r : Fin 16) (s : State) := runWord (.awfree h n r) .a h (awfreeBody n r) s

/-! ### ACOPY, AZERO, APREF, AAMO -/

/-- A range of memory cut at its 64-byte lines. -/
def lineRuns (va n : Nat) : List (Nat × Nat) :=
  if n = 0 then []
  else
    let first := va / 64
    (List.range ((va + n - 1) / 64 - first + 1)).map fun i =>
      let lo := max va ((first + i) * 64)
      (lo, min (va + n) ((first + i + 1) * 64) - lo)
/-- A piece cut at its 64-byte lines. -/
def Piece.lines (p : Piece) : List Piece :=
  (lineRuns p.va p.len).map fun r => { p with va := r.1, pa := p.pa + (r.1 - p.va), len := r.2 }

/-- The loads of a copy, one for each source line (R165). -/
def State.pushLoads (s : State) (id : Nat) : Nat → List Piece → State
  | _, [] => s
  | off, p :: r =>
    let q := s.core.next
    let need := pieceNeed [p]
    let s := (s.pushLq .a ⟨id, q, .load need (need.map fun _ => none) (.copy off), none⟩).modCore fun k => { k with next := q + 1 }
    State.pushLoads s id (off + p.len) r

/-- ACOPY (R281): every store stands behind every load of the word. -/
def acopyBody (d a b : Fin 32) (c : Scope) : Body := fun s => do
  let k := s.core
  let n := (k.va b).toNat
  let lab := s.resultLabA [d, a, b]
  let s ← s.raise .a (Label.joins (k.labsA [d, a]))
  if 4096 < n then .error (.trap 0x0010 (k.va d) lab)
  else if n = 0 then .ok (After.of s)
  else
    let (s, src) ← s.pieces .aLoad .read lab (pageRuns (k.va a).toNat n)
    let (s, dst) ← s.pieces .aStore .write lab (pageRuns (k.va d).toNat n)
    s.checkFar (src ++ dst) lab
    let l := Label.join lab (pieceLab src)
    let s ← s.need l
    checkFrames l dst l
    s.checkPoison .a false src l
    let id := s.core.next
    let s := (s.dropRdc (pieceLines dst)).pushLoads id 0 (src.flatMap Piece.lines)
    let parts := (dst.flatMap Piece.lines).map fun p => ([p], List.replicate p.len 0)
    let block := farPieces src || (c == .sy && s.mayRefuse .a)
    .ok { After.later (s.pushStores .a id (transScope c) false false l parts) with block := block }
def execAcopy (h : Hdr) (d a b : Fin 32) (c : Scope) (s : State) := runWord (.acopy h d a b c) .a h (overA [d, a, b] none (acopyBody d a b c)) s

/-- AZERO (R298). -/
def azeroBody (d b : Fin 32) (c : Scope) : Body := fun s => do
  let k := s.core
  let n := (k.va b).toNat
  let lab := s.resultLabA [d, b]
  let s ← s.raise .a (k.readA d).lab
  if 65536 < n then .error (.trap 0x0010 (k.va d) lab)
  else if n = 0 then .ok (After.of s)
  else
    let (s, dst) ← s.pieces .aStore .write lab (pageRuns (k.va d).toNat n)
    s.checkFar dst lab
    let s ← s.need lab
    checkFrames lab dst lab
    let block := c == .sy && s.mayRefuse .a
    let s := (s.dropRdc (pieceLines dst)).pushStore .a s.core.next (transScope c) true false lab dst (List.replicate n 0)
    .ok { After.later s with block := block }
def execAzero (h : Hdr) (d b : Fin 32) (c : Scope) (s : State) := runWord (.azero h d b c) .a h (overA [d, b] none (azeroBody d b c)) s

/-- APREF (R292): policy-C lines of device memory that translate may be installed later; an uncorrectable table entry turns the module viral
(R188). -/
def State.prefLines (s : State) : List (Nat × Nat) → State
  | [] => s
  | (va, n) :: r =>
    match s.translate .aLoad (BitVec.ofNat 64 va) .read with
    | .error (.poisoned pa) => s.ptePoison pa
    | .error (.fault _) => s.prefLines r
    | .ok (s, pa, pol) =>
      if pol || paClass pa != 0 then s.prefLines r
      else
        let ls := (List.range ((pa + n - 1) / 64 - pa / 64 + 1)).map (pa / 64 + ·)
        (s.modCore fun k => { k with pref := (k.pref ++ ls).dedup }).prefLines r
def aprefBody (a b : Fin 32) : Body := fun s => do
  let k := s.core
  let s ← s.raise .a (Label.joins (k.labsA [a, b]))
  .ok (After.of (s.prefLines (pageRuns (k.va a).toNat (min (k.va b).toNat 4096))))
def execApref (h : Hdr) (a b : Fin 32) (s : State) := runWord (.apref h a b) .a h (overA [a, b] none (aprefBody a b)) s

/-- PREFETCH_FILL (R166, R168, R292): a line asked for is installed with the home's bytes. -/
def State.prefetchFill (s : State) (line : Nat) : State :=
  if s.core.pref.contains line then
    (s.modCore fun k => { k with pref := k.pref.filter (· != line) }).installLine line
  else s
def execPrefetchFill (c line : Nat) (s : State) : Host.Outcome State Fault Refusal := .next (s.focusing c fun s => s.prefetchFill line)

/-- AAMO (R159, R279): the word waits until its entry would stand at the head of both queues and then acts at the bank of the target
core, so nothing younger issues before it. Log 40: DEDUCED. -/
def aamoBody (d a b : Fin 32) (p : AtOp) (z : Bool) : Body := fun s => do
  let k := s.core
  let sz := if z then 8 else 4
  let v := k.va a
  let sa := v.toNat % 2 ^ 19
  let lab := s.resultLabA [a, b]
  let s ← s.raise .a (k.readA a).lab
  match (if v.toNat < 2 ^ 29 && sa < Config.scratchBytes then s.launchCore (v.toNat / 2 ^ 19) else none) with
  | none => .error (.trap 0x0011 v lab)
  | some t =>
    if sa % sz != 0 then .error (.trap 0x0010 v lab)
    else do
    let s ← s.need lab
    if !(s.coreOf t).segsAllow lab sa sz then .error (.trap 0x0020 v lab)
    else
      let q := s.core.next
      let u := s.core.a
      if !u.olderBoth q || u.loadHeld q || u.storeHeld q || s.torn .a ((List.range sz).map fun i => .scr t (sa + i)) then .error .stall
      else
        let l := Label.join lab ((s.coreOf t).segsLabel sa sz)
        let x := s.atomAct (.scr t sa) sz (some p) 0 (k.va b)
        let s ← (x.1.noteWrites [.scr t sa] lab).putA d x.2 l
        .ok (After.of s)
def execAamo (h : Hdr) (d a b : Fin 32) (p : AtOp) (z : Bool) (s : State) := runWord (.aamo h d a b p z) .a h (overA [a, b] (some d) (aamoBody d a b p z)) s

end Sys2Proof.Machine
end

