-- ==== Sys2Proof/Machine/VStream.lean ====
section
/-! DEFINITION. The V-stream's fixed-latency words over vector registers (R73, R74, R83, R87, R90 to R100, R106, R356 to R381). Each
reads at issue and leaves a pending write that lands at its issue distance. -/

namespace Sys2Proof.Machine
open Sys2Proof

/-! ### Sources and the pending write -/

/-- A register by the name in the word (R103). -/
def Core.vreg (k : Core) (r : Fin 32) : VReg := k.vr[k.vphys r]
/-- The value of an ix register. -/
def Core.ixVal (k : Core) (x : Fin 4) : Nat := k.ix[x].1.toNat
def Core.ftz (k : Core) : Bool := vtFtz k.csr.vtype
def Core.isInt (k : Core) : Bool := vtInt k.csr.vtype

/-- A view other than W joins the label of its ix register into CLABEL (R90, R198). Log 9: DEDUCED. -/
def State.raiseIx (s : State) (vs : List View) (x : Fin 4) : Except Halt State :=
  if vs.any (· != .w) then s.raise .v s.core.ix[x].2 else .ok s

/-- ResultLabel of a masked V-stream word that reads these registers (R197). -/
def State.vLab (s : State) (rs : List (Fin 32)) : Label :=
  Label.joins (s.clab .v :: s.core.em.lab :: rs.map fun r => (s.core.vreg r).lab)

/-- A write that lands `lat` cycles of issue distance after its word, with the label rule of R93 (R94, R96). -/
def State.pendV (s : State) (lat : Nat) (d : Fin 32) (sel : BitVec 1024) (data : Vector W32 1024) (lab : Label) (repl : Bool) :
    Except Halt State := do
  let k := s.core
  let r := k.vphys d
  let s ← s.need lab
  let s ← if repl then .ok s else s.need (Label.join k.vr[r].lab lab)
  .ok (s.modCore fun k => { k with
    vpend := k.vpend ++ [⟨lat, r.val, sel, data, 0, lab, repl, k.next, s.clk + lat⟩] })

/-- A word that writes `f` into the enabled containers of a view of vd (R100, R356). -/
def vWrite (lat : Nat) (d : Fin 32) (v : View) (n : Nat) (lab : Label) (f : Fin 1024 → W32) (s : State) : Except Halt After := do
  let em := s.core.em.bits
  let sel := viewBits v n &&& em
  let s ← s.pendV lat d sel (Vector.ofFn fun e => if sel.getLsbD e then f e else 0) lab (v == .w && em == BitVec.allOnes 1024)
  .ok (After.later s)

/-- A W-view write of every enabled container. -/
def vWhole (lat : Nat) (d : Fin 32) (srcs : List (Fin 32)) (f : Core → Fin 1024 → W32) : Body := fun s =>
  vWrite lat d .w 0 (s.vLab srcs) (f s.core) s

/-! ### The element-wise group, VFMA, VSEL, VMOV and the broadcasts (R357, R359, R364, R369, R375) -/

/-- An operation on one or two sources, by ETYPE and FTZ. -/
def vOp2 (lat : Nat) (d a b : VOp) (x : Fin 4) (op : Bool → Bool → W32 → W32 → W32) : Body := fun s => do
  let s ← s.raiseIx [d.view, a.view, b.view] x
  let k := s.core
  let n := k.ixVal x
  let va := (k.vreg a.r).e
  let vb := (k.vreg b.r).e
  vWrite lat d.r d.view n (s.vLab [a.r, b.r])
    (fun e => op k.isInt k.ftz va[srcIx a.view n e] vb[srcIx b.view n e]) s

def vOp1 (lat : Nat) (d a : VOp) (x : Fin 4) (op : Bool → Bool → W32 → W32) : Body := fun s => do
  let s ← s.raiseIx [d.view, a.view] x
  let k := s.core
  let n := k.ixVal x
  let va := (k.vreg a.r).e
  vWrite lat d.r d.view n (s.vLab [a.r]) (fun e => op k.isInt k.ftz va[srcIx a.view n e]) s

/-- The operations of R357, by ETYPE and FTZ. -/
def opAdd (int ftz : Bool) (a b : W32) : W32 := if int then a + b else fpAdd ftz a b
def opSub (int ftz : Bool) (a b : W32) : W32 := if int then a - b else fpSub ftz a b
def opMul (int ftz : Bool) (a b : W32) : W32 := if int then a * b else fpMul ftz a b
def opMin (int ftz : Bool) (a b : W32) : W32 := if int then (if i32lt b a then b else a) else fpMin ftz a b
def opMax (int ftz : Bool) (a b : W32) : W32 := if int then (if i32lt a b then b else a) else fpMax ftz a b
def opAbs (int ftz : Bool) (a : W32) : W32 := if int then (if a.toInt < 0 then -a else a) else fpAbs ftz a
def opShl (a b : W32) : W32 := a <<< (b.toNat % 32)
def opShr (int : Bool) (a b : W32) : W32 := if int then a.sshiftRight (b.toNat % 32) else a >>> (b.toNat % 32)
def opFma (int ftz : Bool) (a b c : W32) : W32 := if int then a * b + c else fpFma ftz a b c

def execVadd (h : Hdr) (d a b : VOp) (x : Fin 4) (s : State) :=
  runWord (.vadd h d a b x) .v h (vOp2 (vLat (.vadd h d a b x)) d a b x opAdd) s
def execVsub (h : Hdr) (d a b : VOp) (x : Fin 4) (s : State) :=
  runWord (.vsub h d a b x) .v h (vOp2 (vLat (.vsub h d a b x)) d a b x opSub) s
def execVmul (h : Hdr) (d a b : VOp) (x : Fin 4) (s : State) :=
  runWord (.vmul h d a b x) .v h (vOp2 (vLat (.vmul h d a b x)) d a b x opMul) s
def execVmin (h : Hdr) (d a b : VOp) (x : Fin 4) (s : State) :=
  runWord (.vmin h d a b x) .v h (vOp2 (vLat (.vmin h d a b x)) d a b x opMin) s
def execVmax (h : Hdr) (d a b : VOp) (x : Fin 4) (s : State) :=
  runWord (.vmax h d a b x) .v h (vOp2 (vLat (.vmax h d a b x)) d a b x opMax) s
def execVabs (h : Hdr) (d a : VOp) (x : Fin 4) (s : State) :=
  runWord (.vabs h d a x) .v h (vOp1 (vLat (.vabs h d a x)) d a x opAbs) s
def execVand (h : Hdr) (d a b : VOp) (x : Fin 4) (s : State) :=
  runWord (.vand h d a b x) .v h (vOp2 (vLat (.vand h d a b x)) d a b x fun _ _ p q => p &&& q) s
def execVor (h : Hdr) (d a b : VOp) (x : Fin 4) (s : State) :=
  runWord (.vor h d a b x) .v h (vOp2 (vLat (.vor h d a b x)) d a b x fun _ _ p q => p ||| q) s
def execVxor (h : Hdr) (d a b : VOp) (x : Fin 4) (s : State) :=
  runWord (.vxor h d a b x) .v h (vOp2 (vLat (.vxor h d a b x)) d a b x fun _ _ p q => p ^^^ q) s
def execVshl (h : Hdr) (d a b : VOp) (x : Fin 4) (s : State) :=
  runWord (.vshl h d a b x) .v h (vOp2 (vLat (.vshl h d a b x)) d a b x fun _ _ p q => opShl p q) s
def execVshr (h : Hdr) (d a b : VOp) (x : Fin 4) (s : State) :=
  runWord (.vshr h d a b x) .v h (vOp2 (vLat (.vshr h d a b x)) d a b x fun int _ p q => opShr int p q) s
def execVmov (h : Hdr) (d a : VOp) (x : Fin 4) (s : State) :=
  runWord (.vmov h d a x) .v h (vOp1 (vLat (.vmov h d a x)) d a x fun _ _ p => p) s
def execVbcr (h : Hdr) (d : Fin 32) (a : VOp) (x : Fin 4) (s : State) :=
  runWord (.vbcr h d a x) .v h (vOp1 (vLat (.vbcr h d a x)) ⟨d, .w⟩ a x fun _ _ p => p) s
def execVbcc (h : Hdr) (d : Fin 32) (a : VOp) (x : Fin 4) (s : State) :=
  runWord (.vbcc h d a x) .v h (vOp1 (vLat (.vbcc h d a x)) ⟨d, .w⟩ a x fun _ _ p => p) s

/-- The cycle that a word with three reads of one bank costs (R98, R99, R307). -/
def State.bankStall (s : State) (d a b : Fin 32) : State :=
  if s.core.threeInBank d a b then
    s.modCore fun k => { k with csr := { k.csr with bankstall := k.csr.bankstall + 1 }.joinLab .bankstall k.v.clab }
  else s

/-- VFMA (R364): vd is read through its own view as the addend. -/
def vfmaBody (lat : Nat) (d a b : VOp) (x : Fin 4) : Body := fun s => do
  let s ← s.raiseIx [d.view, a.view, b.view] x
  let s := s.bankStall d.r a.r b.r
  let k := s.core
  let n := k.ixVal x
  let va := (k.vreg a.r).e
  let vb := (k.vreg b.r).e
  let vd := (k.vreg d.r).e
  vWrite lat d.r d.view n (s.vLab [a.r, b.r, d.r])
    (fun e => opFma k.isInt k.ftz va[srcIx a.view n e] vb[srcIx b.view n e] vd[e]) s
def execVfma (h : Hdr) (d a b : VOp) (x : Fin 4) (s : State) :=
  runWord (.vfma h d a b x) .v h (vfmaBody (vLat (.vfma h d a b x)) d a b x) s

/-- VSEL (R375). -/
def vselBody (lat : Nat) (d a b : VOp) (x : Fin 4) : Body := fun s => do
  let s ← s.raiseIx [d.view, a.view, b.view] x
  let k := s.core
  let n := k.ixVal x
  let va := (k.vreg a.r).e
  let vb := (k.vreg b.r).e
  vWrite lat d.r d.view n (Label.join (s.vLab [a.r, b.r]) k.cm.lab)
    (fun e => if k.cm.bits.getLsbD e then va[srcIx a.view n e] else vb[srcIx b.view n e]) s
def execVsel (h : Hdr) (d a b : VOp) (x : Fin 4) (s : State) :=
  runWord (.vsel h d a b x) .v h (vselBody (vLat (.vsel h d a b x)) d a b x) s

/-- A value as a container: an INT32 under ETYPE 1, the FP32 value otherwise (R365, R369). -/
def intCont (int : Bool) (i : Int) : W32 := if int then BitVec.ofInt 32 i else fp32OfInt i

def execVmovImm (h : Hdr) (d : Fin 32) (i : BitVec 8) (s : State) :=
  runWord (.vmovImm h d i) .v h (vWhole (vLat (.vmovImm h d i)) d [] fun k _ => intCont k.isInt i.toInt) s
def execViota (h : Hdr) (d : Fin 32) (i : BitVec 9) (s : State) :=
  runWord (.viota h d i) .v h (vWhole (vLat (.viota h d i)) d [] fun k e => intCont k.isInt ((e.val : Int) + i.toInt)) s

/-! ### VCMP (R360) -/

def vcmpBody (lat : Nat) (c : VCond) (a b : VOp) (x : Fin 4) : Body := fun s => do
  let s ← s.raiseIx [a.view, b.view] x
  let k := s.core
  let n := k.ixVal x
  let va := (k.vreg a.r).e
  let vb := (k.vreg b.r).e
  let sel := viewBits a.view n
  let on := (List.finRange 1024).filter fun (e : Fin 1024) =>
    sel.getLsbD e && k.em.bits.getLsbD e && c.holds k.isInt k.ftz va[e] vb[srcIx b.view n e]
  let bits := BitVec.ofNat 1024 (on.map fun e => 2 ^ e.val).sum
  let lab := s.vLab [a.r, b.r]
  let s ← s.need lab
  let s ← s.need (Label.join k.cm.lab lab)
  .ok (After.later (s.modCore fun k => { k with
    vpend := k.vpend ++ [⟨lat, 33, sel, Vector.replicate 1024 0, bits, lab, false, k.next, s.clk + lat⟩] }))
def execVcmp (h : Hdr) (c : VCond) (a b : VOp) (x : Fin 4) (s : State) :=
  runWord (.vcmp h c a b x) .v h (vcmpBody (vLat (.vcmp h c a b x)) c a b x) s

/-! ### Conversions and quantisation (R78, R79, R179, R362, R363) -/

def execVcvt (h : Hdr) (d a : Fin 32) (t u : VTy) (n : Rnd) (q : Bool) (s : State) :=
  runWord (.vcvt h d a t u n q) .v h (vWhole (vLat (.vcvt h d a t u n q)) d [a] fun k e =>
    u.container (convert t u n q k.ftz ((k.vreg a).e[e].toNat % 2 ^ (8 * t.bytes)))) s

/-- The elements `c` to `c + n - 1` of a row. -/
def rowSlice (v : Vector W32 1024) (r c n : Nat) : List W32 := (List.range n).map fun i => v[elIx r (c + i)]

/-- A register from its rows. -/
def ofRows (rows : List (List W32)) : Vector W32 1024 :=
  Vector.ofFn fun e => (rows.getD (e.val / 64) []).getD (e.val % 64) 0

/-- A row of VQNT: vd's and vb's containers (R78, R79, R179, R363). -/
def quantRow (m : Scheme) (row : List W32) : List W32 × List W32 :=
  match m with
  | .fp4 =>
    let qs := (List.range 8).map fun b => quantiseBlock ((row.drop (8 * b)).take 8)
    let pack := fun (cs : List Nat) => ((List.range 8).map fun t => cs.getD t 0 % 16 * 2 ^ (4 * t)).sum
    (qs.map (fun q => BitVec.ofNat 32 (pack q.2)) ++ List.replicate 56 0,
      qs.map (fun q => fp32OfInt (q.1 : Int)) ++ List.replicate 56 0)
  | _ =>
    let q := momentBlock (m == .mom2) row
    (q.2.map fp32OfInt, [round32 (fFP16.value q.1)])

/-- VQNT: every element takes part, EM gates the containers written. .MOM1 and .MOM2 write column 0 of vb alone. -/
def vqntBody (lat : Nat) (d a b : Fin 32) (m : Scheme) : Body := fun s => do
  let k := s.core
  let em := k.em.bits
  let rows := (List.range 16).map fun r => quantRow m (rowSlice (k.vreg a).e r 0 64)
  let lab := s.vLab [a]
  let all := em == BitVec.allOnes 1024
  let s ← s.pendV lat d em (ofRows (rows.map (·.1))) lab all
  let s ← s.pendV lat b (if m == .fp4 then em else em &&& viewBits .c 0) (ofRows (rows.map (·.2))) lab (m == .fp4 && all)
  .ok (After.later s)
def execVqnt (h : Hdr) (d a b : Fin 32) (m : Scheme) (s : State) :=
  runWord (.vqnt h d a b m) .v h (vqntBody (vLat (.vqnt h d a b m)) d a b m) s

/-- A container of VDQNT (R179, R363). -/
def dequant (m : Scheme) (va vb : Vector W32 1024) (e : Fin 1024) : W32 :=
  let r := e.val / 64
  let c := e.val % 64
  match m with
  | .fp4 =>
    let s := match intOf32 vb[elIx r (c / 8)] with | some i => if 0 ≤ i && i ≤ 255 then i.toNat else 255 | none => 255
    round32 (FV.mul (e2m1 (va[elIx r (c / 8)].toNat / 2 ^ (4 * (c % 8)))) (e3m5 s))
  | _ => fpMul false va[e] vb[elIx r 0]
def execVdqnt (h : Hdr) (d a b : Fin 32) (m : Scheme) (s : State) :=
  runWord (.vdqnt h d a b m) .v h (vWhole (vLat (.vdqnt h d a b m)) d [a, b] fun k e => dequant m (k.vreg a).e (k.vreg b).e e) s

/-! ### Permutations, reductions, special functions, selection (R83, R106, R373, R374, R378 to R381) -/

def execVrotr (h : Hdr) (d a : Fin 32) (i : Fin 512) (s : State) :=
  runWord (.vrotr h d a i) .v h (vWhole (vLat (.vrotr h d a i)) d [a] fun k e =>
    (k.vreg a).e[elIx (e.val / 64) (e.val % 64 + 64 - i.val % 64)]) s
def execVrotc (h : Hdr) (d a : Fin 32) (i : Fin 512) (s : State) :=
  runWord (.vrotc h d a i) .v h (vWhole (vLat (.vrotc h d a i)) d [a] fun k e =>
    (k.vreg a).e[elIx (e.val / 64 + 16 - i.val % 16) (e.val % 64)]) s
def execVtrn (h : Hdr) (d a : Fin 32) (s : State) :=
  runWord (.vtrn h d a) .v h (vWhole (vLat (.vtrn h d a)) d [a] fun k e =>
    (k.vreg a).e[elIx (e.val % 16) (e.val % 64 / 16 * 16 + e.val / 64)]) s
def execVsfu (h : Hdr) (d a : Fin 32) (f : Sfu) (s : State) :=
  runWord (.vsfu h d a f) .v h (vWhole (vLat (.vsfu h d a f)) d [a] fun k e => sfu f k.ftz (k.vreg a).e[e]) s

/-- The operation of a reduction, and the identity that an excluded element enters as (R83, R373). -/
def redOp (o : RedOp) (int ftz : Bool) : W32 → W32 → W32 :=
  match o with
  | .add => opAdd int ftz | .max => opMax int ftz | .min => opMin int ftz
def redId (o : RedOp) (int : Bool) : W32 :=
  match o with
  | .add => if int then 0 else 0x80000000#32
  | .max => if int then 0x80000000#32 else 0xFF800000#32
  | .min => if int then 0x7FFFFFFF#32 else 0x7F800000#32

/-- One level of the tree of R83. -/
def pairUp (f : W32 → W32 → W32) : List W32 → List W32
  | a :: b :: r => f a b :: pairUp f r
  | l => l
/-- The tree of R83 over 64 elements. -/
def treeReduce (f : W32 → W32 → W32) (l : List W32) : W32 :=
  ((List.range 6).foldl (fun l _ => pairUp f l) l).headD 0
/-- The sequential reduction of R83. -/
def seqReduce (f : W32 → W32 → W32) : List W32 → W32
  | [] => 0
  | a :: r => r.foldl f a

/-- A register's containers, the excluded ones at the identity. -/
def masked (k : Core) (v : Vector W32 1024) (z : W32) (e : Fin 1024) : W32 := if k.em.bits.getLsbD e then v[e] else z

def redRows (o : RedOp) (k : Core) (v : Vector W32 1024) : List W32 :=
  (List.range 16).map fun r => treeReduce (redOp o k.isInt k.ftz) ((List.range 64).map fun c => masked k v (redId o k.isInt) (elIx r c))
def redCols (o : RedOp) (k : Core) (v : Vector W32 1024) : List W32 :=
  (List.range 64).map fun c => seqReduce (redOp o k.isInt k.ftz) ((List.range 16).map fun r => masked k v (redId o k.isInt) (elIx r c))

def vredrBody (lat : Nat) (d a : Fin 32) (o : RedOp) : Body := fun s =>
  let t := redRows o s.core (s.core.vreg a).e
  vWhole lat d [a] (fun _ e => t.getD (e.val / 64) 0) s
def execVredr (h : Hdr) (d a : Fin 32) (o : RedOp) (s : State) :=
  runWord (.vredr h d a o) .v h (vredrBody (vLat (.vredr h d a o)) d a o) s
def vredcBody (lat : Nat) (d a : Fin 32) (o : RedOp) : Body := fun s =>
  let t := redCols o s.core (s.core.vreg a).e
  vWhole lat d [a] (fun _ e => t.getD (e.val % 64) 0) s
def execVredc (h : Hdr) (d a : Fin 32) (o : RedOp) (s : State) :=
  runWord (.vredc h d a o) .v h (vredcBody (vLat (.vredc h d a o)) d a o) s

/-- Whether a pair of a value and an index comes before another (R106, R380). -/
def topBefore (int : Bool) (a b : W32 × W32) : Bool :=
  let lt := fun (x y : W32) =>
    if int then i32lt x y
    else if isNan32 x then !isNan32 y else if isNan32 y then false else (v32 x).lt (v32 y)
  lt b.1 a.1 || (!lt a.1 b.1 && i32lt a.2 b.2)
/-- A pair put in its place among the best `k`. -/
def topInsert (int : Bool) (p : W32 × W32) : List (W32 × W32) → List (W32 × W32)
  | [] => [p]
  | q :: r => if topBefore int p q then p :: q :: r else q :: topInsert int p r
/-- The best `k` pairs in order, a NaN written as the canonical NaN. -/
def topK (int : Bool) (k : Nat) (ps : List (W32 × W32)) : List (W32 × W32) :=
  (ps.foldl (fun l p => (topInsert int p l).take k) []).map fun p => if !int && isNan32 p.1 then (qnan32, p.2) else p

/-- VTOPK (R106, R380). -/
def vtopkBody (lat : Nat) (d a : Fin 32) (n : Fin 512) : Body := fun s => do
  let k := s.core
  let va := (k.vreg a).e
  let vi := (k.vreg (pairHi a)).e
  let ps := ((List.finRange 1024).filter fun (e : Fin 1024) => k.em.bits.getLsbD e).map fun e => (va[e], vi[e])
  let t := topK k.isInt n.val ps
  let low : W32 := if k.isInt then 0x80000000#32 else 0xFF800000#32
  let vals := t.map (·.1) ++ List.replicate (64 - t.length) low
  let idxs := t.map (·.2) ++ List.replicate (64 - t.length) 0xFFFFFFFF#32
  let lab := s.vLab [a, pairHi a]
  let em := k.em.bits
  let all := em == BitVec.allOnes 1024
  let s ← s.pendV lat d em (ofRows [vals]) lab all
  let s ← s.pendV lat (pairHi d) em (ofRows [idxs]) lab all
  .ok (After.later s)
def execVtopk (h : Hdr) (d a : Fin 32) (n : Fin 512) (s : State) :=
  runWord (.vtopk h d a n) .v h (vtopkBody (vLat (.vtopk h d a n)) d a n) s

end Sys2Proof.Machine
end

