-- ==== Sys2Proof/Machine/VMem.lean ====
section
/-! DEFINITION. The V-stream's words over scratchpad, rings, masks, loops and the core's queues (R92, R97, R101 to R105, R179, R358, R361,
R365 to R368, R370 to R372, R376, R377, R382). -/

namespace Sys2Proof.Machine
open Sys2Proof

/-! ### Landing operations (R97) -/

/-- The effective address of a VM-format access (R92). -/
def Core.vmEa (k : Core) (p : Fin 4) (off : Nat) : Nat := k.p[p].1 + 64 * off

/-- The first scratchpad line of a run that its bank reports as uncorrectable (R356). Log 41: DESIGN CHOICE. -/
def Core.scrPoison (k : Core) (a n : Nat) : Option Nat :=
  ((List.range ((a + n - 1) / 64 - a / 64 + 1)).map (a / 64 + ·)).find? fun l => k.scrBad.contains l

/-- Its token counts a landing operation, and its destination is landing-pending (R97). -/
def Core.startLanding (k : Core) (l : Landing) (d : Option (Fin 32)) : Core :=
  { k with
    landings := k.landings ++ [l]
    lt := k.lt.set l.lt (k.lt[l.lt] + 1)
    landPend := k.landPend ++ match d with | some r => [(r, l.lt)] | none => [] }

/-- The label of a landing result, with the label that R93 keeps (R194). -/
def State.needJoin (s : State) (r : Fin 32) (lab : Label) (repl : Bool) : Except Halt State := do
  let old := s.core.vr[r].lab
  let s ← s.need lab
  if repl then .ok s else s.need (Label.join old lab)

def Core.emAll (k : Core) : Bool := k.em.bits == BitVec.allOnes 1024

/-- VLD (R366). -/
def vldBody (d : Fin 32) (p : Fin 4) (l : Fin 8) (o : Fin 2048) : Body := fun s => do
  let k := s.core
  let vt := k.csr.vtype
  let ty := vtMty vt
  let ea := k.vmEa p o.val
  let n := 1024 * ty.bytes
  let s ← s.raise .v k.p[p].2
  let lab := s.vLab []
  if Config.scratchBytes < ea + n then .error (.trap 0x0011 (BitVec.ofNat 64 ea) lab)
  else if 15 ≤ k.lt[l] then .error .stall
  else match k.scrPoison ea n with
    | some x => .error (.trap 0x0014 (BitVec.ofNat 64 (64 * x)) (Label.join lab (k.segsLabel ea n)))
    | none =>
      let r := k.vphys d
      let lab := Label.join lab (k.segsLabel ea n)
      let s ← s.needJoin r lab k.emAll
      let id := k.next
      let need := (s.scrLocs ea n).map fun x => (0, x, true)
      let s := s.pushLq .v ⟨id, id, .load need (need.map fun _ => none) .landing, none⟩
      let ld : Landing := ⟨id, .vld, l, some r, List.range 1024, k.em.bits, ty, vt, none, 0, lab, k.emAll, none, []⟩
      .ok (After.later (s.modCore fun k => k.startLanding ld (some r)))
def execVld (h : Hdr) (d : Fin 32) (p : Fin 4) (l : Fin 8) (o : Fin 2048) (s : State) :=
  runWord (.vld h d p l o) .v h (vldBody d p l o) s

/-- The bytes of containers in the memory type, in order. -/
def narrowed (ty : VTy) (vt : W64) (xs : List W32) : List Byte := xs.flatMap fun x => natLe ty.bytes (narrow ty vt x)

/-- The bytes that a VST writes: those of the enabled elements (R366). -/
def State.vstBytes (s : State) (d : Fin 32) (ea : Nat) : List (Loc × Byte) :=
  let k := s.core
  let ty := vtMty k.csr.vtype
  let v := (k.vreg d).e
  ((List.finRange 1024).filter fun (e : Fin 1024) => k.em.bits.getLsbD e).flatMap fun e =>
    (s.scrLocs (ea + e.val * ty.bytes) ty.bytes).zip (natLe ty.bytes (narrow ty k.csr.vtype v[e]))

/-- Data of a label may be written to each of these bytes of the core's scratchpad. Log 43: DEDUCED. -/
def Core.locsAllow (k : Core) (lab : Label) (bs : List (Loc × Byte)) : Option Nat :=
  (bs.filterMap fun b => match b.1 with
    | .scr _ a => if Label.sub lab (k.segLabel (a / 4096)) then none else some a
    | _ => none).head?

/-- VST (R366): vs is read at issue. Log 43: DEDUCED. -/
def vstBody (d : Fin 32) (p : Fin 4) (l : Fin 8) (o : Fin 2048) : Body := fun s => do
  let k := s.core
  let vt := k.csr.vtype
  let ty := vtMty vt
  let ea := k.vmEa p o.val
  let s ← s.raise .v k.p[p].2
  let lab := s.vLab [d]
  if Config.scratchBytes < ea + 1024 * ty.bytes then .error (.trap 0x0011 (BitVec.ofNat 64 ea) lab)
  else do
    let s ← s.need lab
    let bs := s.vstBytes d ea
    match k.locsAllow lab bs with
    | some a => .error (.trap 0x0020 (BitVec.ofNat 64 a) lab)
    | none =>
      if 15 ≤ k.lt[l] then .error .stall
      else
        let id := k.next
        let s := s.pushSq .v ⟨id, id, .store bs true false none [], lab, BitVec.ofNat 64 ea, [], none⟩
        let ld : Landing := ⟨id, .vst, l, none, [], 0, ty, vt, none, 0, lab, false, none, []⟩
        .ok (After.later (s.modCore fun k => k.startLanding ld none))
def execVst (h : Hdr) (d : Fin 32) (p : Fin 4) (l : Fin 8) (o : Fin 2048) (s : State) :=
  runWord (.vst h d p l o) .v h (vstBody d p l o) s

/-- VAMO (R358): one entry in both queues, whose words perform one at a time. -/
def vamoBody (d : Fin 32) (p : Fin 4) (l : Fin 8) (o : VAmoOp) (f : Fin 256) : Body := fun s => do
  let k := s.core
  let ea := k.vmEa p f.val
  let s ← s.raise .v k.p[p].2
  let lab := s.vLab [d]
  if Config.scratchBytes < ea + 4096 then .error (.trap 0x0011 (BitVec.ofNat 64 ea) lab)
  else do
    let s ← s.need lab
    match (segsOf ea 4096).find? fun i => !Label.sub lab (k.segLabel i) with
    | some i => .error (.trap 0x0020 (BitVec.ofNat 64 (max ea (4096 * i))) lab)
    | none =>
      if 15 ≤ k.lt[l] then .error .stall
      else match k.scrPoison ea 4096 with
        | some x => .error (.trap 0x0014 (BitVec.ofNat 64 (64 * x)) (Label.join lab (k.segsLabel ea 4096)))
        | none =>
          let r := k.vphys d
          let out := Label.join lab (k.segsLabel ea 4096)
          let s ← s.needJoin r out k.emAll
          let id := k.next
          let s := s.pushLq .v ⟨id, id, .atomic, none⟩
          let s := s.pushSq .v ⟨id, id, .atomic (.vamo o ea 0 k.isInt k.ftz k.em.bits (k.vreg d).e), lab, BitVec.ofNat 64 ea, [], none⟩
          let ld : Landing := ⟨id, .vamo, l, some r, [], k.em.bits, .f32, k.csr.vtype, none, 0, out, k.emAll, none, []⟩
          .ok (After.later (s.modCore fun k => k.startLanding ld (some r)))
def execVamo (h : Hdr) (d : Fin 32) (p : Fin 4) (l : Fin 8) (o : VAmoOp) (f : Fin 256) (s : State) :=
  runWord (.vamo h d p l o f) .v h (vamoBody d p l o f) s

/-- Slots of a ring that older VPOPs hold until they land. Log 38: DEDUCED. -/
def Core.popsDue (k : Core) (r : Nat) : Nat := (k.landings.filter fun l => l.kind == .vpop && l.ring == some r).length

/-- VPOP (R179, R372): it takes the oldest filled slot that no older VPOP holds; the slot is released as the word lands. Log 38: DEDUCED. -/
def vpopBody (d : VOp) (r : Fin 16) (t : VTy) (x : Fin 4) (l : Fin 8) : Body := fun s => do
  let k := s.core
  let g := k.ring r
  let s ← s.raiseIx [d.view] x
  let order := viewOrder d.view (k.ixVal x)
  let n := order.length * t.bytes
  let lab := s.vLab []
  if !g.waitable || g.slotSize < n then .error (ringFault r lab)
  else if 15 ≤ k.lt[l] || g.ready ≤ k.popsDue r then .error .stall
  else
    let slot := g.freed.toNat + k.popsDue r
    match k.scrPoison (g.slotAddr slot) n with
    | some y => .error (.trap 0x0014 (BitVec.ofNat 64 (64 * y)) (Label.join lab (g.slotLabel slot)))
    | none =>
      let s ← s.raise .v (g.slotLabel slot)
      let lab := s.vLab []
      let repl := d.view == .w && k.emAll
      let pr := k.vphys d.r
      let s ← s.needJoin pr lab repl
      let bs := s.slotBytes g slot n
      let ld : Landing := ⟨k.next, .vpop, l, some pr, order, k.em.bits, t, k.csr.vtype, some r.val, slot, lab, repl, some bs, []⟩
      .ok (After.later (s.modCore fun k => k.startLanding ld (some pr)))
def execVpop (h : Hdr) (d : VOp) (r : Fin 16) (t : VTy) (x : Fin 4) (l : Fin 8) (s : State) :=
  runWord (.vpop h d r t x l) .v h (vpopBody d r t x l) s

/-- VPUSH (R179, R372): not masked; the slot is claimed at issue and published as the word lands. -/
def vpushBody (d : VOp) (r : Fin 16) (t : VTy) (x : Fin 4) (l : Fin 8) : Body := fun s => do
  let k := s.core
  let g := k.ring r
  let s ← s.raiseIx [d.view] x
  let order := viewOrder d.view (k.ixVal x)
  let n := order.length * t.bytes
  let lab := Label.join (s.clab .v) (k.vreg d.r).lab
  if !g.claimable || g.slotSize < n || !s.bindingOk r then .error (ringFault r lab)
  else if 15 ≤ k.lt[l] || g.count < g.used + 1 then .error .stall
  else
    let slot := g.claimed.toNat
    if !s.publishOk r slot 1 lab then .error (.trap 0x0020 (BitVec.ofNat 64 r.val) lab)
    else
      let s ← s.need lab
      let id := k.next
      let v := (k.vreg d.r).e
      let bs := narrowed t k.csr.vtype (order.map fun e => v[Fin.ofNat 1024 e])
      let pub := if g.mode = 2 then some (r.val, slot, 1) else none
      let s := (s.pushSq .v ⟨id, id, .store ((s.slotLocs g slot n).zip bs) true false none [], lab, 0, [], pub⟩).noteClaim r
      let ld : Landing := ⟨id, .vpush, l, none, [], 0, t, k.csr.vtype, some r.val, slot, lab, false, none, []⟩
      .ok (After.later ((s.claimSlots r 1).modCore fun k => k.startLanding ld none))
def execVpush (h : Hdr) (d : VOp) (r : Fin 16) (t : VTy) (x : Fin 4) (l : Fin 8) (s : State) :=
  runWord (.vpush h d r t x l) .v h (vpushBody d r t x l) s

/-- VWAITL (R382). -/
def vwaitlBody (m : BitVec 8) : Body := fun s =>
  if (List.finRange 8).any fun (t : Fin 8) => m.getLsbD t && s.core.lt[t] != 0 then .error .stall
  else .ok (After.of (s.modCore fun k => { k with landPend := k.landPend.filter fun p => !m.getLsbD p.2 }))
def execVwaitl (h : Hdr) (m : BitVec 8) (s : State) := runWord (.vwaitl h m) .v h (vwaitlBody m) s

/-! ### Masks (R101, R368) -/

/-- The mask that EM takes, and its label; none for .PUSH. -/
def maskResult (n : MaskOp) (em cm : Mask) (top : Option Mask) (clab : Label) : Option Mask :=
  let both := Label.join (Label.join em.lab cm.lab) clab
  match n with
  | .push => none
  | .pop => top.map fun t => ⟨t.bits, Label.join t.lab clab⟩
  | .setem => some ⟨cm.bits, Label.join cm.lab clab⟩
  | .and => some ⟨em.bits &&& cm.bits, both⟩
  | .or => some ⟨em.bits ||| cm.bits, both⟩
  | .andn => some ⟨em.bits &&& ~~~cm.bits, both⟩
  | .not => some ⟨~~~em.bits, Label.join em.lab clab⟩
  | .all => some ⟨BitVec.allOnes 1024, clab⟩

/-- VMASK: the stack changes at issue, EM at distance 2. Log 34: DEDUCED. -/
def vmaskBody (lat : Nat) (n : MaskOp) : Body := fun s =>
  let k := s.core
  if (n == .push && decide (8 ≤ k.mstack.length)) || (n == .pop && k.mstack.isEmpty) then .error (.trap 0x0013 0 (s.clab .v))
  else match maskResult n k.em k.cm k.mstack.head? (s.clab .v) with
    | none => .ok (After.of (s.modCore fun k => { k with mstack := k.em :: k.mstack }))
    | some m => do
      let s ← s.need m.lab
      .ok (After.later (s.modCore fun k => { k with
        mstack := if n == .pop then k.mstack.tail else k.mstack
        vpend := k.vpend ++ [⟨lat, 32, 0, Vector.replicate 1024 0, m.bits, m.lab, true, k.next, s.clk + lat⟩] }))
def execVmask (h : Hdr) (n : MaskOp) (s : State) := runWord (.vmask h n) .v h (vmaskBody (vLat (.vmask h n)) n) s

/-! ### The C-to-V queue, VTYPE, ix and p (R179, R361, R376, R377) -/

/-- The oldest entry of the queue; a wait, or a stream deadlock once the C-stream has ended. -/
def State.cqvHead (s : State) : Except Halt LW :=
  match s.core.cqV with
  | e :: _ => .ok e
  | [] => .error (if (s.strm .c).ended then .trap 0x0006 17 (s.clab .v) else .stall)
def State.cqvPop (s : State) : State := s.modCore fun k => { k with cqV := k.cqV.tail }

/-- VCQPOP (R361). -/
def vcqpopBody (lat : Nat) (d : Fin 32) : Body := fun s => do
  let e ← s.cqvHead
  let s ← s.raise .v e.lab
  vWhole lat d [] (fun _ _ => e.val.setWidth 32) s.cqvPop
def execVcqpop (h : Hdr) (d : Fin 32) (s : State) := runWord (.vcqpop h d) .v h (vcqpopBody (vLat (.vcqpop h d)) d) s

def vtypeOf (z : Bool) (t : VTy) (n : Rnd) (u e : Bool) : W64 :=
  BitVec.ofNat 64 ((if z then 128 else 0) + t.code * 16 + n.code * 4 + (if u then 2 else 0) + if e then 1 else 0)
/-- VSETT (R377). -/
def vsettBody (v : W64) : Body := fun s => do
  let s ← s.need (Label.join (s.core.csr.labOf .vtype) (s.clab .v))
  .ok (After.of (s.modCore fun k => { k with csr := { k.csr with vtype := v }.joinLab .vtype k.v.clab }))
def execVsett (h : Hdr) (z : Bool) (t : VTy) (n : Rnd) (u e : Bool) (s : State) :=
  runWord (.vsett h z t n u e) .v h (vsettBody (vtypeOf z t n u e)) s

def Core.setIx (k : Core) (g : Fin 4) (v : BitVec 16) (l : Label) : Core := { k with ix := k.ix.set g (v, l) }
def Core.setP (k : Core) (g : Fin 4) (v : Nat) (l : Label) : Core := { k with p := k.p.set g (v, l) }

/-- VSETIX (R179, R376): `p` selects a pointer register, `q` a pop from the queue. -/
def vsetixBody (p q : Bool) (g : Fin 4) (v : BitVec 17) : Body := fun s =>
  if q then do
    let e ← s.cqvHead
    let a := e.val.toNat / 64 * 64
    if p && decide (393152 < a) then .error (.trap 0x0011 (BitVec.ofNat 64 a) (Label.join (s.clab .v) e.lab))
    else
      let s ← s.raise .v e.lab
      .ok (After.of (s.cqvPop.modCore fun k => if p then k.setP g a e.lab else k.setIx g (e.val.setWidth 16) e.lab))
  else
    .ok (After.of (s.modCore fun k => if p then k.setP g (64 * v.toNat) k.v.clab else k.setIx g (v.setWidth 16) k.v.clab))
def execVsetix (h : Hdr) (p q : Bool) (g : Fin 4) (v : BitVec 17) (s : State) :=
  runWord (.vsetix h p q g v) .v h (vsetixBody p q g v) s

/-! ### VLOOP, VSTG (R102, R103, R367) -/

/-- VLOOP: `g` holds S - 1. Inside a body it is illegal where it stands. -/
def vloopBody (n : Fin 64) (g : Fin 8) (x : Fin 4) : Body := fun s => do
  let pc := s.pc .v
  let t := s.core.ixVal x
  let s ← s.raise .v s.core.ix[x].2
  let s := s.modCore fun k => { k with csr := { k.csr with iter := 0, rrb := 0, act := 0 }.joinLab .stg k.v.clab }
  if t = 0 then .ok { After.of s with next := some (pc + BitVec.ofNat 64 (4 * (n.val + 1))) }
  else
    .ok (After.of (s.modCore fun k => { k with
      csr := { k.csr with act := actOf (g.val + 1) t 0 }
      loop := some ⟨pc + 4, n.val, g.val + 1, t, 0, 0, t, 0⟩ }))
def execVloop (h : Hdr) (n : Fin 64) (g : Fin 8) (x : Fin 4) (s : State) := runWord (.vloop h n g x) .v h (vloopBody n g x) s

/-- VSTG: outside a body it has no effect; a stage that the loop lacks is illegal where it stands. -/
def vstgBody (g : Fin 8) : Body := fun s =>
  match s.core.loop with
  | some l =>
    if !l.inside (s.pc .v) then .ok (After.of s)
    else .ok (After.of (s.modCore fun k => { k with loop := some { l with stage := g.val } }))
  | none => .ok (After.of s)
def execVstg (h : Hdr) (g : Fin 8) (s : State) := runWord (.vstg h g) .v h (vstgBody g) s

/-! ### VMRD (R334, R370, R371) -/

/-- Row `i`, columns 64 ch to 64 ch + 63, of a plane. -/
def Plane.half (p : Plane) (i : Nat) (c : Bool) : List W32 :=
  (List.range 64).map fun j => p.acc[Fin.ofNat 12288 (128 * i + (if c then 64 else 0) + j)]
/-- The plane that bears a name now (R334). -/
def Core.plane (k : Core) (p : Bool) : Plane := if p then k.plane1 else k.plane0

/-- The rows that VMRD has read, and those that the watermark has passed by now, in ascending order. -/
def vmrdRows (k : Core) (p c : Bool) : Nat → Nat → List (List W32 × Label) → List (List W32 × Label)
  | 0, _, acc => acc
  | n + 1, i, acc => if (k.plane p).wm ≤ i then acc else vmrdRows k p c n (i + 1) (acc ++ [((k.plane p).half i c, (k.plane p).lab)])

/-- VMRD: it stalls until it has read its rows, each as soon as the watermark passes it. -/
def vmrdBody (lat : Nat) (d : VOp) (p : Bool) (r : Fin 128) (c : Bool) (x : Fin 4) : Body := fun s => do
  let s ← s.raiseIx [d.view] x
  let k := s.core
  let want := if d.view = .w then 16 else 1
  let rows := vmrdRows k p c (want - k.vrows.length) (r.val + k.vrows.length) k.vrows
  if rows.length < want then .error (if rows = k.vrows then .stall else .rows rows)
  else
    let n := k.ixVal x
    let lab := Label.joins (s.vLab [] :: rows.map (·.2))
    let at_ := fun (e : Fin 1024) => ((rows.getD (if d.view = .w then e.val / 64 else 0) ([], 0)).1).getD (e.val % 64) 0
    vWrite lat d.r d.view n lab at_ (s.modCore fun k => { k with vrows := [] })
def execVmrd (h : Hdr) (d : VOp) (p : Bool) (r : Fin 128) (c : Bool) (x : Fin 4) (s : State) :=
  runWord (.vmrd h d p r c x) .v h (vmrdBody (vLat (.vmrd h d p r c x)) d p r c x) s


end Sys2Proof.Machine
end

