-- ==== Sys2Proof/Machine/Welt.lean ====
section
/-! DEFINITION. The welt cut image (R132 to R134, R138): what it holds, its bytes, and its checks. -/

namespace Sys2Proof.Machine
open Sys2Proof

/-- A welt cut image (R132, R134). `map` and `acc` are in the order of the cells, row by row. -/
structure Welt where
  kind : Nat
  plane : Bool
  replay : Bool
  fault : Bool
  mgo : Bool
  l : Bool
  q : Nat
  m : Nat
  n : Nat
  edge : Nat
  kr : Nat
  rpcur : Nat
  slot : Nat
  fmt : W64
  nstcur : W64
  mrowprog : W64
  cmd : W32
  va : W64
  side : Nat
  index : Nat
  step : Nat
  cause : Nat
  tailr : Nat
  plab : Label
  xlab : Label
  nest : Nest
  fmts : List W64
  tail : List (W32 × Nat × W64)
  map : List Nat
  acc : List W32
  deriving DecidableEq, Repr, Inhabited

/-- The cells of an M × N region by anti-diagonals, ascending i within one (R133). -/
def diagCells (m n : Nat) : List (Nat × Nat) :=
  (List.range (m + n - 1)).flatMap fun d =>
    (List.range (min d (m - 1) + 1 - (d + 1 - n))).map fun x => (d + 1 - n + x, d - (d + 1 - n + x))

/-- Bytes with zeros up to a size. -/
def padTo (n : Nat) (l : List Byte) : List Byte := l ++ List.replicate (n - l.length) 0

def mapBytes (m n : Nat) : Nat := roundUp (2 * m * n) 64
/-- Size of an image (R132). -/
def weltSize (m n : Nat) : Nat := 0x800 + mapBytes m n + roundUp (4 * m * n) 64

def Welt.flags (w : Welt) : Nat :=
  (if w.replay then 1 else 0) + (if w.fault then 2 else 0) + (if w.mgo then 4 else 0) + if w.l then 8 else 0

/-- The header (R134). -/
def Welt.header (w : Welt) : List Byte :=
  padTo 256 (natLe 1 w.kind ++ natLe 1 1 ++ natLe 1 (if w.plane then 1 else 0) ++ natLe 1 w.flags ++ natLe 2 w.q ++ natLe 1 w.m ++
    natLe 1 w.n ++ natLe 2 w.edge ++ natLe 2 w.kr ++ natLe 1 w.fmts.length ++ natLe 1 w.rpcur ++ natLe 1 w.tail.length ++
    natLe 1 w.slot ++ natLe 8 w.fmt.toNat ++ natLe 8 w.nstcur.toNat ++ natLe 8 w.mrowprog.toNat ++ natLe 4 w.cmd.toNat ++
    natLe 4 0 ++ natLe 8 w.va.toNat ++ natLe 1 w.side ++ natLe 1 w.index ++ natLe 2 w.step ++ natLe 2 w.cause ++ natLe 2 0 ++
    natLe 1 w.tailr ++ natLe 15 0 ++ natLe 32 w.plab.toNat ++ natLe 32 w.xlab.toNat)

def nestBytes (n : Nest) : List Byte := padTo 512 (n.f.toList.flatMap fun v => natLe 8 v.toNat)
def fmtBytes (l : List W64) : List Byte := padTo 256 (l.flatMap fun v => natLe 8 v.toNat ++ natLe 8 0)
def tailBytes (l : List (W32 × Nat × W64)) : List Byte :=
  padTo 1024 (l.flatMap fun e => natLe 4 e.1.toNat ++ natLe 4 (e.2.1 % 2 ^ 32) ++ natLe 8 e.2.2.toNat)

/-- The whole image (R132, R133). -/
def Welt.bytes (w : Welt) : List Byte :=
  w.header ++ nestBytes w.nest ++ fmtBytes w.fmts ++ tailBytes w.tail ++
    padTo (mapBytes w.m w.n) (w.map.flatMap fun c => natLe 2 c) ++
    padTo (roundUp (4 * w.m * w.n) 64) ((diagCells w.m w.n).flatMap fun c => natLe 4 (w.acc.getD (w.n * c.1 + c.2) 0).toNat)

/-- A field of an image. -/
def fieldAt (bs : List Byte) (off n : Nat) : Nat := leNat ((bs.drop off).take n)
def zerosAt (bs : List Byte) (off n : Nat) : Bool := ((bs.drop off).take n).all (· == 0)

/-- The place of a cell in the accumulator area. -/
def diagPos (m n i j : Nat) : Nat := (diagCells m n).findIdx (· == (i, j))

/-- Reads an image (R132 to R134). -/
def Welt.read (bs : List Byte) : Welt :=
  let g := fieldAt bs
  let m := g 6 1
  let n := g 7 1
  let fl := g 3 1
  let cells := (List.range m).flatMap fun i => (List.range n).map fun j => (i, j)
  { kind := g 0 1, plane := g 2 1 == 1, replay := fl % 2 == 1, fault := fl / 2 % 2 == 1, mgo := fl / 4 % 2 == 1, l := fl / 8 % 2 == 1
    q := g 4 2, m := m, n := n, edge := g 8 2, kr := g 0x0A 2, rpcur := g 0x0D 1, slot := g 0x0F 1
    fmt := BitVec.ofNat 64 (g 0x10 8), nstcur := BitVec.ofNat 64 (g 0x18 8), mrowprog := BitVec.ofNat 64 (g 0x20 8)
    cmd := BitVec.ofNat 32 (g 0x28 4), va := BitVec.ofNat 64 (g 0x30 8), side := g 0x38 1, index := g 0x39 1, step := g 0x3A 2
    cause := g 0x3C 2, tailr := g 0x40 1, plab := BitVec.ofNat 256 (g 0x50 32), xlab := BitVec.ofNat 256 (g 0x70 32)
    nest := ⟨Vector.ofFn fun (i : Fin 51) => BitVec.ofNat 64 (g (0x100 + 8 * i.val) 8), 0⟩
    fmts := (List.range (g 0x0C 1)).map fun i => BitVec.ofNat 64 (g (0x300 + 16 * i) 8)
    tail := (List.range (g 0x0E 1)).map fun i =>
      (BitVec.ofNat 32 (g (0x400 + 16 * i) 4), g (0x404 + 16 * i) 4, BitVec.ofNat 64 (g (0x408 + 16 * i) 8))
    map := cells.map fun c => g (0x800 + 2 * (n * c.1 + c.2)) 2
    acc := cells.map fun c => BitVec.ofNat 32 (g (0x800 + mapBytes m n + 4 * diagPos m n c.1 c.2) 4) }

/-- The smallest count of a map. -/
def minCount (l : List Nat) : Nat := match l with | [] => 0 | x :: r => r.foldl min x

/-- The checks of R138 on the header. Log 91: DEDUCED. -/
def weltHeadOk (bs : List Byte) : Bool :=
  let g := fieldAt bs
  let m := g 6 1
  let n := g 7 1
  let q := g 4 2
  decide (g 0 1 ≤ 2) && g 1 1 == 1 && decide (g 2 1 ≤ 1) && decide (g 3 1 < 16) && decide (g 0x0F 1 ≤ 7) &&
    zerosAt bs 0x2C 4 && zerosAt bs 0x3E 2 && zerosAt bs 0x41 15 && zerosAt bs 0x90 112 &&
    (if g 0 1 = 0 then m == 0 && n == 0 && q == 0
     else decide (1 ≤ m) && decide (m ≤ 96) && decide (1 ≤ n) && decide (n ≤ 128) && decide (1 ≤ q) && decide (q ≤ 4096)) &&
    decide (g 0x0C 1 ≤ 16) && decide (g 0x0E 1 ≤ 63) && decide (g 0x40 1 ≤ g 0x0E 1) && (g 0x40 1 == 0 || g 3 1 % 2 == 1)

/-- The checks of R138 on the map. Log 91: DEDUCED. -/
def Welt.mapOk (w : Welt) : Bool := w.kind == 0 || ((w.map.all fun c => decide (c ≤ w.q)) && w.kr == minCount w.map)

/-- WELTSTAT after a welt (R141). Log 88: DEDUCED. -/
def Welt.stat (w : Welt) (lost : Bool) : W64 :=
  BitVec.ofNat 64 (2 ^ 63 + w.kind * 2 ^ 61 + (if lost then 2 ^ 60 else 0) + (if w.replay then 2 ^ 59 else 0) + w.slot % 8 * 2 ^ 56 +
    w.side % 8 * 2 ^ 53 + w.index % 256 * 2 ^ 45 + w.edge % 8192 * 2 ^ 32 + w.step % 65536 * 2 ^ 16 + w.kr % 65536)

end Sys2Proof.Machine
end

