-- ==== Sys2Proof/Machine/Matrix.lean ====
section
/-! DEFINITION. The systolic array: format words, operands, tiles, steps, the replay window, machine checks and faults (R77, R80 to R85,
R107 to R126, R129 to R131, R256, R257, R325, R330 to R332). -/

namespace Sys2Proof.Machine
open Sys2Proof

/-! ### Nest slots (R29, R112, R114, R115) -/

def Nest.lvl (n : Nest) (l f : Nat) : W64 := n.f[nestIx l f]
def Nest.wide (n : Nest) (f : Nat) : W64 := n.f[nestIx 6 f]

/-- The fields that MCFG latches lie in R112 (R328). -/
def Nest.shapeOk (n : Nest) : Bool :=
  let w := fun f => (n.wide f).toNat
  decide (1 ≤ w 6) && decide (w 6 ≤ 96) && decide (1 ≤ w 7) && decide (w 7 ≤ 128) && decide (1 ≤ w 8) && decide (w 8 ≤ 4096) &&
    decide (w 9 ≤ 2) && decide (w 10 ≤ 2) && decide (w 11 ≤ 3) && w 14 % 256 == 0

/-- A base field is legal for its source (R112). Log 84: DEDUCED. -/
def baseOk (src : Nat) (v : W64) : Bool :=
  if src = 0 then canonical v.toNat else if src = 1 then decide (v.toNat < Config.scratchBytes) else true

/-- A loop level is legal (R28, R112). -/
def Nest.levelOk (n : Nest) (l : Nat) : Bool :=
  let t := (n.lvl l 0).toNat
  let k := (n.lvl l 1).toNat
  let r := (n.lvl l 2).toNat
  decide (t ≤ 65535) && decide (k ≤ 2) && decide (r ≤ 1) && (r == 0 || k == 0)

/-- The temporal levels, innermost first: number, trip count, RED. -/
def Nest.temporal (n : Nest) : List (Nat × Nat × Bool) :=
  ((List.range 6).filter fun l => n.lvl l 1 == 0).map fun l => (l, (n.lvl l 0).toNat, n.lvl l 2 == 1)
/-- Tiles of an MGO (R115). -/
def Nest.tiles (n : Nest) : Nat := n.temporal.foldl (fun p l => p * l.2.1) 1

/-- The row distance of an operand that stands in scratchpad in column order is whole lines (R117). -/
def colOk (src ld : Nat) (col : Bool) : Bool := !(src == 1 && col) || ld % 64 == 0
/-- A whole slot lies in R112, its row distances in R117, and its trip product in R115. Log 84: DEDUCED. -/
def Nest.ok (n : Nest) : Bool :=
  let w := fun f => (n.wide f).toNat
  colOk (w 9) (w 3) (w 11 % 2 == 1) && colOk (w 10) (w 4) (w 11 / 2 % 2 == 1) &&
  (List.range 6).all n.levelOk && n.shapeOk && baseOk (w 9) (n.wide 0) && baseOk (w 10) (n.wide 1) &&
    (w 13 == 1 || canonical (w 2)) && decide (w 3 < 2 ^ 32) && decide (w 4 < 2 ^ 32) && decide (w 5 < 2 ^ 32) &&
    decide (w 12 < 2 ^ 12) && decide (w 13 ≤ 1) && decide (n.tiles < 2 ^ 48)

/-- The digits of a tile index, innermost level first (R115). -/
def digitsOf : List (Nat × Nat × Bool) → Nat → List (Nat × Nat × Bool × Nat)
  | [], _ => []
  | (l, n, r) :: ls, t => (l, n, r, t % n) :: digitsOf ls (t / n)

/-- Tiles before an index vector, outermost level first, that are the last of an output tile. -/
def lastsBelow : List (Nat × Nat × Bool × Nat) → Nat
  | [] => 0
  | (_, n, red, d) :: r =>
    let per := r.foldl (fun p x => if x.2.2.1 then p else p * x.2.1) 1
    if red then (if d + 1 = n then lastsBelow r else 0) else d * per + lastsBelow r
/-- The index vector of the latest first tile at or before one, outermost level first. -/
def firstAt : List (Nat × Nat × Bool × Nat) → List (Nat × Nat × Bool × Nat)
  | [] => []
  | (l, n, red, d) :: r =>
    if red && d != 0 then (l, n, red, 0) :: r.map fun x => (x.1, x.2.1, x.2.2.1, if x.2.2.1 then 0 else x.2.1 - 1)
    else (l, n, red, d) :: firstAt r

/-- The offset of an operand at a tile: temporal digits, and for spatial levels the task's own index (R29, R115). -/
def Nest.offset (n : Nest) (ds : List (Nat × Nat × Bool × Nat)) (sp : List Nat) (f : Nat) : W64 :=
  (List.range 6).foldl (fun (a : W64) l =>
    let i := match ds.find? fun x => x.1 == l with | some x => x.2.2.2 | none => sp.getD l 0
    a + BitVec.ofNat 64 i * n.lvl l f) 0

/-! ### Tiles (R115, R330, R332) -/

def Core.setPlane (k : Core) (p : Bool) (r : Plane) : Core := if p then { k with plane1 := r } else { k with plane0 := r }
def State.modPlane (s : State) (p : Bool) (f : Plane → Plane) : State := s.modCore fun k => k.setPlane p (f (k.plane p))

/-- FMTLVL, WMK0, WMK1, MROWPROG, NSTCUR and WELTSTAT take the M-stream's CLABEL at each update by the array (R307). -/
def State.mark (s : State) (cs : List Csr) : State :=
  s.modCore fun k => { k with csr := cs.foldl (fun r c => r.joinLab c k.m.clab) k.csr }
def wmkOf (p : Bool) : Csr := if p then .wmk1 else .wmk0

/-- Where an operand of a nest slot is read. -/
def srcOf (src : Nat) (base ld : W64) (ring : Nat) : OpSrc :=
  if src = 0 then .virt base ld else if src = 1 then .scr base.toNat ld.toNat else .ring ring 0

/-- Tile `t` of an MGO of slot `ns` (R115, R330). -/
def State.mgoTile (s : State) (ns : Fin 8) (p l z : Bool) (t : Nat) : Tile :=
  let n := s.core.active[ns]
  let ds := digitsOf n.temporal t
  let sp := (s.core.task.map (·.spIdx)).getD []
  let out := ds.reverse
  let first := ds.all fun x => !x.2.2.1 || x.2.2.2 == 0
  let last := ds.all fun x => !x.2.2.1 || x.2.2.2 + 1 == x.2.1
  let w := fun f => (n.wide f).toNat
  { plane := if l then p != (lastsBelow (firstAt out) % 2 == 1) else p
    m := w 6, n := w 7, kstep := w 8, order := w 11
    a := srcOf (w 9) (n.wide 0 + n.offset ds sp 3) (n.wide 3) (w 12 % 16)
    b := srcOf (w 10) (n.wide 1 + n.offset ds sp 4) (n.wide 4) (w 12 / 16 % 16)
    sparse := none, z := first && z, point := first && z, lab := n.lab, nest := n, save := n.wide 14, slot := ns.val
    drain := if l && last then
        some (if w 13 = 1 then .ring (w 12 / 256 % 16) else .mem (n.wide 2 + n.offset ds sp 5) (n.wide 5) n.lab)
      else none }

/-- The nest copy that a cut MMA or MMAS saves (R135). -/
def TileCfg.nest (c : TileCfg) : Nest :=
  let put := fun (v : Vector W64 51) (f : Nat) (x : Nat) => v.set (nestIx 6 f) (BitVec.ofNat 64 x)
  let v := put (put (put (put (put (put (Vector.replicate 51 0) 6 c.m) 7 c.n) 8 c.kstep) 9 c.asrc) 10 c.bsrc) 11 c.order
  ⟨v.set (nestIx 6 14) c.save, c.lab⟩

/-- The tile of an MMA or MMAS (R332). Log 87: DEDUCED. -/
def Core.mmaTile (k : Core) (p : Bool) (a b c : Fin 16) (l z t sparse : Bool) : Tile :=
  let g := k.cfg
  { plane := p, m := g.m, n := g.n, kstep := g.kstep, order := 0, a := .ring a.val 0, b := .ring b.val 0
    sparse := if sparse then some c.val else none, z := z, point := z && t, lab := g.lab, nest := g.nest, save := g.save, slot := g.slot
    drain := if l && !sparse then some (.ring c.val) else none }

/-- The checks of R332 before a tile starts: a cause and a TVAL. -/
def Core.mmaFault (k : Core) (a b c : Fin 16) (l sparse : Bool) : Option (Nat × W64) :=
  let g := k.cfg
  let exp := fun (r : Fin 16) => (k.ring r.val).mode == 2
  if g.kstep = 0 || g.asrc != 2 || g.bsrc != 2 then some (0x0031, 0)
  else if a = b || ((sparse || l) && (c == a || c == b)) then some (0x0012, BitVec.ofNat 64 a.val)
  else if exp a then some (0x0012, BitVec.ofNat 64 a.val)
  else if exp b then some (0x0012, BitVec.ofNat 64 b.val)
  else if sparse && exp c then some (0x0012, BitVec.ofNat 64 c.val)
  else if sparse && g.kstep % 16 != 0 then some (0x0031, 0)
  else none

/-! ### Operands (R77, R117, R121) -/

/-- Bytes of `n` elements of `b` bits. -/
def bytesOf (n b : Nat) : Nat := (n * b + 7) / 8

/-- An operand of a tile: its side, whether it stands in column order, its source, its stored rows and their length. -/
structure OpShape where
  side : Nat
  col : Bool
  src : OpSrc
  nr : Nat
  rl : Nat
  deriving DecidableEq, Repr, Inhabited

def OpSrc.isRing : OpSrc → Bool
  | .ring .. => true | _ => false

/-- The operands of a tile under its format word, in the order in which their slots are taken. -/
def opShapes (t : Tile) (w : W64) : List OpShape :=
  let b := mBits (fwA w)
  let fp4 := mClass (fwA w) == 3
  let acol := t.order % 2 == 1 && !t.a.isRing
  let bcol := t.order / 2 % 2 == 1 && !t.b.isRing
  let ka := if t.sparse.isSome then t.kstep / 2 else t.kstep
  [⟨0, acol, t.a, if acol then ka else t.m, if acol then bytesOf t.m b else bytesOf ka b⟩,
   ⟨1, bcol, t.b, if bcol then t.n else t.kstep, if bcol then bytesOf t.kstep b else bytesOf t.n b⟩] ++
  (match t.sparse with | some r => [⟨4, false, .ring r 0, t.m, (t.kstep + 15) / 16⟩] | none => []) ++
  (if fp4 then [⟨2, false, .ring (fwAsrg w) 0, t.m, (t.kstep + 7) / 8⟩, ⟨3, false, .ring (fwBsrg w) 0, t.kstep / 8, t.n⟩] else []) ++
  (if fwBand w then [⟨5, false, .scr (fwBandPtr w * 8) 8, 1, 8⟩] else [])

/-- The checks of R126 and R148 on one operand. -/
def Core.shapeFault (k : Core) (o : OpShape) : Option (Nat × W64) :=
  match o.src with
  | .ring r _ =>
    let g := k.ring r
    if !(g.valid && (g.mode == 0 || g.mode == 1)) then some (0x0012, BitVec.ofNat 64 r)
    else if g.slotSize < o.nr * roundUp o.rl 64 then some (0x0031, 0)
    else none
  | .scr base ld =>
    if Config.scratchBytes < base + (o.nr - 1) * ld + o.rl || (o.col && (o.rl % 64 != 0 || ld % 64 != 0)) then some (0x0031, 0)
    else none
  | .virt .. => none

/-- The checks that a tile makes before it pops its format word (R81, R126, R325). -/
def Core.tileFault (k : Core) (t : Tile) (w : W64) : Option (Nat × W64) :=
  let ow := (fwOty w).bytes
  if !fmtOk w t.sparse.isSome then some (0x0031, w)
  else if mClass (fwA w) = 3 && t.kstep % 8 != 0 then some (0x0031, 0)
  else match (opShapes t w).findSome? k.shapeFault with
    | some f => some f
    | none =>
      match t.drain with
      | some (.mem base ld _) => if base.toNat % ow != 0 || ld.toNat % ow != 0 then some (0x0031, 0) else none
      | _ => none

/-- The fields from which a tile has been made lie in R112, whatever image they came from (R126, R138). -/
def Tile.fieldsOk (t : Tile) (mgo : Bool) : Bool := if mgo then t.nest.ok else t.nest.shapeOk

/-- Rows with every byte still to be fetched. -/
def waitRows (nr rl : Nat) : List (List OpByte) := List.replicate nr (List.replicate rl .wait)

/-- A load of operand bytes enters the M-stream's load queue (R175). -/
def State.pushOperand (s : State) (id side row off : Nat) (need : List (Nat × Loc × Bool)) : State :=
  let q := s.core.next
  (s.pushLq .m ⟨id, q, .load need (need.map fun _ => none) (.operand side row off), none⟩).modCore fun k => { k with next := q + 1 }

/-- The bytes of a stopped tile's operand that its MROWPROG counts: whole rows of A, whole rows of B along K (R118). Log 82: DEDUCED. -/
def OpRows.kept (o : OpRows) (bits lim : Nat) : List (List OpByte) :=
  ((List.range o.rows.length).zip o.rows).map fun x =>
    ((List.range x.2.length).zip x.2).map fun b =>
      if (if o.col then (8 * b.1 + 7) / bits else x.1) < lim then (match b.2 with | .val v => .val v | _ => .wait) else .wait
/-- What a restarted tile need not fetch of an operand (R118, R138). Log 82: DEDUCED. -/
def State.keptRows (s : State) (c : Cmd) (w : W64) (side : Nat) : List (List OpByte) :=
  let m := s.core.csr.mrowprog.toNat
  match (c.again.toList.flatMap (·.ops)).find? fun o => o.side == side with
  | some o =>
    if m / 2 ^ 56 % 2 = 0 then []
    else if side = 0 then o.kept (mBits (fwA w)) (m / 2 ^ 32 % 256)
    else if side = 1 then o.kept (mBits (fwB w)) (m / 2 ^ 40 % 65536)
    else []
  | none => []

/-- What a stored row of an operand gives: the state, the row's bytes, the label of what is read, or an uncorrectable entry. Bytes that are
there already are not fetched (R118). The fetch takes neither from copies nor into them (R151). -/
def State.fetchRuns (s : State) (id side row : Nat) (p : Pipe) (va : W64) :
    List (Nat × Nat) → List OpByte → Label → Except Nat (State × List OpByte × Label)
  | [], bs, lab => .ok (s, bs, lab)
  | (a, n) :: r, bs, lab =>
    let got := (((bs.drop (a - va.toNat)).take n).takeWhile fun b => b != .wait).length
    let a := a + got
    let n := n - got
    let off := a - va.toNat
    let bad := fun (c : Nat) => putBytes bs off (List.replicate n (.fault c))
    if n = 0 then State.fetchRuns s id side row p va r bs lab
    else match s.translate p (BitVec.ofNat 64 a) .read with
    | .error (.poisoned pa) => .error pa
    | .error (.fault c) => State.fetchRuns s id side row p va r (bad c) lab
    | .ok (s, pa, _) =>
      if !s.farOk pa then State.fetchRuns s id side row p va r (bad (cBadFrame (s.leafLevel p a))) lab
      else
        let need := (List.range n).map fun i => (0, Loc.mem (pa + i), true)
        State.fetchRuns (s.pushOperand id side row off need) id side row p va r bs (Label.join lab (s.readLab pa))

/-- The stored rows of a virtual-memory operand, from row `i` on. -/
def State.fetchRows (s : State) (id : Nat) (o : OpShape) (p : Pipe) (base ld : W64) (old : List (List OpByte)) :
    Nat → Nat → List (List OpByte) → Label → Except Nat (State × List (List OpByte) × Label)
  | 0, _, acc, lab => .ok (s, acc.reverse, lab)
  | n + 1, i, acc, lab =>
    let va := base + BitVec.ofNat 64 i * ld
    match s.fetchRuns id o.side i p va (pageRuns va.toNat o.rl) (old.getD i (List.replicate o.rl .wait)) lab with
    | .error pa => .error pa
    | .ok (s, bs, lab) => State.fetchRows s id o p base ld old n (i + 1) (bs :: acc) lab

/-- Rows in this core's scratchpad: their loads (R117). -/
def State.fetchScr (s : State) (id side : Nat) (rl : Nat) (as : List Nat) : State :=
  ((List.range as.length).zip as).foldl (fun s x =>
    s.pushOperand id side x.1 0 ((s.scrLocs x.2 rl).map fun l => (0, l, true))) s

/-- The fetch of an operand that issues at the pop (R175, R325); a ring operand waits for its slot. -/
def State.fetchOp (s : State) (id : Nat) (o : OpShape) (old : List (List OpByte)) (lab : Label) : Except Nat (State × OpRows × Label) :=
  match o.src with
  | .virt base ld =>
    match s.fetchRows id o (if o.side = 0 then .matA else .matB) base ld old o.nr 0 [] lab with
    | .error pa => .error pa
    | .ok (s, rows, lab) =>
      .ok (s, ⟨o.side, o.col, o.src, o.rl, (List.range o.nr).map fun i => base + BitVec.ofNat 64 i * ld, rows⟩, lab)
  | .scr base ld =>
    let as := (List.range o.nr).map fun i => base + i * ld
    .ok (s.fetchScr id o.side o.rl as, ⟨o.side, o.col, o.src, o.rl, as.map fun _ => 0, waitRows o.nr o.rl⟩,
      Label.joins (lab :: as.map fun a => s.core.segsLabel a o.rl))
  | .ring .. => .ok (s, ⟨o.side, o.col, o.src, o.rl, (List.range o.nr).map fun _ => 0, waitRows o.nr o.rl⟩, lab)

def State.fetchOps (s : State) (id : Nat) (old : Nat → List (List OpByte)) :
    List OpShape → Label → Except Nat (State × List OpRows × Label)
  | [], lab => .ok (s, [], lab)
  | o :: r, lab =>
    match s.fetchOp id o (old o.side) lab with
    | .error pa => .error pa
    | .ok (s, x, lab) =>
      match State.fetchOps s id old r lab with
      | .error pa => .error pa
      | .ok (s, l, lab) => .ok (s, x :: l, lab)

def Run.fp4 (r : Run) : Bool := mClass (fwA r.fmt) == 3
/-- The metadata byte of a group of a row (R121). -/
def Run.metaByte (r : Run) (i g : Nat) : OpVal := (r.op 4).bytesAt i (g / 2) 1
def OpVal.get : OpVal → Nat
  | .code n => n | _ => 0
/-- The present position of pair `b` of a group, from its nibble (R121). -/
def presentAt (nib b : Nat) : Nat := 2 * b + nib / 2 ^ b % 2
def Run.nibble (r : Run) (i g : Nat) : Nat := (r.metaByte i g).get / 16 ^ (g % 2) % 16

/-- The positions of a step of a row: the stored index of the A element, if it is present, and its k (R82, R84, R108, R121). -/
def Run.terms (r : Run) (i q : Nat) : List (Option Nat × Nat) :=
  let one := fun (k : Nat) =>
    if r.t.sparse.isSome then
      let b := k % 8 / 2
      (if presentAt (r.nibble i (k / 8)) b = k % 8 then some (k / 8 * 4 + b) else none, k)
    else (some k, k)
  if r.fp4 then
    if r.t.sparse.isSome then (List.range 8).map fun x => one (8 * q + x) else (List.range 4).map fun x => one (4 * q + x)
  else [one q]

/-- A's and B's band scales (R77). -/
def Run.band (r : Run) (b : Bool) (x : Nat) : OpVal := (r.op 5).bytesAt 0 (2 * ((if b then 2 else 0) + min (x / 64) 1)) 2

/-- Everything that a row edge enters in a step. -/
def Run.rowVals (r : Run) (i q : Nat) : List OpVal :=
  let ts := r.terms i q
  (if r.t.sparse.isSome then ts.map fun x => r.metaByte i (x.2 / 8) else []) ++
    (ts.filterMap fun x => x.1.map fun t => r.aElem i t) ++
    (if r.fp4 then ts.map fun x => (r.op 2).bytesAt i (x.2 / 8) 1 else []) ++
    (if fwBand r.fmt then [r.band false i] else [])
/-- The k of a step, whatever the row. -/
def Run.ks (r : Run) (q : Nat) : List Nat :=
  if r.fp4 then (if r.t.sparse.isSome then (List.range 8).map (8 * q + ·) else (List.range 4).map (4 * q + ·)) else [q]
/-- Everything that a column edge enters in a step. -/
def Run.colVals (r : Run) (j q : Nat) : List OpVal :=
  (r.ks q).map (fun k => r.bElem k j) ++
    (if r.fp4 then (r.ks q).map fun k => (r.op 3).bytesAt (k / 8) j 1 else []) ++
    (if fwBand r.fmt then [r.band true j] else [])

/-- The decoded value of an element, with its block and band scales for FP4 (R77). -/
def Run.value (r : Run) (b : Bool) (x k : Nat) (v : OpVal) : FV :=
  let e := mValue (if b then fwB r.fmt else fwA r.fmt) v.get
  if !r.fp4 then e
  else
    let sc := if b then (r.op 3).bytesAt (k / 8) x 1 else (r.op 2).bytesAt x (k / 8) 1
    let e := FV.mul e (e3m5 sc.get)
    if fwBand r.fmt then FV.mul e (fBF16.value (r.band b x).get) else e

/-- One position's product; a skipped position by R84, which may set SKIPSPEC. -/
def Run.product (r : Run) (i j : Nat) (x : Option Nat × Nat) : FV × Bool :=
  let b := r.value true j x.2 (r.bElem x.2 j)
  match x.1 with
  | some t => (FV.mul (r.value false i x.2 (r.aElem i t)) b, false)
  | none => if b.isFin then (.fin false 0 0, false) else if fwStrict r.fmt then (.nan, false) else (.fin false 0 0, true)
/-- One step of a cell (R82, R84). -/
def Run.cell (r : Run) (i j q : Nat) (acc : W32) : W32 × Bool :=
  let ts := r.terms i q
  if mClass (fwA r.fmt) = 2 then
    let sum := ts.foldl (fun (t : Int) x => match x.1 with
      | some a => t + mInt (fwA r.fmt) (r.aElem i a).get * mInt (fwB r.fmt) (r.bElem x.2 j).get
      | none => t) 0
    (BitVec.ofInt 32 (acc.toInt + sum), false)
  else
    let ps := ts.map (r.product i j)
    (round32 (FV.sum (v32 acc :: ps.map (·.1))), ps.any (·.2))

/-! ### Counts and faults (R129, R130) -/

def Run.prev (r : Run) (i j : Nat) : Nat := r.nprev.getD (r.t.n * i + j) 0
def Run.stop (r : Run) (i j : Nat) : Nat := min (r.stopA.getD i r.q) (r.stopB.getD j r.q)
/-- The progress count of a cell (R130). -/
def Run.count (r : Run) (i j : Nat) : Nat := min r.q (max (r.prev i j) (min r.entered (r.stop i j)))
def Run.cells (r : Run) : List (Nat × Nat) := (List.range r.t.m).flatMap fun i => (List.range r.t.n).map fun j => (i, j)
/-- The step at which the edges have stopped. -/
def Run.limit (r : Run) : Nat := min r.q (min (r.stopA.foldl max 0) (r.stopB.foldl max 0))

/-- The failing elements that the stream still enters: side, edge, step, cause, address (R129). -/
def Run.failing (r : Run) (kr : Nat) : List (Nat × Nat × Nat × Nat × W64) :=
  let per := if r.fp4 then 4 else 1
  let pick := fun (side x k : Nat) (v : OpVal) => match v with
    | .fault c va => if kr ≤ k / per then some (side, x, k / per, c, va) else none
    | _ => none
  ((List.range r.t.m).flatMap fun i => (List.range r.t.kstep).filterMap fun k => pick 0 i k (r.aElem i k)) ++
    (List.range r.t.n).flatMap fun j => (List.range r.t.kstep).filterMap fun k => pick 1 j k (r.bElem k j)

/-- The faulting element: the earliest at its edge, A before B, then the lower edge (R129). -/
def Run.firstFault (r : Run) (kr : Nat) : Option TFault :=
  let c := mClocks (fwA r.fmt)
  let due := fun (x : Nat × Nat × Nat × Nat × W64) => c * (x.2.2.1 - kr) + x.2.1
  let best := (r.failing kr).foldl (fun (b : Option (Nat × Nat × Nat × Nat × W64)) x => match b with
    | none => some x
    | some y => if due x < due y then some x else b) none
  best.map fun x => ⟨x.1, x.2.1, x.2.2.1, x.2.2.2.1, x.2.2.2.2, x.2.2.1 + x.2.1⟩

/-- The steps that the edges of a side may enter (R129). -/
def Run.stops (r : Run) (kr side n : Nat) (f : Option TFault) : List Nat :=
  (List.range n).map fun x =>
    match f with
    | none => r.q
    | some f =>
      let u := ((r.failing kr).filter fun y => y.1 == side && y.2.1 == x).foldl (fun u y => min u y.2.2.1) r.q
      min (f.e - x) u

/-! ### The replay window and ring retention (R125) -/

/-- Ring slots that the array holds. -/
def Core.heldOf (k : Core) (r : Nat) : Nat :=
  ((k.plane0.held ++ k.plane1.held ++ k.cuts.flatMap (·.held)).filter fun x => x.1 == r).length

/-- How far a held slot lies above the first slot of its ring that has not been released. -/
def Core.slotAge (k : Core) (x : Nat × Nat) : Nat := (BitVec.ofNat 32 x.2 - (k.ring x.1).freed).toNat
/-- Some of the slots is an older one of the same ring. -/
def Core.elder (k : Core) (x : Nat × Nat) (l : List (Nat × Nat)) : Bool := l.any fun y => y.1 == x.1 && decide (k.slotAge y < k.slotAge x)
/-- Gives a slot to the first cut that holds an older one of its ring. -/
def giveCut (k : Core) (x : Nat × Nat) : List CutHold → List CutHold
  | [] => []
  | c :: r => if k.elder x c.held then { c with held := c.held ++ [x] } :: r else c :: giveCut k x r
/-- A slot of plane `p`'s output tile is released. Slots of a ring are released in order (R24), so one behind a slot that another output tile
holds goes with that tile. Log 80: DEDUCED. -/
def Core.letGo (p : Bool) (k : Core) (x : Nat × Nat) : Core :=
  let o := k.plane !p
  if k.elder x o.held then k.setPlane (!p) { o with held := o.held ++ [x] }
  else if k.cuts.any fun c => k.elder x c.held then { k with cuts := giveCut k x k.cuts }
  else k.release x.1 1
/-- The output tile of a plane retires: its ring slots are released and it leaves the window (R125). -/
def Core.retireOut (k : Core) (p : Bool) : Core :=
  let r := k.plane p
  r.held.foldl (Core.letGo p) (k.setPlane p { r with held := [], win := [], used := false })

/-- A plane zeroed with a new label, as MZERO, MCFG with X and a saved cut leave it (R111, R124, R135). -/
def Plane.cleared (r : Plane) (lab : Label) : Plane :=
  { r with acc := Vector.replicate 12288 0, lab := lab, wm := 96, dirty := false, fin := none }

/-- Commands that the engine holds (R125): those retained, those in progress that are not yet or no longer retained, those not started. Log
80: DEDUCED. -/
def Core.heldCmds (k : Core) : Nat :=
  k.plane0.win.length + k.plane1.win.length + k.fifo.length +
    ((k.mgo.toList.map (·.id) ++ (k.run.toList.filter fun r => !r.began).map (·.cmd.id) ++
      (k.drains.map (·.id)).filter fun i => !((k.plane0.win ++ k.plane1.win).any fun e => e.cmd.id == i)).dedup).length

/-- A started tile enters the window of its plane; the oldest leave it when more than 64 would be held. Log 80: DEDUCED. -/
def Core.keep (k : Core) (p : Bool) (e : Kept) : Core :=
  let r := k.plane p
  let room := 63 - (k.plane !p).win.length - k.fifo.length
  k.setPlane p { r with win := r.win.drop (r.win.length - room) ++ [e] }

/-! ### Faults of the array (R119, R250, R324) -/

/-- A command and every younger one leave the array; tokens that they took go back (R250). Drains that have begun run on. Log 80: DEDUCED; log 89: DEDUCED. -/
def Core.dropCmds (k : Core) (id : Nat) : Core :=
  let gone := k.m.infl.filter fun i => decide (id ≤ i.id)
  let k := gone.foldl (fun k i => i.took.foldl (fun k q => k.giveTok (Fin.ofNat 16 q)) k) k
  let keep := fun (c : Option Cmd) => c.filter fun c => decide (c.id < id)
  { k with
    fifo := k.fifo.filter fun c => decide (c.id < id)
    mgo := keep k.mgo
    run := k.run.filter fun r => decide (r.cmd.id < id)
    drains := k.drains.filter fun d => d.began || decide (d.id < id)
    owner := k.owner.filter fun o => decide (o < id)
    m := { k.m with
      infl := k.m.infl.filter fun i => decide (i.id < id)
      lq := k.m.lq.filter fun e => decide (e.id < id)
      blocked := none } }

/-- A fault of an accepted command, precise at it, with its ResultLabel (R198). Log 86: DEDUCED; log 87: DEDUCED; log 93: DEDUCED. -/
def State.arrayTrap (s : State) (id : Nat) (pc : W64) (cause : Nat) (tval : W64) (lab : Label) : State :=
  (s.modCore fun k => k.dropCmds id).trapAt .m cause tval pc lab false

/-- The labels that a command brings to its results: the M-stream's CLABEL at its issue, its nest slot's or configuration's, for a drain the
plane's (R110, R324, R329). -/
def Core.cmdLab (k : Core) (c : Cmd) : Label :=
  Label.join c.lab (match c.cmd with
    | .mgo ns .. => k.active[ns].lab
    | .mma .. => k.cfg.lab
    | .drain p (.mem _ _ l) => Label.join (k.plane p).lab l
    | .drain p _ => (k.plane p).lab)

/-- A fault of a tile: an MGO stops with NSTCUR naming the tile (R119, R330). Log 86: DEDUCED. -/
def State.tileTrap (s : State) (c : Cmd) (pend : Bool) (cause : Nat) (tval : W64) (lab : Label) : State :=
  let lab := Label.join (s.core.cmdLab c) lab
  let s := match c.cmd with
    | .mgo ns .. => s.modCore fun k => { k with stopAt := some (ns, c.tile, pend) }
    | _ => s
  s.arrayTrap c.id c.pc cause tval lab

/-! ### Starting a tile (R110, R325) -/

/-- NSTCUR names a tile, with ACTIVE as it is to be. -/
def Core.nameTile (k : Core) (active : Bool) (ns : Fin 8) (t : Nat) : Core :=
  let v : W64 := BitVec.ofNat 64 ((if active then 2 ^ 63 else 0) + ns.val * 2 ^ 60 + t % 2 ^ 48)
  { k with csr := { k.csr with nstcur := v }.joinLab .nstcur k.m.clab }
/-- NSTCUR names the current tile; ACTIVE is 1 while an MGO runs, and a tile that a replay runs again for one that has retired does not set
it. An MGO that a trap has stopped stays named (R116, R331). -/
def State.setNst (s : State) (ns : Fin 8) (t : Nat) : State :=
  s.modCore fun k => if k.stopAt.isSome then k else k.nameTile k.owner.isSome ns t

/-- The drain that follows a tile. -/
def drainOf (c : Cmd) (t : Tile) : Option Drain :=
  t.drain.map fun d => ⟨c.id, c.pc, match c.cmd with | .mgo ns .. => some (ns, c.tile) | _ => none, t.plane, d, false, 0, [], 0, 0⟩

def State.tileNew (s : State) (c : Cmd) : Tile :=
  match c.cmd with
  | .mgo ns p l z _ => s.mgoTile ns p l z c.tile
  | .mma p a b r l z t sp => s.core.mmaTile p a b r l z t sp
  | .drain .. => default
/-- The tile of a command: as it first ran, where the engine retains it. -/
def State.tileFor (s : State) (c : Cmd) : Tile := (c.again.bind (·.tile)).getD (s.tileNew c)
def State.tileCheck (s : State) (c : Cmd) (t : Tile) : Option (Nat × W64) :=
  match c.cmd with
  | .mma _ a b r l _ _ sp =>
    match s.core.mmaFault a b r l sp with
    | some f => some f
    | none => if t.fieldsOk false then none else some (0x0031, 0)
  | _ => if t.fieldsOk true then none else some (0x0031, 0)

/-- The MGO in progress goes on to its next tile, or has issued its last fetch (R111). -/
def State.nextTile (s : State) (c : Cmd) : State :=
  match c.cmd with
  | .mgo ns .. =>
    s.modCore fun k => { k with mgo := if c.tile + 1 < k.active[ns].tiles then some { c with tile := c.tile + 1, pend := false } else none }
  | _ => s

/-- A command leaves the place from which its tile starts. -/
def State.consume (s : State) (c : Cmd) : State :=
  match c.again, c.cmd with
  | none, .mgo .. => s.nextTile c
  | _, _ => s.modCore fun k => { k with fifo := k.fifo.drop 1 }

/-- An MGO at the head of the FIFO comes into progress (R330, R331): one with no tile is done, and a pending drain goes first. Log 90: DEDUCED. -/
def State.loadMgo (s : State) : State :=
  match s.core.mgo, s.core.fifo with
  | none, c :: rest =>
    match c.cmd, c.again with
    | .mgo ns p l z _, none =>
      let s := (s.modCore fun k => { k with fifo := rest, owner := some c.id }).setNst ns c.tile
      if s.core.active[ns].tiles ≤ c.tile then s.settleWord .m c.id
      else if c.pend then
        let t := s.mgoTile ns p l z c.tile
        let s := s.modCore fun k => { k with drains := k.drains ++ (drainOf c t).toList }
        s.nextTile c
      else s.modCore fun k => { k with mgo := some c }
    | _, _ => s
  | _, _ => s

/-- The command whose tile starts next: one that runs again, then the MGO in progress, then the head of the FIFO (R324, R325). -/
def Core.nextCmd (k : Core) : Option Cmd :=
  match k.fifo, k.mgo with
  | c :: _, m => if c.again.isSome then some c else match m with
    | some g => some g
    | none => match c.cmd with | .mma .. => some c | _ => none
  | [], m => m

/-- The ring slots that a tile takes: side, ring, slot; those it consumed before when it runs again (R117, R138). A tile consumes one slot of
each ring that it reads, so operands that name one ring share its slot. Log 102: DEDUCED. -/
def Run.wants (r : Run) (k : Core) : List (Nat × Nat × Nat) :=
  let old := (r.cmd.again.map (·.slots)).getD []
  (r.ops.foldl (fun (acc : List (Nat × Nat × Nat)) o =>
    match o.src with
    | .ring g _ =>
      match old.find? fun x => x.1 == o.side with
      | some x => acc ++ [x]
      | none =>
        match acc.find? fun x => x.2.1 == g with
        | some x => acc ++ [(o.side, g, x.2.2)]
        | none => acc ++ [(o.side, g, (k.ring g).freed.toNat + k.heldOf g)]
    | _ => acc) [])
/-- The slots of `wants` that are new. -/
def Run.fresh (r : Run) (l : List (Nat × Nat × Nat)) : List (Nat × Nat × Nat) :=
  let old := (r.cmd.again.map (·.slots)).getD []
  l.filter fun x => !(old.any fun y => y.1 == x.1)

/-- The plane starts (R110): its counts and record, the window, its label. `clab` is the M-stream's CLABEL. -/
def Core.startPlane (k : Core) (r : Run) (lab : Label) (fresh : List (Nat × Nat)) : Core :=
  let p := r.t.plane
  let again := r.cmd.again.isSome
  let k := if r.t.point && !again then k.retireOut p else k
  let o := k.plane p
  let zero := r.t.z && !((r.cmd.again.map fun a => a.counts.isSome).getD false)
  let k := k.setPlane p { o with
    acc := if zero then Vector.replicate 12288 0 else o.acc
    lab := lab, wm := 0, dirty := true, m := r.t.m, n := r.t.n, int := mClass (fwA r.fmt) == 2, oty := fwOty r.fmt
    ornd := fwOrnd r.fmt, osat := fwOsat r.fmt, fin := none, held := o.held ++ fresh }
  if (r.cmd.again.map (·.kept)).getD false then k else k.keep p ⟨{ r.cmd with again := none }, r.fmt, r.flab, r.slots, r.t.point, none, none, r.t⟩

/-- The label of the plane of a tile that starts (R110); a tile that runs again lowers no label (R200, R256). -/
def State.startLab (s : State) (r : Run) (slots : Label) : Label :=
  let base := if r.t.z && r.cmd.again.isNone then 0 else (s.core.plane r.t.plane).lab
  Label.joins [base, s.clab .m, r.cmd.lab, r.lab, r.t.lab, slots]

/-- The waits of step 5 and the start of step 6 (R325). -/
def State.takeSlots (s : State) (r : Run) : State :=
  let k := s.core
  let ws := r.wants k
  let ready := (r.fresh ws).all fun x => decide (x.2.2 < (k.ring x.2.1).freed.toNat + (k.ring x.2.1).ready)
  if !ready then s
  else
    let slab := Label.joins (ws.map fun x => (k.ring x.2.1).slotLabel x.2.2)
    let back := fun (s : State) =>
      (s.modCore fun k => { k with
        popped := if r.cmd.again.isSome then k.popped else some ⟨r.fmt, r.flab⟩
        run := none, m := { k.m with lq := k.m.lq.filter fun e => e.id != r.cmd.id } }).tileTrap r.cmd false 0x0022 0
        (Label.joins [r.flab, r.lab, slab])
    match s.raise .m slab with
    | .error _ => back s
    | .ok s =>
      let lab := s.startLab r slab
      if !s.canIntern lab then back s
      else
        let s := s.intern lab
        let s := r.ops.foldl (fun s o =>
          match o.src, ws.find? fun x => x.1 == o.side with
          | .ring g _, some x =>
            s.fetchScr r.cmd.id o.side o.len
              ((List.range o.rows.length).map fun i => (k.ring g).slotAddr x.2.2 + i * roundUp o.len 64)
          | _, _ => s) s
        let f := r.firstFault r.entered
        let r := { r with
          slots := ws, began := true, due := f
          stopA := r.stops r.entered 0 r.t.m f, stopB := r.stops r.entered 1 r.t.n f }
        let prev := (s.core.plane r.t.plane).fin
        let s := s.modCore fun k => { k.startPlane r lab (((r.fresh ws).map fun x => (x.2.1, x.2.2)).dedup) with run := some r }
        let s := s.mark [wmkOf r.t.plane]
        match prev with
        | some id => s.settleWord .m id
        | none => s

/-- The word at the head of the format queue; one that a tile had popped before it trapped comes first (R119, R194). -/
def Core.headWord (k : Core) : Option LW :=
  match k.popped with
  | some w => some w
  | none => k.fmtq.head?
def Core.popWord (k : Core) : Core := if k.popped.isSome then { k with popped := none } else { k with fmtq := k.fmtq.drop 1 }

/-- The tile of a command that has popped its word, before its plane starts; one that runs again goes on from its counts (R130, R138). -/
def newRun (c : Cmd) (t : Tile) (w : LW) (ops : List OpRows) (lab : Label) : Run :=
  let a := c.again.bind (·.counts)
  ⟨c, t, w.val, w.lab, mSteps (fwA w.val) t.kstep t.sparse.isSome, ops, (c.again.map (·.slots)).getD [], lab, false,
    (a.map (·.2)).getD [], [], [], none, (a.map (·.1)).getD 0⟩

/-- Steps 1 to 4 of a tile start (R325), then what can be done of steps 5 and 6. -/
def State.beginTile (s : State) (c : Cmd) : State :=
  let s := match c.cmd with | .mgo ns .. => s.setNst ns c.tile | _ => s
  let t := s.tileFor c
  match s.tileCheck c t with
  | some f => s.tileTrap c false f.1 f.2 t.lab
  | none =>
    if s.core.drains.any fun d => d.plane == t.plane then s
    else
      match (match c.again with | some a => some (⟨a.fmt, a.lab⟩ : LW) | none => s.core.headWord) with
      | none => s.tileTrap c false 0x0030 0 t.lab
      | some w =>
        match s.core.tileFault t w.val with
        | some f => s.tileTrap c false f.1 f.2 (Label.join t.lab w.lab)
        | none =>
          match s.fetchOps c.id (s.keptRows c w.val) (opShapes t w.val) w.lab with
          | .error pa => s.ptePoison pa
          | .ok (s, ops, lab) =>
            let s := if c.again.isSome then s else (s.modCore Core.popWord).mark [.fmtlvl]
            let r := newRun c t w ops lab
            let s := (s.consume c).modCore fun k => { k with run := some r }.setRowProg r false
            s.takeSlots r

/-- TILE_START (R325). -/
def State.tileStart (s : State) : State :=
  match s.core.run with
  | some r => if r.began then s else s.takeSlots r
  | none =>
    if s.core.drains.any fun d => !d.began then s
    else
      let s := s.loadMgo
      if s.core.drains.any fun d => !d.began then s
      else match s.core.nextCmd with
        | some c => s.beginTile c
        | none => s

/-! ### Replay and machine check (R125, R140, R256, R257) -/

/-- A plane that a replay or a machine check zeroes keeps its label. -/
def Plane.zeroed (r : Plane) : Plane := { r with acc := Vector.replicate 12288 0, fin := none }

/-- The bytes of an image read through the M-stream, with the label of their frames (R138, R189). Log 92: DEDUCED. -/
def State.readImage (s : State) (lab : Label) (va : W64) (n : Nat) : Except Halt (State × List Byte × Label) :=
  match s.pieces .drain .read lab (pageRuns va.toNat n) with
  | .error x => .error x
  | .ok (s, ps) =>
    match s.checkFar ps lab with
    | .error x => .error x
    | .ok _ =>
      .ok (s, ps.flatMap fun p => (List.range p.len).map fun i => s.loadByte .m s.core.next (.mem (p.pa + i)) p.polN,
        Label.joins (ps.map fun p => s.readLab p.pa))

/-- The accumulators of an image, put into a plane (R138). -/
def Plane.inject (r : Plane) (w : Welt) : Plane :=
  let cells := (List.range w.m).flatMap fun i => (List.range w.n).map fun j => (i, j)
  { r with acc := cells.foldl (fun v c => v.set (Fin.ofNat 12288 (128 * c.1 + c.2)) (w.acc.getD (w.n * c.1 + c.2) 0)) r.acc }

/-- The commands of a window as they run again (R125, R256). -/
def redoCmds (win : List Kept) (counts : Option (Nat × List Nat)) : List Cmd :=
  ((List.range win.length).zip win).map fun x =>
    { x.2.cmd with again := some ⟨x.2.fmt, x.2.lab, x.2.slots, if x.1 = 0 then counts else none, some x.1, some x.2.t, true, []⟩ }

/-- The machine check (R257): EPC holds the replay-point command, which a resume reissues; an MGO goes on from the tile of its replay point.
Log 85: DEDUCED. -/
def State.machineCheck (s : State) (r : Run) (va : W64) : State :=
  let p := r.t.plane
  let c := ((s.core.plane p).win.head?.map (·.cmd)).getD r.cmd
  let lab := Label.joins [s.core.cmdLab r.cmd, r.flab, (s.core.plane p).lab]
  let s := s.errRec 0x0108 1 s.core.func 0 s.core.csr.nstcur va
  let s := (s.modPlane p fun x => { x.zeroed with dirty := false }).mark [wmkOf p]
  let s := match c.cmd with
    | .mgo ns .. => s.modCore fun k => { k.nameTile true ns c.tile with stopAt := some (ns, c.tile, false) }
    | _ => s
  s.arrayTrap r.cmd.id c.pc 0x0015 va lab

/-- A tile consumes an uncorrectable value (R256, R257): a replay from the replay point, or the machine check. Log 85: DEDUCED. -/
def State.matrixError (s : State) (r : Run) (va : W64) : State :=
  let p := r.t.plane
  let o := s.core.plane p
  let go := fun (s : State) (f : Plane → Plane) (counts : Option (Nat × List Nat)) =>
    let s := s.errRec 0x0107 0 s.core.func 0 s.core.csr.nstcur va
    let s := (s.modPlane p fun x => f { x.zeroed with wm := 0, used := true }).mark [wmkOf p]
    s.modCore fun k => { k with
      run := none
      fifo := redoCmds o.win counts ++ k.fifo
      m := { k.m with lq := k.m.lq.filter fun e => e.id != r.cmd.id } }
  match o.win with
  | [] => s.machineCheck r va
  | k :: _ =>
    if o.used then s.machineCheck r va
    else match k.image with
      | some sv =>
        match s.readImage 0 sv 0x800 with
        | .error _ => s.machineCheck r va
        | .ok (s, hd, _) =>
          match (if weltHeadOk hd then s.readImage 0 sv (weltSize (fieldAt hd 6 1) (fieldAt hd 7 1)) else .error .illegal) with
          | .error _ => s.machineCheck r va
          | .ok (s, bs, lab) =>
            let w := Welt.read bs
            if w.mapOk then go s (fun x => { x.inject w with lab := Label.join x.lab lab }) (some (w.kr, w.map))
            else s.machineCheck r va
      | none =>
        match k.ctx with
        | some x => go s (fun p => { p with acc := x.1 }) (some x.2)
        | none => if k.point then go s id none else s.machineCheck r va

/-! ### Steps (R82, R107, R122, R131) -/

/-- The rows and columns whose edges enter a step. -/
def Run.entering (r : Run) (q : Nat) : List OpVal :=
  ((List.range r.t.m).filter fun i => decide (q < r.stopA.getD i r.q)).flatMap (fun i => r.rowVals i q) ++
    ((List.range r.t.n).filter fun j => decide (q < r.stopB.getD j r.q)).flatMap fun j => r.colVals j q

/-- One step in the cells that `on` names and whose count is below it (R131). -/
def Run.stepCells (r : Run) (q : Nat) (on : Nat × Nat → Bool) (a : Vector W32 12288 × Bool) : Vector W32 12288 × Bool :=
  (r.cells.filter fun c => decide (r.prev c.1 c.2 ≤ q) && on c).foldl (fun (a : Vector W32 12288 × Bool) c =>
    let x := Fin.ofNat 12288 (128 * c.1 + c.2)
    let y := r.cell c.1 c.2 q a.1[x]
    (a.1.set x y.1, a.2 || y.2)) a
/-- One step in every cell that performs it (R130, R131). -/
def Run.perform (r : Run) (q : Nat) (acc : Vector W32 12288) : Vector W32 12288 × Bool :=
  r.stepCells q (fun c => decide (q < r.stop c.1 c.2)) (acc, false)

/-- The step at which the edges of a tile began: the smallest count of a resumed one (R130). -/
def Run.kr (r : Run) : Nat := ((r.cmd.again.bind (·.counts)).map (·.1)).getD 0
/-- Every element of the steps that the tile has entered at its leading edge, at every edge. -/
def Run.edgeVals (r : Run) : List OpVal :=
  ((List.range r.entered).filter (r.kr ≤ ·)).flatMap fun q =>
    (List.range r.t.m).flatMap (fun i => r.rowVals i q) ++ (List.range r.t.n).flatMap fun j => r.colVals j q
/-- A fault that is still to come does not hold a clean welt: the operands of its steps are there, or one of them is what failed (R128). -/
def Run.cutReady (r : Run) : Bool :=
  r.due.isNone || (r.failing r.kr).any (fun x => decide (x.2.2.1 < r.entered)) ||
    r.edgeVals.all fun v => match v with | .code _ => true | _ => false
/-- The tile brought to a clean welt after the steps that it has entered (R128, R130): with no failing element among them, every edge enters
them all; else the cells keep the counts that the fault leaves. Log 81: DEDUCED. -/
def State.evenOut (s : State) (r : Run) : State × Run :=
  if r.due.isNone || (r.failing r.kr).any (fun x => decide (x.2.2.1 < r.entered)) then (s, r)
  else
    let p := r.t.plane
    let x := (List.range r.entered).foldl (fun a q => r.stepCells q (fun c => decide (r.stop c.1 c.2 ≤ q)) a) ((s.core.plane p).acc, false)
    let r := { r with due := none, stopA := [], stopB := [] }
    let s := s.modPlane p fun o => { o with acc := x.1 }
    (s.modCore fun k => { k with
      run := some r, csr := if x.2 then { k.csr with skipspec := true }.joinLab .skipspec (k.plane p).lab else k.csr }, r)

/-- The next row of a finished tile becomes final; the rows from M on follow row M − 1 (R122, R371). Log 78: DEDUCED. -/
def State.rowFinal (s : State) (p : Bool) (id : Nat) : State :=
  let o := s.core.plane p
  let wm := if o.wm + 1 < o.m then o.wm + 1 else 96
  let s := (s.modPlane p fun o => { o with wm := wm, fin := if wm = 96 then none else o.fin }).mark [wmkOf p]
  if wm = 96 then s.settleWord .m id else s

/-- The tile has entered its last step (R107): its rows become final from now on, and its drain follows. Log 78: DEDUCED. -/
def State.tileDone (s : State) (r : Run) : State :=
  s.modCore fun k =>
    let k := k.setPlane r.t.plane { k.plane r.t.plane with fin := some r.cmd.id }
    { k with run := none, drains := k.drains ++ (drainOf r.cmd r.t).toList }

/-- TILE_STEP (R107): a row of a finished tile becomes final, or the running tile enters its next step. Log 78: DEDUCED. -/
def State.tileStep (s : State) : State :=
  match s.core.plane0.fin, s.core.plane1.fin with
  | some id, _ => s.rowFinal false id
  | none, some id => s.rowFinal true id
  | none, none =>
    match s.core.run with
    | none => s
    | some r =>
      if !r.began then s
      else if r.due.isNone && r.q ≤ r.entered then s.tileDone r
      else if r.limit ≤ r.entered then s
      else
        let vs := r.entering r.entered
        if vs.any (· == .wait) then s
        else match vs.findSome? fun v => match v with | .bad va => some va | _ => none with
          | some va => s.matrixError r va
          | none =>
            let p := r.t.plane
            let x := r.perform r.entered (s.core.plane p).acc
            let s := s.modPlane p fun o => { o with acc := x.1 }
            let s := if x.2 then s.modCore fun k => { k with
                csr := { k.csr with skipspec := true }.joinLab .skipspec (k.plane p).lab } else s
            let r := { r with entered := r.entered + 1 }
            let s := s.modCore fun k => { k with run := some r }
            if r.due.isNone && r.q ≤ r.entered then s.tileDone r else s

/-- The address of the first element of virtual memory that the tile's next step enters; 0 where its operands are in scratchpad or rings (R254,
R256). Log 85: DEDUCED. -/
def Run.entryVa (r : Run) : W64 :=
  let a := r.op 0
  let b := r.op 1
  let t := ((r.terms 0 r.entered).findSome? (·.1)).getD 0
  let k := (r.ks r.entered).headD 0
  match a.src, b.src with
  | .virt .., _ => if a.col then a.elemVa (mBits (fwA r.fmt)) t 0 else a.elemVa (mBits (fwA r.fmt)) 0 t
  | _, .virt .. => if b.col then b.elemVa (mBits (fwB r.fmt)) 0 k else b.elemVa (mBits (fwB r.fmt)) k 0
  | _, _ => 0
/-- MATRIX_REPLAY (R256): an error in the operand path of the running tile. -/
def State.matrixReplay (s : State) : State :=
  match s.core.run with
  | some r => if r.began then s.matrixError r r.entryVa else s
  | none => s

end Sys2Proof.Machine
end

