-- ==== Sys2Proof/Machine/MStream.lean ====
section
/-! DEFINITION. The M-stream's words, and the steps of drains and welts (R110 to R143, R192, R324, R327 to R338). -/

namespace Sys2Proof.Machine
open Sys2Proof

/-! ### Commands of the FIFO (R324, R329 to R332) -/

/-- The FIFO has room, and fewer than 64 commands are held (R125, R324). Log 76: DEDUCED. -/
def Core.accepts (k : Core) : Bool := decide (k.fifo.length < 16) && decide (k.heldCmds < 64)

/-- Every older entry of the M-stream's queues has performed: a push into the FIFO releases them (R175). -/
def State.mReleased (s : State) : Bool := s.core.m.olderBoth s.core.next
/-- A command accepted by the array; its word retires when its work is done. Log 76: DEDUCED. -/
def acceptBody (i : Instr) (cmd : MCmd) (tile : Nat) (pend : Bool) : Body := fun s =>
  if s.core.accepts && s.mReleased then
    let c : Cmd := ⟨cmd, (wordOf i).setWidth 32, s.core.next, s.pc .m, s.clab .m, tile, pend, none⟩
    .ok (After.later (s.modCore fun k => { k with fifo := k.fifo ++ [c] }))
  else .error .stall

/-- An MGO of this slot has still fetches to issue, those of its tiles that run again among them (R111). Log 76: DEDUCED. -/
def Core.slotBusy (k : Core) (ns : Fin 8) : Bool :=
  let on := fun (c : Cmd) => match c.cmd with | .mgo n .. => n == ns | _ => false
  k.fifo.any on || k.mgo.any on

/-- MGO (R330): it continues the MGO of its slot that a trap stopped (R331), or latches and checks the shadow copy (R114). Log 94: DEDUCED. -/
def mgoBody (i : Instr) (ns : Fin 8) (p l z t : Bool) : Body := fun s =>
  let k := s.core
  if k.slotBusy ns then .error .stall
  else
    match k.stopAt with
    | some (n, tile, pend) =>
      if n = ns then acceptBody i (.mgo ns p l z t) tile pend (s.modCore fun k => { k with stopAt := none })
      else latch s
    | none => latch s
where
  latch (s : State) : Except Halt After :=
    if !(s.core.accepts && s.mReleased) then .error .stall
    else if !s.core.shadow[ns].ok then .error (.trap 0x0031 0 s.core.shadow[ns].lab)
    else acceptBody i (.mgo ns p l z t) 0 false
      (s.modCore fun k => { k with active := k.active.set ns k.shadow[ns], stopAt := none })
def execMgo (h : Hdr) (n : Fin 8) (p l z t : Bool) (s : State) :=
  runWord (.mgo h n p l z t) .m h (mgoBody (.mgo h n p l z t) n p l z t) s

def execMma (h : Hdr) (p : Bool) (a b c : Fin 16) (l z t : Bool) (s : State) :=
  runWord (.mma h p a b c l z t) .m h (acceptBody (.mma h p a b c l z t) (.mma p a b c l z t false) 0 false) s
def execMmas (h : Hdr) (p : Bool) (a b c : Fin 16) (z t : Bool) (s : State) :=
  runWord (.mmas h p a b c z t) .m h (acceptBody (.mmas h p a b c z t) (.mma p a b c false z t true) 0 false) s

/-- MDRAIN.MEM reads CBASE and CLD of the shadow copy as it issues (R324, R329). -/
def Core.memDst (k : Core) (n : Fin 8) : DDst := .mem (k.shadow[n].wide 2) (k.shadow[n].wide 5) k.shadow[n].lab
def execMdrainMem (h : Hdr) (n : Fin 8) (p : Bool) (s : State) :=
  runWord (.mdrainMem h n p) .m h (fun s => acceptBody (.mdrainMem h n p) (.drain p (s.core.memDst n)) 0 false s) s
def execMdrainRing (h : Hdr) (p : Bool) (c : Fin 16) (s : State) :=
  runWord (.mdrainRing h p c) .m h (acceptBody (.mdrainRing h p c) (.drain p (.ring c.val)) 0 false) s

/-! ### Commands that act as they issue (R124, R327, R328, R334, R336, R338) -/

/-- The array has nothing accepted that has not started, and no tile is in flight or becoming final in a plane, and no drain reads it. -/
def Core.planeFree (k : Core) (p : Bool) : Bool :=
  (k.plane p).fin.isNone && !(k.run.any fun r => r.t.plane == p) && !k.drains.any fun d => d.plane == p
def Core.noneWaiting (k : Core) : Bool := k.fifo.isEmpty && k.mgo.isNone

/-- A plane as MZERO leaves it, M and N included (R338); its output tile retires. -/
def Core.mzero (k : Core) (p : Bool) : Core :=
  let k := k.retireOut p
  k.setPlane p { (k.plane p).cleared k.m.clab with m := 0, n := 0 }
def planesOf : PlSel → List Bool
  | .p0 => [false] | .p1 => [true] | .both => [false, true]

def mzeroBody (p : PlSel) : Body := fun s =>
  if s.core.noneWaiting && (planesOf p).all s.core.planeFree then
    .ok (After.of ((s.modCore fun k => (planesOf p).foldl Core.mzero k).mark ((planesOf p).map wmkOf)))
  else .error .stall
def execMzero (h : Hdr) (p : PlSel) (s : State) := runWord (.mzero h p) .m h (mzeroBody p) s

/-- What the replay window retains of a tile names its plane by the new name (R334). -/
def MCmd.flip : MCmd → MCmd
  | .mgo ns p l z t => .mgo ns (!p) l z t
  | .mma p a b c l z t sp => .mma (!p) a b c l z t sp
  | .drain p d => .drain (!p) d
def Kept.flip (e : Kept) : Kept :=
  { e with cmd := { e.cmd with cmd := e.cmd.cmd.flip }, t := { e.t with plane := !e.t.plane } }
def Plane.flip (r : Plane) : Plane := { r with win := r.win.map Kept.flip }
/-- MSWAP exchanges the plane records whole, in one step (R334). -/
def mswapBody : Body := fun s =>
  let k := s.core
  if k.noneWaiting && k.run.isNone && k.planeFree false && k.planeFree true then
    .ok (After.of ((s.modCore fun k => { k with plane0 := k.plane1.flip, plane1 := k.plane0.flip }).mark [.wmk0, .wmk1]))
  else .error .stall
def execMswap (h : Hdr) (s : State) := runWord (.mswap h) .m h mswapBody s

/-- MWAIT joins the plane's label when the watermark reaches the count (R336). Log 77: DEDUCED. -/
def mwaitBody (p : Bool) (r : Fin 256) : Body := fun s =>
  if r.val ≤ (s.core.plane p).wm then
    match s.raise .m (s.core.plane p).lab with
    | .ok s => .ok (After.of s)
    | .error x => .error x
  else .error .stall
def execMwait (h : Hdr) (p : Bool) (r : Fin 256) (s : State) := runWord (.mwait h p r) .m h (mwaitBody p r) s

/-- The configuration that MCFG latches (R328). -/
def cfgOf (n : Nest) (ns : Fin 8) : TileCfg :=
  let w := fun f => (n.wide f).toNat
  ⟨w 6, w 7, w 8, w 9, w 10, w 11, n.wide 14, ns.val, n.lab⟩
/-- MCFG with X clears both planes, NSTCUR, MROWPROG and a stopped MGO (R124, R328, R331). -/
def State.mcfgClear (s : State) : State :=
  (s.modCore fun k =>
    let k := [false, true].foldl (fun k p => let k := k.retireOut p; k.setPlane p ((k.plane p).cleared k.m.clab)) k
    { k with stopAt := none, csr := { k.csr with nstcur := 0, mrowprog := 0 } }).mark [.wmk0, .wmk1, .nstcur, .mrowprog]

def mcfgBody (n : Fin 8) (x : Bool) : Body := fun s =>
  let k := s.core
  if !k.m.infl.isEmpty then .error .stall
  else if !x && (k.plane0.dirty || k.plane1.dirty) then .error (.trap 0x0032 (if k.plane0.dirty then 0 else 1) k.shadow[n].lab)
  else if !k.shadow[n].shapeOk then .error (.trap 0x0031 0 k.shadow[n].lab)
  else
    let s := if x then s.mcfgClear else s
    .ok (After.of (s.modCore fun k => { k with cfg := cfgOf k.shadow[n] n }))
/-- X acts even where the latched fields then fail (R328). -/
def State.mcfgPartial (s : State) (n : Fin 8) (x : Bool) : State :=
  if x && s.core.m.infl.isEmpty && !s.core.shadow[n].shapeOk then s.mcfgClear else s
def execMcfg (h : Hdr) (n : Fin 8) (x : Bool) (s : State) :=
  match issue (.mcfg h n x) .m h s with
  | .go _ => runWord (.mcfg h n x) .m h (mcfgBody n x) (s.mcfgPartial n x)
  | _ => runWord (.mcfg h n x) .m h (mcfgBody n x) s

/-- MBAR waits for every older word and for the posted set (R327). -/
def mbarBody : Body := fun s =>
  if s.core.m.infl.isEmpty && s.core.m.posted.isEmpty then .ok (After.of s) else .error .stall
/-- A refused write that no trap has reported is reported at the word after MBAR (R209, R327). -/
def execMbar (h : Hdr) (s : State) : Host.Outcome State Fault Refusal :=
  match issue (.mbar h) .m h s with
  | .go s1 =>
    match mbarBody s1 with
    | .ok r => .next ((finish (.mbar h) .m h s1 r).egressTrap .m 0 none)
    | .error x => .next (s.halt (.mbar h) .m x).tick
  | _ => runWord (.mbar h) .m h mbarBody s

/-! ### Drains (R122, R126, R192, R329) -/

/-- The rows of a drain to memory: every byte translates for W before any moves. -/
def State.drainRows (s : State) (base ld : W64) (len : Nat) (lab : Label) : Nat → Nat → Except Halt (State × List (List Piece))
  | 0, _ => .ok (s, [])
  | n + 1, i =>
    let va := base + BitVec.ofNat 64 i * ld
    match s.pieces .drain .write lab (pageRuns va.toNat len) with
    | .error x => .error x
    | .ok (s, ps) =>
      match State.drainRows s base ld len lab n (i + 1) with
      | .error x => .error x
      | .ok (s, l) => .ok (s, ps :: l)

/-- The checks of a drain, and the claim of its slot (R329). Log 27: DEDUCED; log 79: DEDUCED; log 87: DEDUCED. -/
def State.beginDrain (s : State) (d : Drain) : Except Halt (State × Drain) :=
  let r := s.core.plane d.plane
  let w := r.oty.bytes
  match d.dst with
  | .ring g =>
    let rg := s.core.ring g
    let lab := Label.join r.lab (s.clab .m)
    if !rg.claimable || rg.slotSize < r.m * roundUp (r.n * w) 64 || !s.bindingOk g then .error (.trap 0x0012 (BitVec.ofNat 64 g) lab)
    else if !s.publishOk g rg.claimed.toNat 1 lab then .error (.trap 0x0020 (BitVec.ofNat 64 g) lab)
    else if rg.count < rg.used + 1 then .error .stall
    else
      match s.need lab with
      | .error x => .error x
      | .ok s => .ok ((s.noteClaim g).claimSlots g 1, { d with began := true, slot := rg.claimed.toNat, lab := lab })
  | .mem base ld nl =>
    let lab := Label.joins [r.lab, nl, s.clab .m]
    if base.toNat % w != 0 || ld.toNat % w != 0 then .error (.trap 0x0031 0 lab)
    else
      match s.drainRows base ld (r.n * w) lab r.m 0 with
      | .error x => .error x
      | .ok (s, rows) =>
        let all := rows.flatten
        match s.checkFar all lab, checkFrames lab all lab, s.need lab with
        | .error x, _, _ => .error x
        | _, .error x, _ => .error x
        | _, _, .error x => .error x
        | _, _, .ok s =>
          let rows := rows.map fun ps => ps.map fun p => (⟨p.pa, BitVec.ofNat 64 p.va, p.len⟩ : FarRun)
          .ok (s, { d with began := true, rows := rows, lab := lab })

/-- The bytes of a row, converted by R76; an output type equal to the accumulator's copies the bits (R81). -/
def Plane.rowBytes (r : Plane) (i : Nat) : List Byte :=
  let src : VTy := if r.int then .i32 else .f32
  (List.range r.n).flatMap fun j =>
    let x := (r.acc[Fin.ofNat 12288 (128 * i + j)]).toNat
    natLe r.oty.bytes (if r.oty = src then x else convert src r.oty r.ornd r.osat false x)

/-- The last row has been read: DIRTY falls and the output tile retires (R122, R125). -/
def State.drainEnd (s : State) (d : Drain) : State :=
  let s := s.modCore fun k =>
    let k := (k.setPlane d.plane { k.plane d.plane with dirty := false }).retireOut d.plane
    { k with drains := k.drains.drop 1 }
  (s.mark [wmkOf d.plane]).settleWord .m d.id

/-- A row becomes an entry of the M-stream's store queue; the last row of a ring slot publishes it (R176, R329). -/
def State.pushRow (s : State) (d : Drain) (bs : List Byte) (last : Bool) : State :=
  match d.dst with
  | .ring g =>
    let rg := s.core.ring g
    let ls := (List.range bs.length).map fun i => Loc.scr (s.ringCore rg) (rg.slotAddr d.slot + d.row * roundUp bs.length 64 + i)
    let q := s.core.next
    (s.pushSq .m ⟨d.id, q, .store (ls.zip bs) true false none [], d.lab, 0, [], if last then some (g, d.slot, 1) else none⟩).modCore
      fun k => { k with next := q + 1 }
  | .mem .. =>
    let ps := (d.rows.getD d.row []).map fun f => (⟨0, f.va.toNat, f.pa, f.len, false, 0, 0⟩ : Piece)
    (s.dropRdc (pieceLines ps)).pushStore .m d.id none true false d.lab ps bs

/-- The next row of a drain, once the watermark has passed it. -/
def State.drainOne (s : State) (d : Drain) : State :=
  let r := s.core.plane d.plane
  if r.wm ≤ d.row then s
  else
    let last := decide (r.m ≤ d.row + 1)
    let s := s.pushRow d (r.rowBytes d.row) last
    let d' := { d with row := d.row + 1 }
    let s := s.modCore fun k => { k with drains := d' :: k.drains.drop 1 }
    if last then s.drainEnd d' else s

/-- A drain makes its checks, or its fault is taken at its command; an MGO stops with the drain pending (R192, R330, R331). Log 79: DEDUCED. -/
def State.tryDrain (s : State) (d : Drain) : State :=
  match s.beginDrain d with
  | .ok (s, d') => s.modCore fun k => { k with drains := d' :: k.drains.drop 1 }
  | .error (.trap c v l) =>
    let s := match d.tile with
      | some (ns, t) => s.modCore fun k => { k with stopAt := some (ns, t, true) }
      | none => s
    s.arrayTrap d.id d.pc c v l
  | .error (.viral pa) => s.ptePoison pa
  | .error _ => s

/-- DRAIN_ROW (R122): the oldest drain makes its checks or reads its next row; an MDRAIN starts when every earlier tile has entered its last
step. A plane that no tile has written has nothing to drain (R329). Log 79: DEDUCED. -/
def State.drainRow (s : State) : State :=
  match s.core.drains with
  | d :: _ => if d.began then s.drainOne d else s.tryDrain d
  | [] =>
    match s.core.fifo, s.core.mgo, s.core.run with
    | c :: rest, none, none =>
      match c.cmd with
      | .drain p dst =>
        let s := s.modCore fun k => { k with fifo := rest }
        if (s.core.plane p).m = 0 then s.settleWord .m c.id
        else
          let d : Drain := ⟨c.id, c.pc, none, p, dst, false, 0, [], 0, 0⟩
          (s.modCore fun k => { k with drains := [d] }).tryDrain d
      | _ => s
    | _, _, _ => s

/-! ### Cuts (R128 to R136, R140, R141) -/

/-- The tail entry of a command: its word, its tile, and the format word of one that runs again (R132). -/
def Cmd.entry (c : Cmd) : W32 × Nat × W64 :=
  (c.word, match c.cmd with | .mgo .. => c.tile | _ => 0, (c.again.map (·.fmt)).getD 0)
def MCmd.isMgo : MCmd → Bool
  | .mgo .. => true | _ => false
def MCmd.drains : MCmd → Bool
  | .mgo _ _ l .. => l | .mma _ _ _ _ l .. => l | _ => false

/-- The format words that an image saves, the oldest first (R119, R132). Log 86: DEDUCED. -/
def Core.words (k : Core) : List LW := (k.popped.toList ++ k.fmtq).take 16

/-- The tile in flight: the one that runs or waits for its slots, or one that runs again and has popped its word before (R128, R140, R325).
Log 97: DEDUCED. -/
def State.flight (s : State) : Option (State × Run) :=
  match s.core.run, s.core.fifo with
  | some r, _ => some (s, r)
  | none, c :: rest =>
    match c.again with
    | some a =>
      let r := newRun c (s.tileFor c) ⟨a.fmt, a.lab⟩ [] 0
      some (s.modCore fun k => { k with fifo := rest, run := some r }, r)
    | none => none
  | none, [] => none

/-- The label of the plane of a cut tile (R110, R134). -/
def State.cutLab (s : State) (r : Run) : Label := if r.began then (s.core.plane r.t.plane).lab else s.startLab r 0

/-- The image of a cut of the tile in flight, ragged or clean, with the fault that stopped some of its edges (R130, R132 to R135). Log 81:
DEDUCED. -/
def State.weltOf (s : State) (r : Run) (ragged : Bool) (f : Option TFault) : Welt :=
  let k := s.core
  let map := r.cells.map fun c => r.count c.1 c.2
  let fresh := !r.began && r.t.z && r.cmd.again.isNone
  let o := k.plane r.t.plane
  { kind := if ragged then 2 else 1, plane := r.t.plane, replay := (r.cmd.again.bind (·.replay)).isSome, fault := f.isSome
    mgo := r.cmd.cmd.isMgo, l := r.cmd.cmd.drains, q := r.q, m := r.t.m, n := r.t.n
    edge := match ragged, f with | true, some f => f.e | _, _ => r.entered
    kr := minCount map, rpcur := ((r.cmd.again.bind (·.replay))).getD 0, slot := r.t.slot, fmt := r.fmt, nstcur := k.csr.nstcur &&& nstCurBits
    mrowprog := k.csr.mrowprog &&& rowProgBits, cmd := r.cmd.word, va := (f.map (·.va)).getD 0, side := (f.map (·.side)).getD 0
    index := (f.map (·.edge)).getD 0, step := (f.map (·.step)).getD 0, cause := (f.map (·.cause)).getD 0
    tailr := (k.fifo.filter fun c => (c.again.bind (·.replay)).isSome).length
    plab := s.cutLab r
    xlab := Label.joins (r.t.lab :: (k.words.map (·.lab)) ++ k.fifo.map fun c => Label.join c.lab ((c.again.map (·.lab)).getD 0))
    nest := r.t.nest, fmts := k.words.map (·.val), tail := (k.fifo.map Cmd.entry).take 63, map := map
    acc := r.cells.map fun c => if fresh then 0 else o.acc[Fin.ofNat 12288 (128 * c.1 + c.2)] }

/-- The header and format queue that MWELT writes with no tile in flight (R137). -/
def State.weltNone (s : State) : Welt :=
  { (default : Welt) with
    kind := 0, xlab := Label.joins (s.core.words.map (·.lab)), fmts := s.core.words.map (·.val) }

def State.setWelt (s : State) (v : W64) : State :=
  (s.modCore fun k => { k with csr := { k.csr with weltstat := v } }).mark [.weltstat]

/-- The array after a cut (R135, steps 2 to 4): accepted commands leave it, the format queue is empty, the plane is as MZERO leaves it, and the
slots of its output tile stay held for the resume. Log 88: DEDUCED; log 89: DEDUCED. -/
def State.afterCut (s : State) (r : Run) (image : W64) : State :=
  let k := s.core
  let p := r.t.plane
  let ids := ((k.fifo.map (·.id)) ++ (k.mgo.map (·.id)).toList).filter fun i => i != r.cmd.id
  let fin := (k.plane p).fin
  let hold : CutHold := ⟨image, (k.plane p).held, r.slots, k.fifo.filterMap fun c => c.again.map (·.slots), r.ops⟩
  let s := s.modCore fun k =>
    let k := { k with
      fifo := [], mgo := none, run := none, fmtq := [], popped := none, stopAt := none
      cuts := hold :: k.cuts.filter fun c => c.image != image
      m := { k.m with
        infl := k.m.infl.filter fun i => !ids.contains i.id
        lq := k.m.lq.filter fun e => e.id != r.cmd.id } }
    k.setPlane p { (k.plane p).cleared k.m.clab with m := 0, n := 0, held := [], win := [], used := false }
  let s := s.mark [.fmtlvl, wmkOf p]
  match fin with
  | some id => s.settleWord .m id
  | none => s

/-- An image's bytes go to its save area as plain stores of the M-stream, after the checks of R136. The label of the data is D. -/
def State.imagePieces (s : State) (lab : Label) (runs : List (Nat × Nat)) : Except Halt (State × List Piece) :=
  match s.pieces .drain .write lab runs with
  | .error x => .error x
  | .ok (s, ps) =>
    match s.checkFar ps lab, checkFrames lab ps lab with
    | .error x, _ => .error x
    | _, .error x => .error x
    | _, _ => .ok (s, ps)
/-- The bytes of an access by its runs. -/
def cutPieces : List Piece → List Byte → List (List Piece × List Byte)
  | [], _ => []
  | p :: r, bs => ([p], bs.take p.len) :: cutPieces r (bs.drop p.len)
/-- Log 88: DEDUCED. -/
def State.writeImage (s : State) (id : Nat) (lab : Label) (ps : List Piece) (bs : List Byte) : State :=
  (s.dropRdc (pieceLines ps)).pushStores .m id none true false lab (cutPieces ps bs)

/-- MWELT (R137): a clean welt of the tile in flight, or the header and format queue alone. Log 81: DEDUCED; log 82: DEDUCED; log 107: DESIGN CHOICE. -/
def mweltBody (n : Fin 8) : Body := fun s =>
  let save := s.core.shadow[n].wide 14
  let id := s.core.next
  match s.flight with
  | none =>
    let w := s.weltNone
    match s.imagePieces w.xlab (pageRuns save.toNat 0x100 ++ pageRuns (save.toNat + 0x300) 0x100) with
    | .error x => .error x
    | .ok (s, ps) =>
      .ok (After.later (((s.modCore fun k => { k with fmtq := [], popped := none }).mark [.fmtlvl]).writeImage id w.xlab ps (w.header ++ fmtBytes w.fmts)))
  | some (s, r) =>
    if !r.cutReady then .error .stall
    else
    let (s, r) := s.evenOut r
    let w := s.weltOf r false r.due
    let d := Label.join w.plab w.xlab
    match s.imagePieces d (pageRuns save.toNat (weltSize w.m w.n)) with
    | .error x => .error x
    | .ok (s, ps) =>
      let s := ((s.afterCut r save).setWelt (w.stat false)).writeImage id d ps w.bytes
      .ok (After.later (s.settleWord .m r.cmd.id))
def execMwelt (h : Hdr) (n : Fin 8) (s : State) := runWord (.mwelt h n) .m h (mweltBody n) s

/-- The ragged cut of the tile in flight (R129, R135, R136): its image, or a lost cut where the save area fails. Log 82: DEDUCED. -/
def State.raggedCut (s : State) (r : Run) (f : TFault) : State :=
  let s := s.modCore fun k => k.setRowProg r true
  let w := s.weltOf r true (some f)
  let d := Label.join w.plab w.xlab
  let lab := Label.joins [s.core.cmdLab r.cmd, r.flab, r.lab]
  let cut := fun (s : State) (lost : Bool) (cause : Nat) (va : W64) =>
    ((s.afterCut r r.t.save).setWelt (w.stat lost)).modCore fun k => { k with
      ragged := some ⟨r.cmd.id, cause, va, lab⟩, m := { k.m with blocked := some r.cmd.id } }
  match s.imagePieces d (pageRuns r.t.save.toNat (weltSize w.m w.n)) with
  | .ok (s, ps) => (cut s false f.cause f.va).writeImage r.cmd.id d ps w.bytes
  | .error (.trap c v _) => cut s true c v
  | .error (.viral pa) => s.ptePoison pa
  | .error _ => s

/-- RAGGED_WELT (R129, R143): the welt of a due fault, and, when the image has been performed, the retirement of the cut command and the
trap, with EPC at the first word that the array had not accepted. Log 88: DEDUCED. -/
def State.raggedWelt (s : State) : State :=
  match s.core.ragged, s.core.run with
  | some w, _ =>
    let s1 := s.modCore fun k => { k with ragged := none }
    if s1.wordOpen .m w.id then s
    else
      let s2 := s1.settleWord .m w.id
      if s2.core.m.infl.isEmpty then
        (s2.modCore fun k => { k with m := { k.m with blocked := none } }).trapAt .m w.cause w.va (s2.pc .m) w.lab false
      else s
  | none, some r =>
    match r.due with
    | some f => if r.began && decide (r.limit ≤ r.entered) then s.raggedCut r f else s
    | none => s
  | none, none => s

/-! ### MRSTR (R138, R140, R333) -/

/-- The command that a word of an image stands for; a drain reads the shadow copy as it is accepted. -/
def Core.cmdOf (k : Core) (w : W32) : Option MCmd :=
  match decode false .m w.toNat with
  | .ok (.mgo _ n p l z t) => some (.mgo n p l z t)
  | .ok (.mma _ p a b c l z t) => some (.mma p a b c l z t false)
  | .ok (.mmas _ p a b c z t) => some (.mma p a b c false z t true)
  | .ok (.mdrainMem _ n p) => some (.drain p (k.memDst n))
  | .ok (.mdrainRing _ p c) => some (.drain p (.ring c.val))
  | _ => none
def MCmd.isDrain : MCmd → Bool
  | .drain .. => true | _ => false

/-- Every command word of an image is a command of the FIFO, and the cut one runs a tile. Log 91: DEDUCED. -/
def Core.weltCmds (k : Core) (w : Welt) : Bool :=
  (k.cmdOf w.cmd).any (fun c => !c.isDrain) && w.tail.all fun e => (k.cmdOf e.1).isSome

/-- The tile index of a tail entry: its low 32 bits, above them those of NSTCUR. -/
def Welt.tileOf (w : Welt) (lo : Nat) : Nat := w.nstcur.toNat % 2 ^ 48 / 2 ^ 32 * 2 ^ 32 + lo

/-- The commands that an image restarts: the cut one, those still to be replayed, those that had not started (R132, R138). Log 90: DEDUCED. -/
def Core.restartCmds (k : Core) (w : Welt) (id : Nat) (pc : W64) (lab : Label) (h : CutHold) : List Cmd :=
  let rp := fun (i : Nat) => if w.replay then some (w.rpcur + i) else none
  let one := fun (c : W32) (tile : Nat) (a : Option Again) => (⟨(k.cmdOf c).getD default, c, id, pc, lab, tile, false, a⟩ : Cmd)
  one w.cmd (w.nstcur.toNat % 2 ^ 48) (some ⟨w.fmt, lab, h.slots, some (w.kr, w.map), rp 0, none, true, h.ops⟩) ::
    ((List.range w.tail.length).zip w.tail).map fun x =>
      if x.1 < w.tailr then
        one x.2.1 (w.tileOf x.2.2.1) (some ⟨x.2.2.2, lab, h.tails.getD x.1 [], none, rp (x.1 + 1), none, false, []⟩)
      else one x.2.1 x.2.2.1 none

/-- The MGO that goes on after the tiles that run again. Log 94: DEDUCED. -/
def Core.goesOn (k : Core) (cs : List Cmd) : Option Cmd :=
  match (cs.filter fun c => c.again.isSome && c.cmd.isMgo).getLast? with
  | some c =>
    match c.cmd with
    | .mgo ns .. => if c.tile + 1 < k.active[ns].tiles then some { c with tile := c.tile + 1, again := none } else none
    | _ => none
  | none => none

/-- The plane and the array as an image resumes them (R138). Log 90: DEDUCED; log 93: DEDUCED; log 95: DESIGN CHOICE. -/
def State.resumeWelt (s : State) (w : Welt) (save : W64) (lab : Label) : State :=
  let id := s.core.next
  let pc := s.pc .m
  let h := (s.core.cuts.find? fun c => c.image == save).getD ⟨save, [], [], [], []⟩
  let s := s.modCore fun k =>
    let k := if w.mgo then { k with active := k.active.set (Fin.ofNat 8 w.slot) ⟨w.nest.f, lab⟩ }
      else { k with cfg := cfgOf ⟨w.nest.f, lab⟩ (Fin.ofNat 8 w.slot) }
    { k with
      cuts := k.cuts.filter fun c => c.image != save, owner := if w.mgo then some id else none
      stopAt := none, csr := { k.csr with mrowprog := w.mrowprog, nstcur := w.nstcur } }
  let tile := fun (c : Cmd) => { c with again := c.again.map fun a => { a with tile := some { s.tileNew c with plane := w.plane } } }
  let cs := (s.core.restartCmds w id pc lab h).map tile
  let c := cs.headD default
  let entry : Kept := ⟨{ c with again := none }, w.fmt, lab, h.slots, false, some save, none, s.tileFor c⟩
  let s := s.modCore fun k =>
    let o := (k.plane w.plane).inject w
    let k := k.setPlane w.plane { o with
      lab := lab, wm := 0, dirty := true, m := w.m, n := w.n, fin := none, held := h.held, win := [entry], used := w.replay }
    { k with fifo := cs, mgo := k.goesOn cs }
  s.mark [wmkOf w.plane, .mrowprog, .nstcur]

/-- Sets of an image, interned one after another; a fault carries what has been read (R138, R194). -/
def State.needAll (s : State) (lab : Label) : List Label → Except Halt State
  | [] => .ok s
  | l :: r => if s.canIntern l then (s.intern l).needAll lab r else .error (.trap 0x0022 0 (Label.join lab l))

/-- MRSTR (R138): the whole image is read and checked before any state changes. Log 92: DEDUCED; log 107: DESIGN CHOICE. -/
def mrstrBody (n : Fin 8) : Body := fun s =>
  if !s.core.m.infl.isEmpty then .error .stall
  else
    let save := s.core.shadow[n].wide 14
    match s.readImage (Label.join (s.clab .m) s.core.shadow[n].lab) save 0x800 with
    | .error x => .error x
    | .ok (s, hd, hl) =>
      if !weltHeadOk hd then .error (.trap 0x0033 save hl)
      else
        match s.readImage (Label.join (s.clab .m) s.core.shadow[n].lab) save (weltSize (fieldAt hd 6 1) (fieldAt hd 7 1)) with
        | .error x => .error x
        | .ok (s, bs, fl) =>
          let w := Welt.read bs
          if !w.mapOk || 16 < w.fmts.length + s.core.fmtq.length || (w.kind != 0 && !s.core.weltCmds w) then
            .error (.trap 0x0033 save fl)
          else if (s.core.plane w.plane).dirty then .error (.trap 0x0032 (if w.plane then 1 else 0) fl)
          else
            match s.needAll fl [Label.clear0 w.plab, Label.clear0 w.xlab] with
            | .error x => .error x
            | .ok s =>
              let lab := Label.joins [Label.clear0 w.plab, Label.clear0 w.xlab, fl, s.clab .m]
              match s.need lab with
              | .error x => .error x
              | .ok s =>
                let s := (s.modCore fun k => { k with fmtq := w.fmts.map (fun v => ⟨v, lab⟩) ++ k.fmtq }).mark [.fmtlvl]
                if w.kind = 0 then .ok (After.of s) else .ok (After.later (s.resumeWelt w save lab))
def execMrstr (h : Hdr) (n : Fin 8) (s : State) := runWord (.mrstr h n) .m h (mrstrBody n) s

end Sys2Proof.Machine
end

