-- ==== Sys2Proof/Machine/Sched.lean ====
section
/-! DEFINITION. Queues, kicks, hardware slots, the scheduler window, partitions, budgets and bulk copies (R33, R232 to R236, R240 to
R244), and the launch sequencer (R27, R29, R32, R127, R230, R237 to R239, R241). -/

namespace Sys2Proof

/-! ### Nodes and launch nests (R28, R29, R61, R112) -/

def GraphReg.node (g : GraphReg) (n : Nat) : Node := g.nodes.getD n ⟨0, 1, 0, [], []⟩
def GraphReg.image (g : GraphReg) (n : Nat) : TaskImg := g.images.getD (g.node n).img ⟨[], [], [], [], [], 0, [], []⟩

/-- TRIP and KIND of a level of the launch nest; an image without nest slot 0 has no spatial level (R29, R61, R112). -/
def TaskImg.field (t : TaskImg) (l f : Nat) : Nat :=
  ((t.nest.reverse.find? fun r => r.slot.val == 0 && r.lvl.val == l && r.fld.val == f).map fun r => r.val.toNat).getD 0
def TaskImg.trip (t : TaskImg) (l : Nat) : Nat := t.field l 0
def TaskImg.kind (t : TaskImg) (l : Nat) : Nat := t.field l 1
/-- The product of the trip counts of the levels of a kind: P for 1, D for 2 (R29). -/
def TaskImg.tasks (t : TaskImg) (kind : Nat) : Nat :=
  ((List.range 6).filter fun l => t.kind l == kind).foldl (fun p l => p * t.trip l) 1
/-- The level index of a mixed-radix number, the outermost level most significant (R29). -/
def TaskImg.index (t : TaskImg) (kind n l : Nat) : Nat :=
  let below := ((List.range l).filter fun m => t.kind m == kind).foldl (fun p m => p * t.trip m) 1
  n / below % t.trip l
/-- SPIDX: the indices of the spatial levels (R27). -/
def TaskImg.spIdx (t : TaskImg) (die p : Nat) : List Nat :=
  (List.range 6).map fun l => if t.kind l = 2 then t.index 2 die l else if t.kind l = 1 then t.index 1 p l else 0

end Sys2Proof

namespace Sys2Proof.Machine
open Sys2Proof

/-! ### Queue control blocks (R232) -/

/-- The bytes of a queue control block. -/
def Qcb.bytes (c : Qcb) : List Byte :=
  natLe 2 c.qnum ++ natLe 1 c.func ++ natLe 1 c.part ++ natLe 1 c.prio ++
    natLe 1 ((if c.err then 1 else 0) + (if c.mapped then 2 else 0) + if c.busy then 4 else 0) ++ natLe 1 c.khead ++
    natLe 1 c.kcount ++ natLe 8 c.run.toNat ++ natLe 8 c.kdone.toNat ++ natLe 8 c.kdrop.toNat ++ natLe 8 c.csrc.toNat ++
    natLe 8 c.cdst.toNat ++ natLe 8 c.clen.toNat ++ natLe 8 c.cdone.toNat ++
    ((List.range 16).flatMap fun i => natLe 8 (c.kicks.getD i 0).toNat) ++ natLe 64 0

/-- The control block of queue `q` as its 256 bytes give it. -/
def Qcb.read (q : Nat) (bs : List Byte) : Qcb :=
  let g := fieldAt bs
  let d := fun off => BitVec.ofNat 64 (g off 8)
  { qnum := q, func := g 2 1, part := g 3 1 % 16, prio := g 4 1 % 16, err := g 5 1 % 2 == 1, mapped := g 5 1 / 2 % 2 == 1
    busy := g 5 1 / 4 % 2 == 1, khead := g 6 1 % 16, kcount := g 7 1, run := d 8, kdone := d 0x10, kdrop := d 0x18, csrc := d 0x20
    cdst := d 0x28, clen := d 0x30, cdone := d 0x38, kicks := (List.range 16).map fun i => d (0x40 + 8 * i) }

/-- Where a block lies; a page of them that has left a retired frame lies in its new one (R10). -/
def State.qcbAddr (s : State) (q : Nat) : Nat :=
  let a := s.qcbBase + 256 * q
  4096 * ((s.qcbMoved.find? fun x => x.1 == frameOf a).map (·.2)).getD (frameOf a) + a % 4096
/-- The live copy of a mapped queue's block, else the block in memory (R234). -/
def State.qcb (s : State) (q : Nat) : Qcb :=
  (s.qcbs.find? fun c => c.qnum == q).getD (Qcb.read q (memBytes s.mem (s.qcbAddr q) 256))
def State.isMapped (s : State) (q : Nat) : Bool := s.qcbs.any fun c => c.qnum == q
/-- A block written where it lives. -/
def State.setQcb (s : State) (c : Qcb) : State :=
  if s.isMapped c.qnum then { s with qcbs := s.qcbs.map fun d => if d.qnum = c.qnum then c else d }
  else { s with mem := memPut s.mem (s.qcbAddr c.qnum) c.bytes }
def State.setErr (s : State) (q : Nat) : State := s.setQcb { s.qcb q with err := true }

/-! ### Partitions (R32, R235, R240) -/

def State.part (s : State) (p : Nat) : Part := s.parts[Fin.ofNat 16 p]
def State.setPart (s : State) (p : Nat) (f : Part → Part) : State := { s with parts := s.parts.set (Fin.ofNat 16 p) (f (s.part p)) }
/-- PBUDGET is greater than 0. -/
def State.funded (s : State) (p : Nat) : Bool := decide (0 < (s.part p).budget.toInt)
/-- The clusters of a die that are enabled and belong to the partition, as a mask (R32). -/
def State.clusters (s : State) (p d : Nat) : Nat := ((s.part p).pclust.toNat / 2 ^ (8 * d) % 256) &&& s.clen[Fin.ofNat 8 d]
/-- The partition's dies in ascending rank (R29). Log 53: DEDUCED. -/
def State.dies (s : State) (p : Nat) : List Nat := (List.range 8).filter fun d => s.clusters p d != 0

/-- The symmetries of R32 in their order: where logical cluster `c` goes. -/
def symmetry (i c : Nat) : Nat := if i < 8 then (c + i) % 8 else (i + 8 - c) % 8
/-- The first symmetry that places every used cluster on an available one (R32). -/
def State.binding (s : State) (p d : Nat) (used : List Nat) : Option Nat :=
  (List.range 16).find? fun i => used.all fun c => s.clusters p d / 2 ^ symmetry i c % 2 == 1
/-- Stops on the loop between the places of two clusters, for every pair of those that a kernel uses (R32, R246). -/
def hopsOf (used : List Nat) (place : Nat → Nat) : List Nat :=
  used.flatMap fun a => used.map fun b => min ((place a + 8 - place b) % 8) ((place b + 8 - place a) % 8)
/-- The physical core of a logical one under a symmetry. -/
def bindCore (d i lc : Nat) : Nat := 128 * d + 16 * symmetry i (lc / 16 % 8) + lc % 16

/-! ### Waking (R383) -/

def State.wake (s : State) (id : Nat) : State := s.mapCore id fun k => { k with latch := true }
/-- An event for the dispatch cores of some dies. -/
def State.wakeDies (s : State) (ds : List Nat) : State := ds.foldl (fun s d => (s.wake (1024 + 2 * d)).wake (1025 + 2 * d)) s

/-- A pre-emption request reaches the task of a core (R243, R245, R383). Log 46: DEDUCED. -/
def Core.requestPreempt (keep : Bool) (k : Core) : Core :=
  match k.task with
  | some t => { k with task := some { t with preempt := true, keep := keep }, latch := true }
  | none => k

/-- A pre-emption request reaches the tasks of some cores; a submission that waits for its beat is withdrawn at once (R229, R243, R245). -/
def State.askPreempt (s : State) (on keep : Core → Bool) : State :=
  let s := s.mapCores fun k => if on k then k.requestPreempt (keep k) else k
  (s.cores.filter fun k => on k && k.lace.st == .declaring).foldl (fun s k => s.focusing k.id State.withdraw) s

/-! ### Kernels of a started graph (R29, R61, R233, R237, R239) -/

def State.graphOf (s : State) (h : Nat) : Option Graph := s.graphs.find? fun g => g.reg.handle == h
def State.kern (s : State) (k : Nat) : Option Kern := s.kerns.find? fun x => x.id == k
def State.modKern (s : State) (k : Nat) (f : Kern → Kern) : State := { s with kerns := s.kerns.map fun x => if x.id = k then f x else x }
def State.kernReg (s : State) (k : Kern) : Option GraphReg := (s.graphOf k.graph).map (·.reg)
def State.kernImg (s : State) (k : Kern) : TaskImg := ((s.kernReg k).map fun g => g.image k.node).getD ⟨[], [], [], [], [], 0, [], []⟩
/-- Q of a kernel (R29). -/
def State.kernQ (s : State) (k : Kern) : Nat := ((s.kernReg k).map fun g => (g.node k.node).q).getD 1
/-- The kernels of the same launch that a kernel waits for. -/
def State.preds (s : State) (k : Kern) : List Kern :=
  let es := ((s.kernReg k).map (·.edges)).getD []
  s.kerns.filter fun x => x.launch == k.launch && es.contains (x.node, k.node)
/-- A kernel that was refused, or depends on one that was (R239). `n` bounds the depth of the graph. -/
def State.cutKern (s : State) : Nat → Kern → Bool
  | 0, k => k.refused
  | n + 1, k => k.refused || (s.preds k).any fun p => State.cutKern s n p
def State.isCut (s : State) (k : Kern) : Bool := s.cutKern (s.kerns.length) k
def State.kernReady (s : State) (k : Kern) : Bool := (s.preds k).all (·.done)

/-- A task of the kernel is resident, or saved and not ended (R238). Log 57: DEDUCED. -/
def State.kernLive (s : State) (k : Nat) : Bool :=
  (s.cores.any fun c => c.task.any fun t => t.kern == k) || s.images.any fun i => i.kern == k && i.live && !i.ended

/-- A queue's next graph starts (R233): a mapped queue that runs none takes its oldest kick. -/
def State.startGraph (s : State) (q : Nat) : State :=
  let c := s.qcb q
  if !s.isMapped q || c.busy || c.kcount = 0 then s
  else
    let w := c.kicks.getD c.khead 0
    let h := w.toNat % 65536
    let arr := (s.arrivals.find? fun a => a.1 == q).getD (q, s.tstep, s.kernNo)
    let s := s.setQcb { c with khead := (c.khead + 1) % 16, kcount := c.kcount - 1, busy := true, run := w }
    let n := ((s.graphOf h).map fun g => g.reg.nodes.length).getD 0
    let ks := (List.range n).map fun i =>
      (⟨s.kernNo + 1 + i, s.kernNo, h, i, q, w.toNat / 2 ^ 32 % 4096, arr.2.2, arr.2.1, [], none, false, false, none⟩ : Kern)
    { s with kerns := s.kerns ++ ks, kernNo := s.kernNo + n + 1, arrivals := s.arrivals.erase arr }

/-- The running graph of a queue ends when no kernel of it remains to run; KDONE counts one that no refusal cut short (R233, R239). -/
def State.endGraph (s : State) (q : Nat) : State :=
  let c := s.qcb q
  let ks := s.kerns.filter fun k => k.queue == q
  if c.busy && ks.all fun k => (k.done || s.isCut k) && !s.kernLive k.id then
    let whole := ks.all (·.done)
    let s := { s with kerns := s.kerns.filter fun k => k.queue != q, images := s.images.filter fun i => !(ks.any fun k => k.id == i.kern) }
    (s.setQcb { c with busy := false, kdone := if whole then c.kdone + 1 else c.kdone }).startGraph q
  else s

/-! ### Kicks (R33, R233, R234) -/

/-- A dropped kick: ERR, KDROP and an error record. -/
def State.dropKick (s : State) (c : Qcb) (code : Nat) (w : W64) : State :=
  (s.setQcb { c with err := true, kdrop := c.kdrop + 1 }).errRec code 1 c.func 0 (BitVec.ofNat 64 c.qnum) w

/-- The origin slot of the tenant that a function belongs to. -/
def State.slotOfFunc (s : State) (f : Nat) : Option Nat := (s.origins.find? fun o => o.1 == f).map (·.2)

/-- A virtual function in the TDISP ERROR state refuses every inbound request (R268). -/
def State.tdiError (s : State) (f : Nat) : Bool := (s.tdi.find? fun t => t.1 == f).any fun t => t.2 == .error

/-- The checks of R33 on a kick word. -/
def State.kickOk (s : State) (c : Qcb) (w : W64) : Bool :=
  w.toNat / 2 ^ 44 == 0 && w.toNat / 2 ^ 16 % 2 ^ 16 == 0 &&
    match s.graphOf (w.toNat % 65536) with
    | some g => s.slotOfFunc c.func == some g.reg.slot && decide (w.toNat / 2 ^ 32 % 4096 < g.reg.nsets)
    | none => false

/-- KICK (R33, R233, R234, R269): a write of `width` bytes at offset `off` of the kick page of queue `q` by a function. -/
def State.kick (s : State) (func q off width : Nat) (val : W64) : State :=
  let c := s.qcb q
  if s.viral || s.inReset || s.tdiError func || 4096 ≤ q || 8 ≤ off || c.func != func then s
  else if off != 0 || width != 8 || !s.kickOk c val then s.dropKick c 0x0301 val
  else if 16 ≤ c.kcount then s.dropKick c 0x0302 val
  else
    let s := s.setQcb { c with kicks := c.kicks.set ((c.khead + c.kcount) % 16) val, kcount := c.kcount + 1 }
    let s := { s with arrivals := s.arrivals ++ [(q, s.tstep, s.kernNo)], kernNo := s.kernNo + 1 }
    if s.isMapped q then s.startGraph q
    else State.wakeDies { s with pendmap := (q :: s.pendmap.filter (· != q)) } (List.range 8)
def execKick (func q off width : Nat) (val : W64) (s : State) : Host.Outcome State Fault Refusal := .next (s.kick func q off width val)

/-! ### Slot commands (R234 to R236) -/

def cmdOp (v : W64) : Nat := v.toNat / 2 ^ 60 % 16
def cmdQueue (v : W64) : Nat := v.toNat / 2 ^ 32 % 4096
def cmdPrio (v : W64) : Nat := v.toNat / 2 ^ 44 % 16
def cmdKeep (v : W64) : Bool := v.toNat / 2 ^ 48 % 2 == 1
def cmdSlot (v : W64) : Nat := v.toNat % 16

/-- A command of die `d`'s window ends with a result, and BUSY clears (R235, R383). Log 32: DEDUCED. -/
def State.cmdDone (s : State) (d r : Nat) : State := State.wakeDies { s with slotSt := s.slotSt.set (Fin.ofNat 8 d) r } [d]
/-- The queue's partition does not hold the window's die. Log 51: DESIGN CHOICE. -/
def State.offDie (s : State) (d : Nat) (v : W64) : Bool := !(s.dies (s.qcb (cmdQueue v)).part).contains d

/-- MAP (R234): the slot on every die of the partition takes the block. Log 51: DESIGN CHOICE; log 53: DEDUCED. -/
def State.slotMap (s : State) (d : Nat) (v : W64) : State :=
  let q := cmdQueue v
  let c := s.qcb q
  if s.isMapped q then s.cmdDone d 2
  else if s.offDie d v then s.cmdDone d 3
  else
    let ds := s.dies c.part
    if ds.any fun e => s.slots.any fun x => x.die == e && x.slot == cmdSlot v then s.cmdDone d 1
    else
      let c := { c with mapped := true, prio := cmdPrio v }
      let s := { s with
        qcbs := c :: s.qcbs
        slots := s.slots ++ ds.map fun e => (⟨e, cmdSlot v, q⟩ : QSlot)
        pendmap := s.pendmap.filter (· != q) }
      (s.startGraph q).cmdDone d 0

/-- UNMAP (R234): the block goes back to memory, and its pending bit is set again where kicks wait. Log 51: DESIGN CHOICE. -/
def State.slotUnmap (s : State) (d : Nat) (v : W64) : State :=
  let q := cmdQueue v
  let c := s.qcb q
  if !s.isMapped q then s.cmdDone d 2
  else if s.offDie d v then s.cmdDone d 3
  else
    let s := { s with qcbs := s.qcbs.filter fun x => x.qnum != q, slots := s.slots.filter fun x => x.q != q }
    let s := s.setQcb { c with mapped := false }
    let s := if c.kcount = 0 then s else State.wakeDies { s with pendmap := (q :: s.pendmap.filter (· != q)) } (List.range 8)
    s.cmdDone d 0

/-- PRIO (R236). Log 51: DESIGN CHOICE. -/
def State.slotPrio (s : State) (d : Nat) (v : W64) : State :=
  if s.offDie d v then s.cmdDone d 3 else (s.setQcb { s.qcb (cmdQueue v) with prio := cmdPrio v }).cmdDone d 0

/-- PREEMPT (R236, R245): the queue's tasks get a pre-emption request. Log 51: DESIGN CHOICE. -/
def State.slotPreempt (s : State) (d : Nat) (v : W64) : State :=
  if s.offDie d v then s.cmdDone d 3
  else (s.askPreempt (fun k => k.task.any fun t => t.queue == cmdQueue v) fun _ => cmdKeep v).cmdDone d 0

/-- Another OP writes an error record and does nothing (R236). -/
def State.slotUnknown (s : State) (_d : Nat) (v : W64) : State := s.errRec 0x0303 1 0 0 v 0

/-- SLOTCMDST.BUSY of die `d`: a command is in progress (R235). -/
def State.slotBusy (s : State) (d : Nat) : Bool := s.slotNow.any fun x => x.1 == d
/-- A write to SLOTCMD of die `d` arrives: its command is in progress from now on, or is held until BUSY clears (R236). Log 32: DEDUCED. -/
def State.slotWrite (s : State) (d : Nat) (v : W64) : State :=
  if s.slotBusy d then { s with slotHeld := s.slotHeld ++ [(d, v)] } else { s with slotNow := (d, v) :: s.slotNow }
/-- BUSY of die `d` clears, and the oldest write that is held there takes effect (R236). -/
def State.slotNext (s : State) (d : Nat) : State :=
  let s := { s with slotNow := s.slotNow.filter fun x => x.1 != d }
  match s.slotHeld.find? fun x => x.1 == d with
  | some x => { s with slotNow := x :: s.slotNow, slotHeld := s.slotHeld.erase x }
  | none => s
/-- A slot command is carried out: the one in progress, or one whose write arrives now; behind another it is held (R236). Log 32: DEDUCED. -/
def State.slotStep (s : State) (d : Nat) (v : W64) (f : State → State) : State :=
  if s.slotNow.contains (d, v) then (f s).slotNext d
  else if s.slotBusy d then s.slotWrite d v
  else f s

/-- A step of the hub or of a device: nothing of it happens in reset. -/
def State.service (s : State) (f : State → State) : Host.Outcome State Fault Refusal := .next (if s.inReset then s else f s)
/-- A step that a write from outside or from a dispatch core brings: the viral state drops it (R259). -/
def State.arrival (s : State) (f : State → State) : Host.Outcome State Fault Refusal := s.service fun s => if s.viral then s else f s

/-- A step that has to wait until an invalidation or a transaction ends (R228, R391). -/
def State.holdStep (s : State) (i : Instr) : State := if s.heldSteps.contains i then s else { s with heldSteps := s.heldSteps ++ [i] }
/-- The steps that waited come again. -/
def State.wakeHeld (s : State) : State := { s with agenda := s.heldSteps ++ s.agenda, heldSteps := [] }

def execSlotcmdMap (d : Nat) (v : W64) (s : State) :=
  s.arrival fun s => if cmdOp v = 1 && d < 8 then s.slotStep d v fun s => s.slotMap d v else s
def execSlotcmdUnmap (d : Nat) (v : W64) (s : State) :=
  s.arrival fun s => if cmdOp v = 2 && d < 8 then s.slotStep d v fun s => s.slotUnmap d v else s
def execSlotcmdPrio (d : Nat) (v : W64) (s : State) :=
  s.arrival fun s => if cmdOp v = 3 && d < 8 then s.slotStep d v fun s => s.slotPrio d v else s
def execSlotcmdPreempt (d : Nat) (v : W64) (s : State) :=
  s.arrival fun s => if cmdOp v = 4 && d < 8 then s.slotStep d v fun s => s.slotPreempt d v else s
def execSlotcmdUnknown (d : Nat) (v : W64) (s : State) := s.arrival fun s =>
  if !(decide (1 ≤ cmdOp v) && decide (cmdOp v ≤ 4)) && d < 8 then s.slotStep d v fun s => s.slotUnknown d v else s

/-- PBADD (R235): one step. -/
def State.pbadd (s : State) (p : Nat) (v : W64) : State := if p < 16 then s.setPart p fun x => { x with budget := x.budget + v } else s
def execPbadd (p : Nat) (v : W64) (s : State) := s.arrival fun s => s.pbadd p v

/-- COPYCMD (R235, R244): the copy that the block describes starts on die `d`; a queue has one copy at a time. Log 54: DEDUCED. -/
def State.copyCmd (s : State) (d : Nat) (v : W64) : State :=
  let q := v.toNat % 4096
  let c := s.qcb q
  if 8 ≤ d || c.clen = 0 || s.jobs.any fun j => j.queue == q then s
  else
    let s := s.setQcb { c with cdone := 0 }
    { s with jobs := s.jobs ++ [⟨d, q, s.kernNo⟩], kernNo := s.kernNo + 1 }
def execCopycmd (d : Nat) (v : W64) (s : State) := s.arrival fun s => s.copyCmd d v

/-- A write of 8 aligned bytes by a dispatch core to the scheduler window of die `d` (R235); read-only registers and those that Insole
writes keep their value. Log 67: DEDUCED. -/
def State.windowWrite (s : State) (d off : Nat) (v : W64) : State :=
  if off = 0 then s.slotWrite d v
  else if 0x0480 ≤ off && off < 0x0500 && off % 8 = 0 then s.pbadd ((off - 0x0480) / 8) v
  else if off = 0x0800 then s.copyCmd d v
  else s

/-- A legal value of PRING: the lacers' entries are never reserved (R240). -/
def pringOk (v : W64) : Bool := !(v.getLsbD 0 || v.getLsbD 16 || v.getLsbD 32 || v.getLsbD 48)
/-- The other partitions share no bit (R240). -/
def State.disjoint (s : State) (p : Nat) (f : Part → W64) (v : W64) : Bool :=
  (List.range 16).all fun i => i == p || f (s.part i) &&& v == 0

/-- INSOLE_PARTITION_WRITE (R235, R240): PCLUST, PRING and PMODE, which Insole alone writes. A PMODE whose LAG is 0 is not taken. Log 103:
DESIGN CHOICE. -/
def State.partitionWrite (s : State) (off : Nat) (v : W64) : State :=
  let p := off / 8 % 16
  if off % 8 != 0 then s
  else if 0x0500 ≤ off && off < 0x0580 then
    if s.disjoint p (·.pclust) v then s.setPart p fun x => { x with pclust := v } else s
  else if 0x0580 ≤ off && off < 0x0600 then
    if pringOk v && s.disjoint p (·.pring) v then s.setPart p fun x => { x with pring := v } else s
  else if 0x0600 ≤ off && off < 0x0680 then
    if v.toNat / 256 % 256 = 0 then s else s.setPart p fun x => { x with pmode := v &&& 0xFF01#64 }
  else s
def execInsolePartitionWrite (off : Nat) (v : W64) (s : State) := s.service fun s => s.partitionWrite off v

/-! ### Bulk copies (R244) -/

/-- Where a chunk may go (R201, R207, R244): every source frame's label is a subset of every destination frame's. -/
def State.chunkOk (s : State) (src dst n : Nat) : Bool :=
  let fs := (List.range ((n + 4095) / 4096 + 1)).map fun i => min (src + 4096 * i) (src + n - 1)
  let ds := (List.range ((n + 4095) / 4096 + 1)).map fun i => min (dst + 4096 * i) (dst + n - 1)
  ds.all fun d => fs.all fun f => Label.sub (s.readLab f) (s.readLab d)
/-- Log 55: DESIGN CHOICE. -/
def State.rangeOk (s : State) (a n : Nat) : Bool := assigned s a && assigned s (a + n - 1) && paClass a == 0 && paClass (a + n - 1) == 0
/-- A chunk's range in device, host or peer memory: assigned, and reached (R9, R244, R266, R267, R270). Log 55: DESIGN CHOICE. -/
def State.copyRange (s : State) (a n : Nat) : Bool :=
  assigned s a && assigned s (a + n - 1) && paClass a == paClass (a + n - 1) && match paClass a with
    | 0 => true
    | 1 => (s.hwinOf (winOf a)).en && winOf a == winOf (a + n - 1)
    | 2 => peerModule a == peerModule (a + n - 1) && (s.ownPeer a || s.strapsUp)
    | _ => false
/-- A frame of the range is still to be zeroed: the chunk waits (R206). -/
def State.rangeWaits (s : State) (a n : Nat) : Bool := (List.range (n / 4096 + 2)).any fun i => s.awaitsZero (min (a + 4096 * i) (a + n - 1))
/-- The poisoned units of a source range, as they would stand in the destination (R157). -/
def State.badUnits (s : State) (src dst n : Nat) : List Nat :=
  if paClass src = 0 && paClass dst = 0 then
    ((List.range (n / 64)).filter fun u => s.poison.contains (src / 64 + u)).map (dst / 64 + ·)
  else []

/-- The job that an engine of die `d` takes next: the eligible one of highest queue priority that no engine has in hand, the oldest first
(R244). Log 54: DEDUCED. -/
def State.nextJob (s : State) (d : Nat) : Option CopyJob :=
  (s.jobs.filter fun j => j.die == d && s.funded (s.qcb j.queue).part && !(s.engines.any fun e => e.2.2 == j.queue)).foldl (fun (b : Option CopyJob) j =>
    match b with
    | none => some j
    | some x =>
      let pj := (s.qcb j.queue).prio
      let px := (s.qcb x.queue).prio
      if px < pj || (px == pj && j.order < x.order) then some j else b) none

/-- A command ends: CLEN is 0 when no copy is pending (R232). Log 54: DEDUCED. -/
def State.endJob (s : State) (j : CopyJob) (c : Qcb) : State :=
  { s.setQcb { c with clen := 0 } with jobs := s.jobs.filter fun x => x.queue != j.queue }

/-- The bytes of a chunk go to their destination; poison travels with its unit (R157). -/
def State.moveChunk (s : State) (src dst n : Nat) : State :=
  if paClass src = 0 && paClass dst = 0 then
    let bad := s.badUnits src dst n
    let s := { s with
      mem := memPut s.mem dst (memBytes s.mem src n)
      poison := s.poison.filter fun u => !(decide (dst / 64 ≤ u) && decide (u < (dst + n) / 64)) }
    bad.foldl State.poisonUnit s
  else
    let bs := (List.range n).map fun i => (Loc.mem (dst + i), s.homeByte (.mem (src + i)))
    (bs.foldl (fun s b => s.setHome b.1 b.2) s).clearPoison (wholeUnits (bs.map (·.1)))
/-- One chunk (R244). It has no effect where an address is not assigned (R9). Log 54: DEDUCED; log 55: DESIGN CHOICE. -/
def State.chunk (s : State) (j : CopyJob) : State :=
  let c := s.qcb j.queue
  let n := min 65536 (c.clen.toNat - c.cdone.toNat)
  let src := c.csrc.toNat + c.cdone.toNat
  let dst := c.cdst.toNat + c.cdone.toNat
  if n = 0 then s.endJob j c
  else if !s.copyRange src n || !s.copyRange dst n || s.rangeWaits src n || s.rangeWaits dst n ||
      (s.badUnits src dst n).any s.unitInUse then s
  else if !s.chunkOk src dst n then
    (s.endJob j { c with err := true }).errRec 0x0304 1 c.func 0 (BitVec.ofNat 64 j.queue) c.cdone
  else
    let s := s.moveChunk src dst n
    let s := { s with chunks := s.chunks ++ [c.part] }
    let c := { c with cdone := c.cdone + BitVec.ofNat 64 n }
    if c.clen.toNat ≤ c.cdone.toNat then s.endJob j c else s.setQcb c

/-- The command that engine `e` of die `d` has in hand; with none, the one that it takes. -/
def State.engineJob (s : State) (d e : Nat) : Option CopyJob :=
  match (s.engines.find? fun x => x.1 == d && x.2.1 == e).bind fun x => s.jobs.find? fun j => j.queue == x.2.2 with
  | some j => some j
  | none => State.nextJob { s with engines := s.engines.filter fun x => !(x.1 == d && x.2.1 == e) } d
/-- At a chunk boundary an engine goes on with the command that it takes then (R244). -/
def State.takeJob (s : State) (d e : Nat) : State :=
  let s := { s with engines := s.engines.filter fun x => !(x.1 == d && x.2.1 == e) }
  match s.nextJob d with
  | some j => { s with engines := (d, e, j.queue) :: s.engines }
  | none => s
/-- BULK_COPY_CHUNK (R244): engine `e` of die `d` moves the chunk in hand and takes its next command. Log 55: DESIGN CHOICE. -/
def execBulkCopyChunk (d e : Nat) (s : State) : Host.Outcome State Fault Refusal :=
  if s.inReset || s.viral || 4 ≤ e then .next s
  else match s.engineJob d e with
    | none => .next s
    | some j => .next ((s.chunk j).takeJob d e)

/-! ### Budgets (R243) -/

/-- Units that a beat charges to partition `p`. -/
def State.charge (s : State) (p : Nat) : Nat :=
  let now := s.cores.filterMap fun k => k.task.map fun t => (t.part, k.id)
  ((now ++ s.charged).dedup.filter fun x => x.1 == p).length + s.chunks.count p
/-- The charges of a beat, and the pre-emption of the tasks of partitions whose budget has run out (R243). Log 46: DEDUCED. -/
def State.closeBudgets (s : State) : State :=
  let s1 := (List.range 16).foldl (fun s' p => s'.setPart p fun x => { x with budget := x.budget - BitVec.ofNat 64 (s.charge p) }) s
  State.askPreempt { s1 with charged := [], chunks := [] } (fun k => k.task.any fun t => !s1.funded t.part)
    fun k => (k.task.map (·.keep)).getD false
/-- A task leaves a core: the beat is charged for it all the same. -/
def State.noteCharge (s : State) (k : Core) : State :=
  match k.task with
  | some t => { s with charged := (t.part, k.id) :: s.charged }
  | none => s

/-! ### The launch sequencer (R27, R29, R32, R230, R237 to R241) -/

/-- A core on which a task may start: it runs none, holds no parked scratchpad (R245) and no self-test has it (R261). -/
def inBist (sel id : Nat) : Bool := id < 1024 && id / 128 == sel % 8 && (sel / 8 % 16 == 15 || id % 128 / 16 == sel / 8 % 16)
def State.bistHolds (s : State) (id : Nat) : Bool :=
  match s.bistSel with
  | some sel => inBist sel id && !(s.cores.any fun k => k.task.isSome && inBist sel k.id)
  | none => false
def State.coreFree (s : State) (id : Nat) : Bool :=
  (s.coreOf id).task.isNone && (s.coreOf id).parked.isNone && !s.bistHolds id

/-- The logical clusters that a kernel uses on each of its dies (R32). -/
def State.usedClusters (s : State) (k : Kern) : List Nat :=
  ((List.range (min ((s.kernImg k).tasks 1) (s.kernQ k))).map (· / 16)).dedup

/-- The kernels that die `d`'s scoreboard holds: the first 64 of those of its mapped queues, with those that have issued there (R237). Log 5:
DEDUCED. -/
def State.board (s : State) (d : Nat) : List Kern :=
  (s.kerns.filter fun k => !k.done && !s.isCut k &&
    ((k.waves.any fun w => w.1 == d) || s.slots.any fun x => x.die == d && x.q == k.queue)).take 64

/-- The partition of a kernel. Log 53: DEDUCED. -/
def State.kernPart (s : State) (k : Kern) : Nat := ((s.kernReg k).map (·.part)).getD 0
/-- The partition of a kernel is in deterministic mode (R241). -/
def State.isDet (s : State) (k : Kern) : Bool := (s.part (s.kernPart k)).pmode.toNat % 2 == 1
/-- Deterministic mode: the tasks of a kernel's first wave issue at beat boundaries, from the first that R241 names on. Log 5: DEDUCED. -/
def State.detOk (s : State) (k : Kern) : Bool :=
  let m := (s.part (s.kernPart k)).pmode.toNat
  if m % 2 = 0 then true
  else
    let ps := s.preds k
    let from_ := if ps.isEmpty then k.arrive + m / 256 % 256 else (ps.map fun p => (p.ready.getD 0) + 1).foldl max 0
    s.beatClk == 0 && decide (from_ ≤ s.tstep)
/-- A kernel may issue tasks on die `d` now: it stands in the scoreboard, is ready and funded, and the lowest-ranked of its dies has fixed
TSTEP0 (R230, R237, R243). -/
def State.mayIssue (s : State) (k : Kern) (d : Nat) : Bool :=
  let ds := (s.dies (s.kernPart k)).take ((s.kernImg k).tasks 2)
  (s.board d).contains k && s.kernReady k && s.funded (s.kernPart k) && ds.contains d &&
    (k.tstep0.isSome || ds.head? == some d)

/-- The next task of each logical core on die `d`. -/
def State.tasksLeft (s : State) (k : Kern) (d : Nat) : List (Nat × Nat) :=
  let n := (s.kernImg k).tasks 1
  let q := s.kernQ k
  (List.range (min n q)).filterMap fun lc =>
    (((List.range ((n - lc + q - 1) / q)).map fun w => lc + w * q).find? fun p => !k.waves.contains (d, p)).map fun p => (lc, p)
/-- The next task of each logical core on die `d`, with its physical core, where that core is free (R29, R237); one of the first wave only where
R241 lets it issue now. Log 5: DEDUCED. -/
def State.nextTasks (s : State) (k : Kern) (d sym : Nat) : List (Nat × Nat) :=
  (s.tasksLeft k d).filterMap fun x =>
    let c := bindCore d sym x.1
    if s.coreFree c && (s.kernQ k ≤ x.2 || s.detOk k) then some (x.2, c) else none

/-- Kernels before this one in the order of queue priority and kicks (R237). Log 5: DEDUCED. -/
def State.kernBefore (s : State) (a b : Kern) : Bool :=
  let pa := (s.qcb a.queue).prio
  let pb := (s.qcb b.queue).prio
  pb < pa || (pa == pb && (a.order < b.order || (a.order == b.order && a.id < b.id)))
/-- The cores of die `d` that earlier kernels take first. Log 5: DEDUCED. -/
def State.takenFirst (s : State) (k : Kern) (d : Nat) : List Nat :=
  ((s.board d).filter fun x => s.kernBefore x k && s.mayIssue x d).flatMap fun x =>
    match s.binding (s.kernPart x) d (s.usedClusters x) with
    | some i => (s.nextTasks x d i).map (·.2)
    | none => []

/-- The task block (R27). -/
def blockBytes (graph node idx ntask : Nat) (sp : List Nat) (wave : Nat) (args : List W64) (tstep0 : Nat) : List Byte :=
  padTo 256 (natLe 8 (node * 65536 + graph % 65536) ++ natLe 8 idx ++ natLe 8 ntask ++ (sp.flatMap fun i => natLe 2 i) ++ natLe 4 wave ++
    ((List.range 8).flatMap fun i => natLe 8 (args.getD i 0).toNat) ++ natLe 8 tstep0)

/-- A stream as a task image starts it (R16, R27, R61). Log 50: DEDUCED; log 105: DESIGN CHOICE. -/
def startStrm (t : TaskImg) (ctx : Label) (st : Stream) : Strm :=
  let r := Strm.reset st
  let route := ((t.routes.find? fun x => x.1 == st).map (·.2)).getD (noRoute st, noRoute st)
  let r := { r with clab := ctx, routeIn := Fin.ofNat 16 route.1, routeOut := Fin.ofNat 16 route.2 }
  match t.text.find? fun x => x.1 == st with
  | some x => { r with ended := false, pc := x.2.va + BitVec.ofNat 64 (((t.entries.find? fun e => e.1 == st).map (·.2)).getD 0) }
  | none => r

/-- The shadow copy of a slot at task start (R65, R112). Log 50: DEDUCED; log 105: DESIGN CHOICE. -/
def startNest (t : TaskImg) (ctx : Label) (ns : Nat) : Nest :=
  (t.nest.filter fun r => r.slot.val == ns).foldl (fun n r => ⟨n.f.set (nestIx r.lvl.val r.fld.val) r.val, ctx⟩) Nest.reset
/-- The rings at task start (R65, R147). Log 105: DESIGN CHOICE. -/
def startRing (t : TaskImg) (r : Nat) : Ring :=
  match t.rings.find? fun x => x.ring.val == r with
  | some x => { Ring.reset with base := x.base, logsz := x.logsz, count := x.count }
  | none => Ring.reset

/-- The register and core state of a fresh task (R27, R109, R146); the caches of the physical core stay. Log 50: DEDUCED. -/
def freshCore (old : Core) (t : TaskImg) (ctx : Label) (task : Task) (blk : W64) (args : List W64) : Core :=
  let x : Vector LW 64 := Vector.ofFn fun (i : Fin 64) =>
    if i.val = 3 then ⟨blk, 0⟩ else if 4 ≤ i.val ∧ i.val ≤ 11 then ⟨args.getD (i.val - 4) 0, 0⟩ else ⟨0, 0⟩
  { Core.reset old.id with
    task := some task, x := x
    c := startStrm t ctx .c, a := startStrm t ctx .a, v := startStrm t ctx .v, m := startStrm t ctx .m
    csr := { Csrs.reset with stitchset := BitVec.ofNat 4 t.stitch }
    rings := Vector.ofFn fun (i : Fin 16) => startRing t i.val
    scratch := t.scratch.foldl (fun m b => if b.1 < Config.scratchBytes then memSet m b.1 b.2 else m) []
    segLab := Vector.replicate 96 ctx
    shadow := Vector.ofFn fun (i : Fin 8) => startNest t ctx i.val
    l1 := old.l1, utlb := old.utlb, l2tlb := old.l2tlb, walks := old.walks }

/-- Bytes that the sequencer writes to device memory; no copy of their lines stays (R206, R386). Log 52: DEDUCED. -/
def State.placeBytes (s : State) (pa : Nat) (bs : List Byte) : State :=
  let hit := fun (c : Copy) => decide (pa / 64 ≤ c.line) && decide (c.line * 64 < pa + bs.length)
  let s := s.mapCores fun k => { k with l1 := k.l1.filter fun c => !hit c }
  { s with mem := memPut s.mem pa bs, rdc := s.rdc.filter fun e => !hit e.2 }

/-- A task starts on a core (R27, R238): task `p` of die `d`. -/
def State.startTask (s : State) (k : Kern) (g : GraphReg) (d p pcore : Nat) : State :=
  let t := g.image k.node
  let n := g.node k.node
  let delta := (s.dies (s.kernPart k)).findIdx (· == d)
  let per := t.tasks 1
  let idx := delta * per + p
  let lc := 128 * d + p % n.q
  let sp := t.spIdx delta p
  let args := (List.range 8).map fun i => (n.args.getD k.argset []).getD i 0
  let blk := n.blocks.getD idx ⟨[], 0, 0, [], []⟩
  let task : Task := ⟨k.graph, k.node, idx, k.queue, g.func, g.part, lc, g.space, g.root, k.id, k.launch, sp, false, false⟩
  let s := match blk.frames.head? with
    | some f => s.placeBytes (4096 * f) (blockBytes k.graph k.node idx (t.tasks 2 * per) sp (p / n.q) args (k.tstep0.getD s.tstep))
    | none => s
  let s := s.setCore (freshCore (s.coreOf pcore) t n.clab task blk.va args)
  if (s.preds k).isEmpty then s else s.focusing pcore fun s => s.acquire .dv

/-- The kernel's wave is refused (R239). -/
def State.refuseKern (s : State) (k : Kern) (g : GraphReg) : State :=
  let s := s.modKern k.id fun x => { x with refused := true }
  let s := (s.errRec 0x0C04 1 g.func 0 (BitVec.ofNat 64 k.queue) (BitVec.ofNat 64 (k.node * 65536 + k.graph))).setErr k.queue
  s.endGraph k.queue

/-- WAVE_ISSUE (R237): the tasks of a ready kernel go to the free cores of die `d` that no earlier kernel takes. Log 5: DEDUCED. -/
def State.waveIssue (s : State) (id d : Nat) : State :=
  match s.kern id with
  | none => s
  | some k =>
    match s.kernReg k with
    | none => s
    | some g =>
      if s.viral || !s.mayIssue k d then s
      else match s.binding g.part d (s.usedClusters k) with
        | none => if (s.tasksLeft k d).isEmpty then s else s.refuseKern k g
        | some i =>
          let taken := s.takenFirst k d
          let ts := (s.nextTasks k d i).filter fun x => !taken.contains x.2
          if ts.isEmpty then s
          else
            let k' := { k with waves := k.waves ++ ts.map fun x => (d, x.1), tstep0 := some (k.tstep0.getD s.tstep) }
            ts.foldl (fun s x => s.startTask k' g d x.1 x.2) (s.modKern id fun _ => k')
/-- The first waves that a beat boundary lets issue in deterministic mode do so at it (R241). Log 5: DEDUCED. -/
def State.detIssue (s : State) : State :=
  (s.kerns.filter s.isDet).foldl (fun s k => (s.dies (s.kernPart k)).foldl (fun s d => s.waveIssue k.id d) s) s
def execWaveIssue (k d : Nat) (s : State) := s.service fun s => s.waveIssue k d

/-- KERNEL_COMPLETE (R238): every task has been issued and has ended. -/
def State.kernelComplete (s : State) (id : Nat) : State :=
  match s.kern id with
  | none => s
  | some k =>
    let t := s.kernImg k
    if s.viral || k.done || k.refused || k.waves.length < t.tasks 1 * t.tasks 2 || s.kernLive id then s
    else
      let s := s.modKern id fun x => { x with done := true, ready := some s.tstep }
      let s := { s with images := s.images.filter fun i => i.kern != id }
      (s.wakeDies (k.waves.map (·.1)).dedup).endGraph k.queue
def execKernelComplete (k : Nat) (s : State) := s.service fun s => s.kernelComplete k

end Sys2Proof.Machine
end

