-- ==== Sys2Proof/Machine/Hub.lean ====
section
/-! DEFINITION. The hub: how outbound writes are classed and reach their far homes, the far accesses, the steps of the ordering machine as
they are scheduled, inbound writes, completions and fault mailboxes (R163 to R178, R186, R207 to R216, R252, R253, R266 to R271). -/

namespace Sys2Proof.Machine
open Sys2Proof

/-! ### Classing (R207, R212) -/

/-- How many origins a label has. -/
def Label.count (l : Label) : Nat := ((List.range 256).filter fun i => l.getLsbD i).length

/-- A policy releases a write (R212). -/
def Policy.releases (p : Policy) (tstep : Nat) (lab : Label) (func first len graph : Nat) : Bool :=
  p.dkind == 1 && p.lset == lab && p.dest == func && decide (p.dlo ≤ first) && decide (first + len - 1 ≤ p.dhi) &&
    decide (tstep < p.expiry) && (!p.greq || p.graph == graph) && decide (len ≤ p.remaining)
/-- The matching policy of lowest index, if one matches (R212). -/
def State.matching (s : State) (lab : Label) (func first len graph : Nat) : Option Policy :=
  (s.policies.filter fun p => p.releases s.tstep lab func first len graph).foldl (fun (b : Option Policy) p =>
    match b with
    | none => some p
    | some x => if p.idx < x.idx then some p else b) none

/-- A write of data of a label to a host function is classed: the state after its release, or none where it is refused (R207, R212). -/
def State.classify (s : State) (lab : Label) (func first len graph : Nat) : Option State :=
  if lab = 0 then some s
  else if Label.count lab = 1 then (if lab = s.funcLab func then some s else none)
  else match s.matching lab func first len graph with
    | some p =>
      some { s with policies := s.policies.map fun q => if q.idx = p.idx then { q with remaining := q.remaining - len } else q }
    | none => none

/-- A refused write, in the program order of its stream (R209). -/
def insertRefused (x : Nat × W64) : List (Nat × W64) → List (Nat × W64)
  | [] => [x]
  | y :: r => if x.1 < y.1 then x :: y :: r else y :: insertRefused x r

def Posted.first (p : Posted) : Nat := (p.bytes.map (·.1)).foldl min ((p.bytes.head?.map (·.1)).getD 0)
/-- Two entries of a posted set are one write (R170). -/
def Posted.same (p q : Posted) : Bool := p.seq == q.seq && p.part == q.part
/-- A posted write leaves the set of its stream; the array's word that it was the last of has performed, and retires (R19, R329). -/
def State.dropPosted (s : State) (st : Stream) (p : Posted) : State :=
  let s := s.modStrm st fun t => { t with posted := t.posted.filter fun q => !q.same p }
  if st = .m then s.settleWord .m p.id else s
/-- A refused write is dropped whole, with record 0x0401 and the hub's own note of its label, destination and length, and stays to be reported
(R209). -/
def State.refuse (s : State) (st : Stream) (p : Posted) : State :=
  let s := s.errRec 0x0401 1 s.core.func 0 (BitVec.ofNat 64 p.first) (BitVec.ofNat 64 p.bytes.length)
  let s := { s with hubLog := s.hubLog ++ [(p.lab, p.first, p.bytes.length)] }
  (s.dropPosted st p).modStrm st fun t => { t with refused := insertRefused (p.seq, p.va) t.refused }

/-- EGRESS_WRITE (R207, R209, R267): posted write `n` of a stream arrives at the hub and is released or refused. Log 66: DEDUCED. -/
def State.egressWrite (s : State) (st : Stream) (n : Nat) : State :=
  match (s.strm st).posted[n]? with
  | none => s
  | some p =>
    let go := fun (s : State) (hi : Nat) => s.modStrm st fun t =>
      { t with posted := t.posted.map fun q => if q.same p then { q with released := true, basehi := hi } else q }
    if p.released then s
    else if paClass p.first = 1 then
      let w := s.hwinOf (winOf p.first)
      if !w.en then s.refuse st p
      else match s.classify p.lab w.func p.first p.bytes.length p.graph with
        | some s => go s w.basehi
        | none => s.refuse st p
    else go s 0

/-- A write of a peer or function that breaks the subset rule at its destination is dropped with record 0x0402 (R208, R269). -/
def State.dropInbound (s : State) (func pa len : Nat) : State :=
  s.errRec 0x0402 1 func 0 (BitVec.ofNat 64 pa) (BitVec.ofNat 64 len)
/-- Data of a label may be written to every device byte (R201). Log 30: DEDUCED. -/
def State.framesAllow (s : State) (lab : Label) (pas : List Nat) : Bool := pas.all fun a => Label.sub lab (s.frameLab a)

/-- A posted write is at its far home (R170, R235, R266, R267). Another module of the domain checks it against its own frames (R201, R207) and
logs one that it drops. Log 30: DEDUCED; log 67: DEDUCED. -/
def State.landPosted (s : State) (p : Posted) : State :=
  match paClass p.first with
  | 1 => { s with host := p.bytes.foldl (fun m b => memSet m (p.basehi * 2 ^ 32 + b.1 % 2 ^ 32) b.2) s.host }
  | 2 =>
    if s.ownPeer p.first then
      let bs := p.bytes.map fun b => (peerPa b.1, b.2)
      if s.framesAllow p.lab (bs.map (·.1)) then
        (s.storeBytes (bs.map fun b => (Loc.mem b.1, b.2))).clearPoison (wholeUnits (bs.map fun b => .mem b.1))
      else s.dropInbound 0 p.first p.bytes.length
    else if p.bytes.all fun b => Label.sub p.lab (s.peerLab b.1) then
      { s with peers := p.bytes.foldl (fun m b => memSet m b.1 b.2) s.peers }
    else s
  | _ =>
    if p.bytes.length = 8 && p.first % 8 = 0 then
      s.windowWrite (p.first % 2 ^ 50 / 65536) (p.first % 65536) (BitVec.ofNat 64 (leNat (p.bytes.map (·.2))))
    else s

/-- POSTED_ARRIVAL (R170): a released write reaches its far home, after the older ones of its stream that write a byte of it. -/
def State.postedArrival (s : State) (st : Stream) (n : Nat) : State :=
  let ps := (s.strm st).posted
  match ps[n]? with
  | none => s
  | some p =>
    if !p.released || p.bytes.any (fun b => s.awaitsZero b.1) ||
        ps.any fun q => decide (q.seq < p.seq) && q.bytes.any fun b => p.bytes.any fun c => c.1 == b.1 then s
    else (s.dropPosted st p).landPosted p

/-! ### Far accesses (R170, R209, R266, R267, R277) -/

/-- A word that has issued and faults at the hub has had no effect: its entries, its tokens, its registers (R267). -/
def State.withdrawWord (s : State) (st : Stream) (id : Nat) (d : Option (Fin 64)) (back : Option (Fin 32 × LW)) : State :=
  let s := (s.unissue st id).modStrm st fun t => { t with lq := t.lq.filter fun e => e.id != id, sq := t.sq.filter fun e => e.id != id }
  s.modCore fun k =>
    let k := match k.landings.find? fun l => l.id == id with
      | some l => { k with landings := k.landings.filter fun x => x.id != id, lt := k.lt.set l.lt (k.lt[l.lt] - 1) }
      | none => k
    let k := match d with | some d => { k with xPend := k.xPend.erase d } | none => k
    match back with
    | some (a, w) => { k with ar := k.ar.set a w }
    | none => k
def LDst.reg : LDst → Option (Fin 64)
  | .x d _ => some d | _ => none
def LDst.back : LDst → Option (Fin 32 × LW)
  | .slot _ _ _ b => some b | _ => none
def LDst.lab : LDst → Label
  | .x _ l => l | .slot _ _ l _ => l | .rows _ _ _ _ l _ => l | _ => 0
def LDst.join (d : LDst) (l : Label) : LDst :=
  match d with
  | .x r m => .x r (Label.join m l)
  | .slot g c m b => .slot g c (Label.join m l) b
  | .rows g c n w m z => .rows g c n w (Label.join m l) z
  | d => d
/-- The ring, its fields, and the slots that a load fills. -/
def LDst.fills : LDst → Option (Nat × RingCfg × Nat)
  | .slot r c .. => some (r, c, 1) | .rows r c n .. => some (r, c, n) | _ => none

/-- The bytes of memory that a load has still to read: page key, address, and whether the page has policy N. -/
def LEnt.memNeed (e : LEnt) : List (Nat × Nat × Bool) :=
  match e.kind with
  | .load need got _ => ((need.zip got).filter fun x => x.2.isNone).filterMap fun x =>
      match x.1.2.1 with
      | .mem pa => some (x.1.1, pa, x.1.2.2)
      | _ => none
  | _ => []
def LEnt.farNeed (e : LEnt) : List (Nat × Nat) := (e.memNeed.filter fun x => paClass x.2.1 != 0).map fun x => (x.1, x.2.1)
/-- The ResultLabel of a load's word (R198). -/
def LEnt.lab (e : LEnt) : Label :=
  match e.kind with
  | .load _ _ d => d.lab | _ => 0
/-- The virtual address of a byte from its page key. -/
def keyVa (g pa : Nat) : Nat := g / 2 ^ 20 * 4096 + pa % 4096

/-- The steps of a tile as its failing operands now stand (R129). -/
def Run.refault (r : Run) : Run :=
  let kr := ((r.cmd.again.bind (·.counts)).map (·.1)).getD 0
  if !r.began then r
  else
    let f := r.firstFault kr
    { r with due := f, stopA := r.stops kr 0 r.t.m f, stopB := r.stops kr 1 r.t.n f }

/-- A load whose word traps as it performs: the word has had no effect. -/
def State.loadTrap (s : State) (st : Stream) (e : LEnt) (dst : LDst) (cause : Nat) (tval : W64) (lab : Label) : State :=
  let s := s.withdrawWord st e.id dst.reg dst.back
  s.trapAt st cause tval (s.pc st) (Label.join dst.lab lab) false

/-- A load that finds its far home out of reach (R267, R270): the bad-frame fault at its word, or at the operand element. Log 15: DEDUCED. -/
def State.farFault (s : State) (st : Stream) (e : LEnt) (g pa : Nat) : State :=
  match e.kind with
  | .load _ _ (.operand side row off) =>
    let o := ((s.core.run.map fun r => r.op side).getD default)
    let va := ((o.va.getD row 0) + BitVec.ofNat 64 off).toNat
    let n := match e.kind with | .load need .. => need.length | _ => 0
    let bad := List.replicate n (OpByte.fault (cBadFrame (s.leafLevel (if side = 0 then .matA else .matB) va)))
    s.modCore fun k => { k with
      run := k.run.map fun r => (r.arrive side row off bad).refault
      m := { k.m with lq := k.m.lq.filter fun x => !(x.id == e.id && x.seq == e.seq) } }
  | .load _ _ dst =>
    let va := keyVa g pa
    s.loadTrap st e dst (cBadFrame (s.leafLevel (match st with | .c => .c | _ => .aLoad) va)) (BitVec.ofNat 64 va) 0
  | _ => s

/-- Every set is interned, or the table cannot (R194, R247). -/
def State.internAll (s : State) : List Label → Option State
  | [] => some s
  | l :: r => if s.canIntern l then State.internAll (s.intern l) r else none

/-- The sets that the bytes of a load give its results where their frames have label `l` (R110, R203, R277). -/
def State.landLabs (s : State) (st : Stream) (e : LEnt) (l : Label) : List Label :=
  match e.kind with
  | .load _ _ (.operand ..) =>
    (s.core.run.toList.map fun r => Label.join r.lab l) ++
      s.core.run.toList.filterMap fun r => if r.began then some (Label.join (s.core.plane r.t.plane).lab l) else none
  | .load _ _ (.copy _) => ((s.strm st).sq.filter fun x => x.id == e.id).map fun x => Label.join x.lab l
  | .load _ _ .landing => (s.core.landings.filter fun x => x.id == e.id).map fun x => Label.join x.lab l
  | .load _ _ dst => [(dst.join l).lab]
  | _ => []
/-- The label of bytes that arrive joins that of their load: a frame's label is the one that it has then (R203, R277). -/
def State.landLab (s : State) (st : Stream) (e : LEnt) (l : Label) : State :=
  match e.kind with
  | .load need got dst =>
    let s := s.modStrm st fun t => { t with
      lq := t.lq.map fun x => if x.id = e.id && x.seq = e.seq then { e with kind := .load need got (dst.join l) } else x
      sq := t.sq.map fun x => if x.id = e.id then { x with lab := Label.join x.lab l } else x }
    match dst, s.core.run with
    | .operand .., some r =>
      let s := s.modCore fun k => { k with run := some { r with lab := Label.join r.lab l } }
      if r.began then s.modPlane r.t.plane fun o => { o with lab := Label.join o.lab l } else s
    | .landing, _ =>
      s.modCore fun k => { k with landings := k.landings.map fun x => if x.id = e.id then { x with lab := Label.join x.lab l } else x }
    | _, _ => s
  | _ => s
/-- The state in which the bytes that a load reads now have their labels, none where the table has no entry for one (R194, R203). The load
keeps the labels that its frames had at its issue. Log 17: DEDUCED. -/
def State.arrive (s : State) (st : Stream) (e : LEnt) : Option State :=
  let l := Label.joins ((e.memNeed.map fun x => frameOf x.2.1).dedup.map fun f => s.readLab (4096 * f))
  match s.internAll ((s.landLabs st e l).filter fun m => (s.handle? m).isNone) with
  | some s' => some (if l = 0 then s' else s'.landLab st e l)
  | none => none

/-- A word at system scope has performed: a refused write of its stream is reported (R209, R214). `was` is the stream before it did, `lab`
the ResultLabel of its word. -/
def State.reported (s : State) (st : Stream) (sy : Bool) (seq : Nat) (lab : Label) (was : Strm) : State :=
  let t := s.strm st
  if sy && !(t.lq.any fun e => e.seq == seq) && !t.sq.any fun e => e.seq == seq then s.egressTrap st lab was.ahead else s

/-- The head load has read its bytes and there is room, but its slots' segments do not take the label: the trap of a publish (R149, R201). -/
def State.publishTrap (s : State) (st : Stream) (e : LEnt) : State :=
  match e.kind with
  | .load need got dst =>
    match dst.fills with
    | some (r, c, n) =>
      let g := (s.core.ring r).under c
      if loadGroups need got = [] && (s.strm st).lq.any (fun x => x.id == e.id && x.seq == e.seq) && g.valid &&
          decide (g.used + n ≤ g.count) && !s.slotsAllow { g with wrote := [] } g.claimed.toNat n dst.lab then
        s.loadTrap st e dst 0x0020 (BitVec.ofNat 64 r) 0
      else s
    | none => s
  | _ => s

/-- A byte that the load is about to read is uncorrectable, and its consumer takes the trap (R157); a gather that substitutes zeros and the
array take none. -/
def State.badNeed (s : State) (st : Stream) (e : LEnt) : Option Nat :=
  match e.kind with
  | .load _ _ (.operand ..) => none
  | .load _ _ (.rows _ _ _ _ _ true) => none
  | .load need got _ =>
    (((need.zip got).find? fun x => x.2.isNone && s.byteBad st e.seq e.acq.isSome x.1.2.1 x.1.2.2)).map fun x =>
      match x.1.2.1 with | .mem pa => keyVa x.1.1 pa | .scr _ a => a
  | _ => none

/-- LOAD_PERFORM, far bytes included (R149, R157, R166, R170, R194, R203, R209, R267). -/
def State.loadPerform (s : State) (st : Stream) (page : Nat) (install : Bool) : State :=
  match (s.strm st).lqHead with
  | none => s
  | some e =>
    let trap := fun (cause va : Nat) (lab : Label) => match e.kind with
      | .load _ _ (.operand ..) => match s.core.run with
        | some r => s.tileTrap r.cmd false cause 0 (Label.join r.lab lab)
        | none => s
      | .load _ _ dst => s.loadTrap st e dst cause (BitVec.ofNat 64 va) lab
      | _ => s
    if (s.strm st).loadHeld e.seq then s
    else if e.farNeed != [] && s.viral then s
    else match e.farNeed.find? fun x => !s.farOk x.2 with
      | some x => s.farFault st e x.1 x.2
      | none =>
        match s.badNeed st e with
        | some va => trap 0x0014 va 0
        | none =>
          match s.arrive st e with
          | some s1 =>
            let e1 := ((s1.strm st).lqHead).getD e
            let s2 := (s1.loadStep st page install).reported st (e.acq == some .sy) e.seq e1.lab (s.strm st)
            s2.publishTrap st (((s2.strm st).lq.find? fun x => x.id == e.id && x.seq == e.seq).getD e1)
          | none => trap 0x0022 0 (Label.joins ((e.memNeed.map fun x => frameOf x.2.1).dedup.map fun f => s.readLab (4096 * f)))

/-- STORE_PERFORM (R167, R209). -/
def State.storePerform (s : State) (st : Stream) (grans : List Nat) : State :=
  match (s.strm st).sqHead with
  | some e =>
    match e.kind with
    | .store _ _ _ rel _ => (s.storeStep st grans).reported st (rel == some .sy) e.seq e.lab (s.strm st)
    | _ => s
  | none => s

/-- ATOMIC_PERFORM (R169, R209, R270). -/
def State.atomicPerform (s : State) (st : Stream) : State :=
  match (s.strm st).sqHead with
  | some e =>
    match e.kind with
    | .atomic (.amo (.mem pa) sz op expect v d lab sc va) =>
      let trap := fun (cause : Nat) (tval : W64) (l : Label) =>
        let s := s.withdrawWord st e.id (some d) none
        s.trapAt st cause tval (s.pc st) l false
      let l := Label.join lab (s.readLab pa)
      if !(s.strm st).atomReady e then s
      else if paClass pa != 0 && !s.farOk pa then trap (cBadFrame (s.leafLevel .c va.toNat)) va lab
      else if paClass pa != 0 && s.viral then s
      else if paClass pa = 0 && s.poison.contains (lineOf pa) then trap 0x0014 va lab
      else if !s.canIntern l then trap 0x0022 0 l
      else
        let e' := { e with kind := .atomic (.amo (.mem pa) sz op expect v d l sc va) }
        let s1 := (s.intern l).modStrm st fun t => { t with sq := t.sq.map fun x => if x.id = e.id && x.seq = e.seq then e' else x }
        (s1.atomicStep st).reported st (sc == .sy) e.seq l (s.strm st)
    | .atomic _ => s.atomicStep st
    | _ => s
  | none => s

/-- FENCE_MARKER_PERFORM (R172, R209, R390). -/
def State.fencePerform (s : State) (st : Stream) (n : Nat) : State :=
  let ms := (s.strm st).lq.filter fun e => match e.kind with | .fence .. => true | .qalign => true | _ => false
  match ms[n % ms.length]? with
  | some e =>
    let sy := match e.kind with | .fence _ sc => sc == .sy | _ => false
    (s.markerStep st n).reported st sy e.seq 0 (s.strm st)
  | none => s

/-- A store-queue head whose stores leave for the posted set, a release at system scope among them (R170, R209). -/
def State.postedLeave (s : State) (st : Stream) : State :=
  match (s.strm st).sqHead with
  | some e =>
    match e.kind with
    | .store _ _ _ rel _ => (s.leaveStep st).reported st (rel == some .sy) e.seq e.lab (s.strm st)
    | _ => s
  | none => s

/-! ### Steps of the streams -/

/-- STITCH_ISSUE (R21): every stream of the stitch waits at a marked word, and they are released together. -/
def State.stitchIssue (s : State) : State :=
  let ps := s.core.stitchers
  if 2 ≤ ps.length && ps.all fun u => (s.strm u).stitch == .waiting then
    match s.stitch with
    | .ok s => s
    | .error _ => s
  else s

/-- HOLD_OVERRUN (R26): a region that has stood for 256 clocks traps at the stream's next word, except where that word is the LCWAIT that
opens a body (R226). Log 33: DEDUCED. -/
def State.holdOverrun (s : State) (st : Stream) : State :=
  let t := s.strm st
  match t.hold with
  | some h =>
    if Config.holdLimit ≤ s.clk - h.start && !t.barred && h.wait.isNone && !(st == .c && h.first && s.core.lace.st == .submitted) &&
        !s.olderMay st then
      s.takeTrap st 0x0007 h.addr 0
    else s
  | none => s


/-! ### Errors that the memories find (R157, R260, R263) -/

/-- The name of a unit (R260). -/
def unitName (die cluster core sub index : Nat) : Nat := die * 2 ^ 28 + cluster * 2 ^ 24 + core * 2 ^ 19 + sub * 2 ^ 12 + index
/-- The name of the pseudo-channel of a device address. -/
def channelUnit (pa : Nat) : Nat := unitName (homeDie pa) 15 31 0x12 (channelOf pa)
/-- An error that a memory finds as it is read: its record and what it leaves (R157, R256, R259, R263). A unit is found uncorrectable
while no access in flight needs it. Log 16: DEDUCED. -/
def State.eccEvent (s : State) : Option Ecc → State
  | none => s
  | some (.hbmCorrected pa symbol) =>
    if deviceOk pa then s.errRec 0x0101 0 0 (channelUnit pa) (BitVec.ofNat 64 pa) (BitVec.ofNat 64 symbol) else s
  | some (.hbmUncorrectable pa) =>
    if deviceOk pa && !s.unitInUse (lineOf pa) then
      (s.poisonUnit (lineOf pa)).errRec 0x0102 1 0 (channelUnit pa) (BitVec.ofNat 64 pa) 0
    else s
  | some (.sramCorrected unit) => s.errRec 0x0105 0 0 unit (BitVec.ofNat 64 (unit % 2 ^ 12)) 0
  | some (.scratchLine c line) =>
    if c < 1024 && line < Config.scratchBytes / 64 then
      s.mapCore c fun k => { k with scrBad := line :: k.scrBad.filter (· != line) }
    else s
  | some (.labelEntry h) =>
    if s.labels.any fun e => e.1 == h then s.errRec 0x0701 2 0 0 (BitVec.ofNat 64 h) 0 else s
  | some (.insoleState unit) => s.errRec 0x0703 2 0 0 (BitVec.ofNat 64 unit) 0
  | some (.frameTag pa) => if deviceOk pa then s.errRec 0x0704 2 0 0 (BitVec.ofNat 64 pa) 0 else s

/-! ### Fault mailboxes (R253) -/

def State.mailboxOf (s : State) (f : Nat) : Mailbox := (s.mailboxes.find? fun m => m.func == f).getD ⟨f, [], 0, 0⟩
def State.setMailbox (s : State) (m : Mailbox) : State := { s with mailboxes := m :: s.mailboxes.filter fun x => x.func != m.func }

/-- A mailbox with 64 records that its owner has not consumed takes no more (R253). -/
def State.mailFull (s : State) (f : Nat) : Bool :=
  let m := s.mailboxOf f
  decide (64 ≤ (m.tail + 2 ^ 32 - m.head) % 2 ^ 32)
/-- A record enters a mailbox: record `n` at slot `n mod 64`, and FMTAIL counts it. -/
def State.mailPut (s : State) (f : Nat) (r : MailRec) : State :=
  let m := s.mailboxOf f
  (s.setMailbox { m with
    recs := (m.tail % 64, r) :: m.recs.filter fun x => x.1 != m.tail % 64
    tail := (m.tail + 1) % 2 ^ 32 }).wakeDies (List.range 8)

/-- MAILBOX_RECORD_POST (R253): the oldest record that the hub holds for a mailbox with room is posted; with none, a stop on the service path
posts its own when its mailbox has room. Log 61: DEDUCED. -/
def State.mailboxPost (s : State) (st : Stream) : State :=
  match s.hubRecs.find? fun x => !s.mailFull x.1 with
  | some x => { s with hubRecs := s.hubRecs.erase x }.mailPut x.1 x.2
  | none =>
    let f := s.core.func
    if (s.strm st).stop != .held || s.mailFull f then s
    else
      let n := s.newTicket
      ({ s with tickets := n }.mailPut f (s.mailRec st n)).modStrm st fun t => { t with stop := .posted n }

/-! ### Inbound writes and completions (R208, R259, R268, R269) -/

/-- The label of an inbound write and the function that its record names. -/
def originLabel (s : State) : Origin → Label × Nat
  | .func f => (s.funcLab f, f)
  | .outsider slot => (Label.ofSlot slot, 0)
  | .domain l => (l, 0)

/-- A frame of the range that a bulk write replaces; no copy of its lines stays. Log 52: DEDUCED. -/
def State.zeroFrame (s : State) (f : Nat) : State :=
  let s := s.placeBytes (4096 * f) (List.replicate 4096 0)
  { s with poison := s.poison.filter fun u => u / 64 != f }
/-- A frame has been zeroed; one without an owner has the empty label from now on. -/
def State.zeroTagged (s : State) (t : Tag) : State :=
  (s.zeroFrame t.frame).setTag { t with lab := if t.owner.isNone then 0 else t.lab, zeroing := false }
/-- The bytes of frames that wait to be zeroed are cleared before an access from outside reaches them (R206). -/
def State.zeroFirst (s : State) (pa n : Nat) : State :=
  ((List.range n).map fun i => frameOf (pa + i)).dedup.foldl (fun s f =>
    if (s.tagOf (4096 * f)).zeroing then s.zeroTagged (s.tagOf (4096 * f)) else s) s

/-- INBOUND_WRITE (R208, R269): checked against its destination frames at the hub, and written at the home. A label that comes with a write
of the domain is interned on arrival (R207); with the table full it is held without an entry. Log 98: DESIGN CHOICE. -/
def State.inboundWrite (s : State) (o : Origin) (pa : Nat) (bs : List Byte) : State :=
  let x := originLabel s o
  let n := bs.length
  if s.viral || n = 0 || (match o with | .func f => s.tdiError f | _ => false) then s
  else
    let s := if s.canIntern x.1 then s.intern x.1 else s
    if !s.rangeOk pa n then
      match o with
      | .func _ => { s.dropInbound x.2 pa n with reply := .unsupported }
      | _ => s.dropInbound x.2 pa n
    else if !s.framesAllow x.1 ((List.range n).map (pa + ·)) then s.dropInbound x.2 pa n
    else
      let ls := (List.range n).map fun i => Loc.mem (pa + i)
      let s := s.zeroFirst pa n
      { s with mem := memPut s.mem pa bs, poison := s.poison.filter fun u => !(wholeUnits ls).contains u }
def execInboundWrite (o : Origin) (pa : Nat) (bs : List Byte) (s : State) := s.service fun s => s.inboundWrite o pa bs

/-- BAR2_READ (R259, R268, R269): the completion is classed with the requesting function as its destination; mixed labels are refused. Log 67: DEDUCED. -/
def State.bar2Read (s : State) (func off len : Nat) : State :=
  let s := if s.rangeOk off len then s.zeroFirst off len else s
  let lab := Label.joins (((List.range len).map fun i => frameOf (off + i)).dedup.map fun f => s.frameLab (4096 * f))
  let r : Reply :=
    if s.viral || s.tdiError func || len = 0 || !s.rangeOk off len then .unsupported
    else if lab = 0 || (Label.count lab == 1 && lab == s.funcLab func) then .data (memBytes s.mem off len)
    else .completerAbort
  { s with reply := r }
def execBar2Read (func off len : Nat) (s : State) := s.service fun s => s.bar2Read func off len

end Sys2Proof.Machine
end

