-- ==== Sys2Proof/Machine/Task.lean ====
section
/-! DEFINITION. How a task ends, is pre-empted and is restored; the words STEND, WFE, YIELD, TASKEND and LAUNCH; the steps of a core's
queues, streams and engines as the module takes them; FMRESUME, the heel checker and the beat (R17 to R22, R26, R105, R127, R192, R221,
R229, R238, R243, R245 to R248, R252, R253, R258, R272, R318, R350, R352, R383, R385). -/

namespace Sys2Proof.Machine
open Sys2Proof

/-! ### At rest (R245, R352) -/

/-- Nothing of a stream is left in its queues. -/
def Strm.atRest (t : Strm) : Bool := t.lq.isEmpty && t.sq.isEmpty && t.posted.isEmpty
/-- The landing operations, the DACC entry and the publishes of a core are done. -/
def Core.sideRest (k : Core) : Bool :=
  k.landings.isEmpty && k.dacc.isNone && k.rings.toList.all fun g => g.publishes.isEmpty
/-- Every access of the task has performed, and its posted sets are empty. -/
def Core.queuesRest (k : Core) : Bool := (streams.all fun st => (k.strm st).atRest) && k.sideRest
/-- The array has nothing to do. -/
def Core.arrayRest (k : Core) : Bool :=
  k.fifo.isEmpty && k.mgo.isNone && k.run.isNone && k.drains.isEmpty && k.plane0.fin.isNone && k.plane1.fin.isNone && k.ragged.isNone

/-- A ring slot that no step will free: an import or local ring, or an export ring whose peer has gone. Log 44: DESIGN CHOICE. -/
def State.closedRing (s : State) (g : Ring) : Bool := g.mode != 2 || (s.launchCore g.peerCore).isNone
/-- The head load of the A-stream has read its bytes and waits for a ring slot. Log 48: DEDUCED. -/
def State.stuckLoad (s : State) : Option LEnt :=
  match s.core.a.lqHead with
  | some e =>
    match e.kind with
    | .load need got dst =>
      if loadGroups need got = [] && !s.core.a.loadHeld e.seq && (s.finishLoad .a e (got.map fun b => b.getD 0) dst).isNone then some e
      else none
    | _ => none
  | none => none
def LDst.ring : LDst → Option Nat
  | .slot r .. => some r | .rows r .. => some r | _ => none
/-- The oldest drain waits for a slot of its ring. -/
def State.stuckDrain (s : State) : Option Drain :=
  match s.core.drains with
  | d :: _ =>
    match d.dst with
    | .ring g => if !d.began && (s.core.ring g).count < (s.core.ring g).used + 1 then some d else none
    | .mem .. => none
  | [] => none

/-! ### The end of a task (R127, R206, R233, R253, R258, R352) -/

/-- Accepted commands that have not started leave the array (R352). A command that runs again has started. Log 62: DEDUCED. -/
def Core.dropUnstarted (k : Core) : Core :=
  let gone := (k.fifo.filter fun c => c.again.isNone).map (·.id)
  { k with
    fifo := k.fifo.filter fun c => c.again.isSome
    m := { k.m with infl := k.m.infl.filter fun i => !gone.contains i.id } }

/-- Steps 2 and 3 of R352: the lace slot is emptied or abandoned, the other streams stop, their regions close, pending vector writes land. Log 62: DEDUCED. -/
def State.beginEnd (s : State) : State :=
  let s := s.withdraw.abandonLace.leaveLace
  let s := streams.foldl State.closeHold s
  s.landPending.modCore fun k => { k.dropUnstarted with vrows := [], ending := true }

/-- A load that waits for a ring slot which nothing will free. Log 44: DESIGN CHOICE. -/
def State.dropLoad (s : State) : State :=
  match s.stuckLoad with
  | some e =>
    match e.kind with
    | .load _ _ dst =>
      if s.core.landings.isEmpty && !(s.core.run.any (·.began)) && (dst.ring.any fun r => s.closedRing (s.core.ring r)) then
        (s.modStrm .a fun t => { t with lq := t.lq.filter fun x => !(x.id == e.id && x.seq == e.seq) }).settleWord .a e.id
      else s
    | _ => s
  | none => s
/-- A tile that waits for ring slots, with the MGO it belongs to, once no load of the A-stream is left to fill them. Log 44: DESIGN CHOICE. -/
def State.dropWait (s : State) : State :=
  match s.core.run with
  | some r =>
    if !r.began && s.core.a.lq.isEmpty && s.core.a.sq.isEmpty && s.core.landings.isEmpty then
      (s.modCore fun k => { k with
        run := none, mgo := none, m := { k.m with lq := k.m.lq.filter fun e => e.id != r.cmd.id } }).settleWord .m r.cmd.id
    else s
  | none => s
/-- Log 44: DESIGN CHOICE. -/
def State.dropDrain (s : State) : State :=
  match s.stuckDrain with
  | some d =>
    match d.dst with
    | .ring g =>
      if s.core.landings.isEmpty && !(s.core.run.any (·.began)) && s.closedRing (s.core.ring g) then
        (s.modCore fun k => { k with drains := k.drains.drop 1 }).settleWord .m d.id
      else s
    | .mem .. => s
  | none => s
/-- What waits for a slot that can come no more is dropped with the rings themselves (log entry 44). Log 44: DESIGN CHOICE. -/
def State.dropStuck (s : State) : State := s.dropLoad.dropDrain.dropWait

/-- The task of the core in focus leaves it, and the hand-off welt passes (R127): the core's state is zeroed (R206), its caches stay. A task that
the heel checker ended keeps its last image for a restart (R258). Log 57: DEDUCED. -/
def State.endTask (s : State) : State :=
  let s := s.fileStops
  let k := s.core
  match k.task with
  | none => s
  | some t =>
    let mine := fun (i : Image) => i.kern == t.kern && i.taskidx == t.idx
    let images := if k.killed = some true then
        s.images.map fun i => if mine i then { i with ended := true, live := true } else i
      else s.images.filter fun i => !mine i
    let s := s.noteCharge k
    let fresh := { Core.reset k.id with l1 := k.l1, pref := k.pref, utlb := k.utlb, l2tlb := k.l2tlb, walks := k.walks }
    { s with images := images, core := fresh }.endGraph t.queue

/-- The last of four streams has executed STEND (R350). Log 63: DEDUCED. -/
def Core.allEnded (k : Core) : Bool := k.task.isSome && streams.all fun st => (k.strm st).ended && (k.strm st).infl.isEmpty
/-- A task that ends from outside, or whose streams have all ended, ends once its accesses have performed. Log 63: DEDUCED. -/
def State.tidy (s : State) : State :=
  let s := if s.core.ending then s.dropStuck else s
  if (s.core.killed.isSome || s.core.allEnded) && s.core.queuesRest && s.core.arrayRest then s.endTask else s

/-- Ends the focus core's task from outside. Log 62: DEDUCED. -/
def State.killTask (s : State) (keepImage : Bool) : State :=
  (s.beginEnd.modCore fun k => { k with killed := some keepImage }).tidy

/-! ### STEND, WFE, YIELD, TASKEND -/

/-- STEND waits until every older word of its stream has retired; the stream then fetches nothing more (R350). A stop of another
stream that was to go to an ended C-stream goes to the service path (R252). Inside a loop's body it is illegal (R367). Log 63: DEDUCED. -/
def stendBody (st : Stream) : Body := fun s =>
  let t := s.strm st
  if st == .v && s.core.inBody then .error .illegal
  else if !t.infl.isEmpty || (st == .v && !s.core.landings.isEmpty) then .error .stall
  else
    let s := if st = .c then s.abandonLace else s
    let s := s.closeHold st
    let s := s.modStrm st fun t => { t with ended := true }
    let s := if st = .c then
        streams.foldl (fun s u => s.modStrm u fun t => if t.stop = .delegated then { t with stop := .held } else t) s
      else s
    .ok (After.of s)
/-- What follows a word. -/
def tidied : Host.Outcome State Fault Refusal → Host.Outcome State Fault Refusal
  | .next s => .next s.tidy
  | o => o
def execStend (st : Stream) (h : Hdr) (s : State) := tidied (runWord (.stend st h) st h (stendBody st) s)

/-- WFE (R383). -/
def wfeBody : Body := fun s =>
  if s.core.latch then .ok (After.of (s.modCore fun k => { k with latch := false })) else .error .stall
def execWfe (h : Hdr) (s : State) := runWord (.wfe h) .c h wfeBody s

/-- A task of kernel `k` waits for a core of die `d` (R385). -/
def State.waitsForCore (s : State) (k : Kern) (d : Nat) : Bool :=
  match s.mayIssue k d, s.binding (s.kernPart k) d (s.usedClusters k) with
  | true, some i =>
    let n := (s.kernImg k).tasks 1
    let q := s.kernQ k
    (List.range (min n q)).any fun lc =>
      !s.coreFree (bindCore d i lc) && ((List.range ((n - lc + q - 1) / q)).any fun w => !k.waves.contains (d, lc + w * q))
  | _, _ => false
/-- YIELD gives up the core only where a wave of another kernel of the partition waits for one on this die. -/
def State.yields (s : State) : Bool :=
  let k := s.core
  match k.task with
  | none => false
  | some t =>
    !k.dispatch && (streams.all fun st => (k.strm st).hold.isNone) && (k.lace.st == .idle || k.lace.st == .declaring) &&
      s.kerns.any fun x => x.id != t.kern && s.kernPart x == t.part && s.waitsForCore x (coreDie k.id)
/-- YIELD (R385): a pre-emption at the next word with KEEP = 0, or a NOP. -/
def yieldBody : Body := fun s =>
  .ok (After.of (if s.yields then s.modCore (Core.requestPreempt false) else s))
def execYield (h : Hdr) (s : State) := runWord (.yield h) .c h yieldBody s

/-- The first refused write of the lowest stream that has one (R209, R352). -/
def Core.firstRefused (k : Core) : Option (Nat × W64) := streams.findSome? fun st => (k.strm st).refused.head?
/-- Step 5 of R352: one trap reports every refusal of the task. Log 24: DEDUCED. -/
def State.endRefused (s : State) (va : W64) : State :=
  let s := streams.foldl (fun s st => s.modStrm st fun t => { t with refused := [] }) s
  s.takeTrap .c 0x0021 va 0

/-- TASKEND (R352). It stands at the head of its stream until what it began is done. On a dispatch core it is WFE. Log 64: DEDUCED. -/
def execTaskend (h : Hdr) (s : State) : Host.Outcome State Fault Refusal :=
  match issue (.taskend h) .c h s with
  | .go s1 =>
    if s1.core.dispatch then runWord (.taskend h) .c h wfeBody s
    else if !s1.core.c.infl.isEmpty then .next s.tick
    else
      let b := s.beginEnd.dropStuck
      let b1 := s1.beginEnd.dropStuck
      if !(b.core.queuesRest && b.core.arrayRest) then .next b.tick
      else match b.core.firstRefused with
        | some r => .next (b.endRefused r.2).tick
        | none => .next (finish (.taskend h) .c h s1 (After.of b1)).endTask
  | _ => runWord (.taskend h) .c h wfeBody s

/-! ### The context image (R105, R128, R135, R141, R245, R246) -/

/-- The M-stream's part of the image of a tile in flight: its clean welt. The command runs again from the counts of the map. Log 97: DEDUCED. -/
def State.cutRun (s : State) (r : Run) (w : Welt) : Core :=
  let k := s.core
  let c : Cmd := { r.cmd with again := some ⟨r.fmt, r.flab, r.slots, some (w.kr, w.map), r.cmd.again.bind (·.replay), some r.t, true, []⟩ }
  let o := (k.plane r.t.plane).inject w
  let entry : Kept := ⟨{ c with again := none }, r.fmt, r.flab, r.slots, false, none, some (o.acc, w.kr, w.map), r.t⟩
  let k := k.setPlane r.t.plane { o with
    lab := w.plab, wm := 0, dirty := true, m := w.m, n := w.n, fin := none, win := [entry], used := w.replay }
  { k with
    run := none, fifo := c :: k.fifo, csr := { k.csr with weltstat := w.stat false }.joinLab .weltstat k.m.clab
    m := { k.m with lq := k.m.lq.filter fun e => e.id != r.cmd.id } }
/-- The clean welt of the tile in flight, for an image: the state in which it stands even, the tile and the cut (R128, R245). -/
def State.imageCut (s : State) : Option (State × Run × Welt) :=
  s.flight.map fun x =>
    let y := x.1.evenOut x.2
    (y.1, y.2, y.1.weltOf y.2 false y.2.due)
/-- Where a cut tile's plane, slot and label stand in the image. -/
def Welt.note (w : Welt) : Bool × Option (Fin 8) × Label :=
  (w.plane, if w.mgo then some (Fin.ofNat 8 w.slot) else none, Label.join w.plab w.xlab)

/-- The core as its image holds it (R245, R246): the array cut, live slots of rings alone labelled, the scratchpad left out when it is parked. -/
def State.imageCore (s : State) (keep : Bool) : Core × Option (Bool × Option (Fin 8) × Label) :=
  let x := match s.imageCut with
    | some y => (y.1.cutRun y.2.1 y.2.2, some y.2.2.note)
    | none => (s.core, none)
  let k := x.1
  let live := fun (g : Ring) => (List.range g.ready).map fun j => g.slotIx (g.freed.toNat + j)
  ({ k with
      rings := k.rings.map fun g => { g with slotLab := g.slotLab.filter fun e => (live g).contains e.1 }
      scratch := if keep then [] else k.scratch
      lace := { k.lace with tiles := k.lace.tiles.map fun t => { t with pa := 0 } }
      l1 := [], pref := [], utlb := [], l2tlb := [], walks := [] }, x.2)

/-- The A-stream has nothing left but words whose claim waits for room, and what stands behind them (R245). Log 48: DEDUCED. -/
def State.aRest (s : State) : Bool :=
  let t := s.core.a
  t.atRest || (s.stuckLoad.isSome && t.posted.isEmpty && match t.sqHead with
    | none => true
    | some e =>
      t.storeHeld e.seq || match e.kind with
        | .store b ready _ rel _ => !ready || !t.clearOf e.seq b || rel.any fun sc => !t.mayRelease e.seq sc
        | _ => true)
/-- The array has nothing under way but the tile in flight, and drains that wait for a ring slot. -/
def State.mRest (s : State) : Bool :=
  let k := s.core
  k.m.sq.isEmpty && k.m.posted.isEmpty && (k.m.lq.all fun e => k.run.any fun r => r.cmd.id == e.id) &&
    k.plane0.fin.isNone && k.plane1.fin.isNone && k.ragged.isNone && (k.drains.isEmpty || s.stuckDrain.isSome)

/-! ### The frames of a context image (R246) -/

/-- Pages of the context area that a task has, and the number of a task in its registration. Log 20: DESIGN CHOICE. -/
def ctxPages : Nat := 256
def taskNo (g : GraphReg) (node idx : Nat) : Nat :=
  ((List.range node).map fun i => (g.image i).tasks 1 * (g.image i).tasks 2).sum + idx
/-- The address of an offset of a task's image; none where the context area has no frame for it. Log 20: DESIGN CHOICE. -/
def State.ctxAddr (s : State) (t : Task) (off : Nat) : Option Nat :=
  (s.graphOf t.graph).bind fun g => (g.reg.ctxFrames[ctxPages * taskNo g.reg t.node t.idx + off / 4096]?).map fun f => 4096 * f + off % 4096
/-- Bytes of an image from a page's start. -/
def State.ctxPut (s : State) (t : Task) (off : Nat) (bs : List Byte) : State :=
  (List.range ((bs.length + 4095) / 4096)).foldl (fun s i =>
    match s.ctxAddr t (off + 4096 * i) with
    | some pa => s.placeBytes pa ((bs.drop (4096 * i)).take 4096)
    | none => s) s
def State.ctxGet (s : State) (t : Task) (off n : Nat) : Option (List Byte) :=
  (List.range ((n + 4095) / 4096)).foldl (fun (r : Option (List Byte)) i =>
    match r, s.ctxAddr t (off + 4096 * i) with
    | some bs, some pa => some (bs ++ memBytes s.mem pa (min 4096 (n - 4096 * i)))
    | _, _ => none) (some [])

/-- MAGIC and VERSION, at the start of the header. Log 20: DESIGN CHOICE. -/
def ctxHead : List Byte := [0x43, 0x58, 0x49, 0x31, 1]
def wordsBytes (l : List W32) : List Byte := l.flatMap fun x => natLe 4 x.toNat
/-- The parts of an image whose place and layout the spec gives are written to the task's frames: the header's MAGIC and VERSION, the nest
slots, the vector registers, the planes, of which the cut one holds zeros, and the cut (R132, R246). Log 20: DESIGN CHOICE. -/
def State.writeCtx (s : State) (t : Task) (k : Core) (w : Option Welt) : State :=
  let plane := fun (p : Bool) => if (w.any fun x => x.plane == p) then List.replicate 49152 0 else wordsBytes (k.plane p).acc.toList
  let s := s.ctxPut t 0 ctxHead
  let s := s.ctxPut t 0x3000 ((List.range 8).flatMap fun i =>
    nestBytes k.shadow[Fin.ofNat 8 i] ++ nestBytes k.active[Fin.ofNat 8 i])
  let s := s.ctxPut t 0x6000 (k.vr.toList.flatMap fun v => wordsBytes v.e.toList)
  let s := s.ctxPut t 0x26000 (plane false ++ plane true)
  match w with
  | some w => s.ctxPut t 0x3E000 w.bytes
  | none => s

/-- The words of a vector of 32-bit words at an offset. -/
def wordAtOff (bs : List Byte) (off : Nat) : W32 := BitVec.ofNat 32 (fieldAt bs off 4)
/-- The accumulators of the cut plane, and the counts from which its tile runs again, as the image's cut gives them (R138, R247). -/
def Core.loadCut (k : Core) (w : Welt) : Core :=
  let o := (k.plane w.plane).inject w
  let k := k.setPlane w.plane { o with win := o.win.map fun e => { e with ctx := e.ctx.map fun _ => (o.acc, w.kr, w.map) } }
  match k.fifo with
  | c :: r => { k with fifo := { c with again := c.again.map fun a => { a with counts := a.counts.map fun _ => (w.kr, w.map) } } :: r }
  | [] => k
/-- The core of an image, with what stands in its frames now (R247). Log 20: DESIGN CHOICE. -/
def State.readCtx (s : State) (im : Image) : Core :=
  let k := im.core
  match k.task with
  | none => k
  | some t =>
    match s.ctxGet t 0x3000 0x2000, s.ctxGet t 0x6000 0x20000, s.ctxGet t 0x26000 0x18000 with
    | some nb, some vb, some pb =>
      let nest := fun (n : Nest) (off : Nat) => ({ n with f := Vector.ofFn fun (i : Fin 51) => BitVec.ofNat 64 (fieldAt nb (off + 8 * i.val) 8) } : Nest)
      let acc := fun (off : Nat) => (Vector.ofFn fun (i : Fin 12288) => wordAtOff pb (off + 4 * i.val) : Vector W32 12288)
      let k := { k with
        shadow := Vector.ofFn fun (i : Fin 8) => nest k.shadow[i] (1024 * i.val)
        active := Vector.ofFn fun (i : Fin 8) => nest k.active[i] (1024 * i.val + 512)
        vr := Vector.ofFn fun (i : Fin 32) =>
          { k.vr[i] with e := Vector.ofFn fun (j : Fin 1024) => wordAtOff vb (4096 * i.val + 4 * j.val) }
        plane0 := { k.plane0 with acc := acc 0 }, plane1 := { k.plane1 with acc := acc 49152 } }
      match im.cut, s.ctxGet t 0x3E000 0x12800 with
      | some _, some wb => k.loadCut (Welt.read wb)
      | _, _ => k
    | _, _, _ => k
/-- The header of an image names its MAGIC and VERSION (R247, R248), and its cut is well formed. Log 20: DESIGN CHOICE. -/
def State.headOk (s : State) (im : Image) : Bool :=
  im.magic && match im.core.task with
    | none => true
    | some t =>
      ((s.ctxGet t 0 5).all fun b => b == ctxHead) &&
        (im.cut.isNone || (s.ctxGet t 0x3E000 0x12800).all fun b => weltHeadOk b && (Welt.read b).mapOk)

/-- PREEMPTION (R245): at its safe point the task withdraws a submission that waits for its beat, and leaves the core once its image is
complete. With KEEP the core keeps the scratchpad for it. Log 20: DESIGN CHOICE; log 61: DEDUCED; log 65: DEDUCED. -/
def State.preempt (s : State) : State :=
  if !s.core.atSafePoint then s
  else
    let s := s.withdraw
    let k := s.core
    match k.task with
    | none => s
    | some t =>
      if !(k.c.atRest && k.v.atRest && k.sideRest && s.aRest && s.mRest && (s.flight.all fun x => x.2.cutReady)) then s
      else
        let s := s.fileStops
        let k := s.core
        let x := s.imageCore t.keep
        let used := ((s.kern t.kern).map s.usedClusters).getD []
        let im : Image := ⟨t.queue, t.kern, t.idx, true, false, true, x.2, hopsOf used id, x.1⟩
        let s := (s.noteCharge k).writeCtx t x.1 (s.imageCut.map fun y => y.2.2)
        let fresh := { Core.reset k.id with l1 := s.core.l1, pref := k.pref, utlb := k.utlb, l2tlb := k.l2tlb, walks := k.walks }
        { s with
          images := im :: s.images.filter fun i => !(i.kern == t.kern && i.taskidx == t.idx)
          core := if t.keep then { fresh with parked := some (t.kern, t.idx), scratch := k.scratch, segLab := k.segLab, scrBad := k.scrBad }
            else fresh }

/-! ### Restore (R105, R138, R247, R248, R318) -/

def Loc.move (old new : Nat) : Loc → Loc
  | .scr c a => if c = old then .scr new a else .scr c a
  | l => l
/-- The waiting entries of a stream name scratchpad bytes of the core that they now stand on. Log 48: DEDUCED. -/
def Strm.move (old new : Nat) (t : Strm) : Strm :=
  { t with
    lq := t.lq.map fun e => match e.kind with
      | .load need got dst => { e with kind := .load (need.map fun x => (x.1, x.2.1.move old new, x.2.2)) got dst }
      | _ => e
    sq := t.sq.map fun e => match e.kind with
      | .store b r w rel wr => { e with kind := .store (b.map fun x => (x.1.move old new, x.2)) r w rel (wr.map (Loc.move old new)) }
      | _ => e }

/-- The labels of a stream, of a plane, of a drain. -/
def Strm.labels (t : Strm) : List Label := t.clab :: t.bank.lab :: (t.sq.map (·.lab)) ++ t.lq.map LEnt.lab
def Plane.labels (p : Plane) : List Label := p.lab :: p.win.flatMap fun e => [e.lab, e.cmd.lab, e.t.lab, e.t.nest.lab]
def Drain.labels (d : Drain) : List Label := d.lab :: match d.dst with | .mem _ _ l => [l] | .ring _ => []
def Cmd.labels (c : Cmd) : List Label := c.lab :: (c.again.toList.map (·.lab)) ++ match c.cmd with | .drain _ (.mem _ _ l) => [l] | _ => []
/-- Every label that an image holds (R246). -/
def Core.labels (k : Core) : List Label :=
  (streams.flatMap fun st => (k.strm st).labels) ++ k.tokLab.toList ++ (k.cqA ++ k.cqV ++ k.x.toList ++ k.ar.toList ++ k.fmtq ++ k.popped.toList).map (·.lab) ++
    k.vr.toList.map (·.lab) ++ k.ix.toList.map (·.2) ++ k.p.toList.map (·.2) ++ (k.em :: k.cm :: k.mstack).map (·.lab) ++
    k.csr.labs.map (·.2) ++ k.vpend.map (·.lab) ++ k.rings.toList.flatMap (fun g => g.slotLab.map (·.2) ++ g.wrote.map (·.2)) ++ k.segLab.toList ++
    (k.shadow.toList ++ k.active.toList).map (·.lab) ++ [k.cfg.lab, k.lace.lab] ++ k.plane0.labels ++ k.plane1.labels ++
    ((k.fifo ++ k.mgo.toList).flatMap Cmd.labels) ++ k.drains.flatMap Drain.labels

/-- The cut resumes as MRSTR resumes it (R138): the plane, the format words and the commands take the label L. Log 97: DEDUCED. -/
def Core.resumeCut (k : Core) (p : Bool) (slot : Option (Fin 8)) (l : Label) : Core :=
  let lab := Label.join l k.m.clab
  let k := match slot with
    | some n => { k with active := k.active.set n { k.active[n] with lab := lab } }
    | none => { k with cfg := { k.cfg with lab := lab } }
  let k := k.setPlane p { k.plane p with lab := lab }
  { k with fmtq := k.fmtq.map fun w => { w with lab := lab }, fifo := k.fifo.map fun c => { c with lab := Label.join c.lab lab } }

/-- A refused restore changes nothing but the record and the queue's ERR flag (R248). Log 59: DEDUCED. -/
def State.refuseRestore (s : State) (im : Image) (code func : Nat) : State :=
  (s.errRec code 1 func 0 (BitVec.ofNat 64 im.queue) (BitVec.ofNat 64 im.taskidx)).setErr im.queue

/-- The declared tiles of a DECLARING slot are translated again; a failure is a trap of the C-stream that empties the slot (R247). -/
def State.redeclare (s : State) : List LTile → State
  | [] => s
  | t :: r =>
    match s.translate .c t.va .rdwr with
    | .ok (s, pa, pol) =>
      State.redeclare (s.setLace fun l => { l with tiles := l.tiles.map fun x => if x.va = t.va then { x with pa := pa, polN := pol } else x }) r
    | .error x =>
      match x.halt t.va 0 with
      | .trap c v l => s.takeTrap .c c v l
      | .viral pa => s.ptePoison pa
      | _ => s

/-- The state of an image on its target core. Log 97: DEDUCED. -/
def Image.coreOn (im : Image) (k : Core) (old : Core) (hold : Label) : Core :=
  let k := match im.cut with
    | some c => k.resumeCut c.1 c.2.1 (Label.join c.2.2 hold)
    | none => k
  let keep := old.parked.isSome
  { k with
    id := old.id, dispatch := false, parked := none, ending := false, killed := none
    task := k.task.map fun t => { t with preempt := false, keep := false }
    a := k.a.move im.core.id old.id, v := k.v.move im.core.id old.id, m := k.m.move im.core.id old.id, c := k.c.move im.core.id old.id
    scratch := if keep then old.scratch else k.scratch
    segLab := if keep then old.segLab else k.segLab
    scrBad := if keep then old.scrBad else k.scrBad
    l1 := old.l1, pref := old.pref, utlb := old.utlb, l2tlb := old.l2tlb, walks := old.walks }

/-- The core that an image goes to: the one that keeps its scratchpad, else the one that R32 binds with the saved hop distances. Log 59: DEDUCED. -/
def State.restoreCore (s : State) (im : Image) : Option Nat :=
  match s.cores.find? fun c => c.parked == some (im.kern, im.taskidx) with
  | some c => some c.id
  | none =>
    match s.kern im.kern, im.core.task with
    | some k, some t =>
      let d := t.lcore / 128
      ((s.binding t.part d (s.usedClusters k)).filter fun i => hopsOf (s.usedClusters k) (symmetry i) == im.hops).map fun i =>
        bindCore d i (t.lcore % 128)
    | _, _ => none

/-- A restore (R247, R248): the state and the status of LAUNCH, or none while the core is taken. Log 20: DESIGN CHOICE; log 49: DEDUCED; log 58: DEDUCED; log 59: DEDUCED. -/
def State.restore (s : State) (im : Image) : Option (State × Nat) :=
  let func := im.core.func
  let hold := ((s.graphOf ((im.core.task.map (·.graph)).getD 0)).map (·.holds)).getD 0
  if !s.headOk im then some (s.refuseRestore im 0x0C02 func, 0x0C02)
  else match s.restoreCore im with
    | none => some (s.refuseRestore im 0x0C01 func, 0x0C01)
    | some pc =>
      let old := s.coreOf pc
      if old.task.isSome || s.bistHolds pc || (old.parked.isSome && old.parked != some (im.kern, im.taskidx)) then none
      else
        let k := im.coreOn (s.readCtx im) old hold
        match (if k.labels.all fun l => Label.sub l hold then s.internAll k.labels else none) with
        | none => some (s.refuseRestore im 0x0C03 func, 0x0C03)
        | some s =>
          let s := s.setCore k
          let s := { s with images := s.images.map fun (i : Image) =>
            if i.kern = im.kern && i.taskidx = im.taskidx then { i with live := false, ended := false } else i }
          some (s.focusing pc fun s => (s.acquire .dv).redeclare s.core.lace.tiles, 0)

/-- The saved task of a queue with a TASKIDX. Log 58: DEDUCED. -/
def State.imageOf (s : State) (q idx : Nat) : Option Image := s.images.find? fun i => i.queue == q && i.taskidx == idx && i.live

/-- LAUNCH (R318). Log 58: DEDUCED. -/
def launchBody (d a b : Fin 64) : Body := fun s =>
  if s.core.ready [d, a, b] then
    let q := (s.core.vx a).toNat
    let idx := (s.core.vx b).toNat
    let done := fun (s : State) (n : Nat) => Except.ok (After.of (s.modCore fun k => k.writeX d ⟨BitVec.ofNat 64 n, 0⟩))
    if 4096 ≤ q || !(s.slots.any fun x => x.die == coreDie s.core.id && x.q == q) then done s 3
    else match s.imageOf q idx with
      | some im =>
        match s.restore im with
        | some r => done r.1 r.2
        | none => .error .stall
      | none =>
        done s (if s.cores.any fun k => k.task.any fun t => t.queue == q && t.idx == idx then 2 else 1)
  else .error .stall
def execLaunch (h : Hdr) (d a b : Fin 64) (s : State) := runWord (.launch h d a b) .c h (launchBody d a b) s

/-- RESTORE (R247): firmware of Insole starts the restore that a LAUNCH of the queue asks for. -/
def execRestore (q idx : Nat) (s : State) := s.service fun s =>
  if s.viral then s
  else match s.imageOf q idx with
    | some im =>
      match s.restore im with
      | some r => r.1
      | none => s
    | none => s

/-! ### The steps of the ordering machine -/

/-- A step of a core's queues: it happens with the core in focus. Nothing happens in reset. -/
def State.queueStep (s : State) (c : Nat) (f : State → State) : Host.Outcome State Fault Refusal :=
  .next (if s.inReset then s else s.focusing c fun s => (f s).tidy)

/-- LOAD_PERFORM (R166), with the error that a memory finds meanwhile (R157, R263). -/
def execLoadPerform (c : Nat) (st : Stream) (page : Nat) (how : Reading) (s : State) :=
  s.queueStep c fun s => (s.eccEvent how.ecc).loadPerform st page how.install
def execStorePerform (c : Nat) (st : Stream) (grans : List Nat) (s : State) := s.queueStep c fun s => s.storePerform st grans
def execAtomicPerform (c : Nat) (st : Stream) (s : State) := s.queueStep c fun s => s.atomicPerform st
def execFenceMarkerPerform (c : Nat) (st : Stream) (n : Nat) (s : State) := s.queueStep c fun s => s.fencePerform st n
/-- POSTED_LEAVE, EGRESS_WRITE and POSTED_ARRIVAL carry a write out of the module, which the viral state blocks (R259). -/
def execPostedLeave (c : Nat) (st : Stream) (s : State) := s.queueStep c fun s => if s.viral then s else s.postedLeave st
def execEgressWrite (c : Nat) (st : Stream) (n : Nat) (s : State) := s.queueStep c fun s => if s.viral then s else s.egressWrite st n
def execPostedArrival (c : Nat) (st : Stream) (n : Nat) (s : State) := s.queueStep c fun s => if s.viral then s else s.postedArrival st n

/-- COPY_DISCARD (R168): an L1 line of a core, or a line of a die's remote-data cache. -/
def execCopyDiscard (rdc : Bool) (unit line : Nat) (s : State) : Host.Outcome State Fault Refusal :=
  .next (if rdc then { s with rdc := s.rdc.filter fun e => !(e.1 == unit && e.2.line == line) }
    else s.mapCore unit fun k => { k with l1 := k.l1.filter fun c => c.line != line })

/-- AD_UPDATE (R186). -/
def execAdUpdate (c : Nat) (p : Pipe) (va : W64) (k : Acc) (s : State) := s.queueStep c fun s => s.adUpdate p va k
def execRingPublishMessage (c : Nat) (r : Fin 16) (s : State) := s.queueStep c fun s => s.publishMessage r.val
def execRingCreditMessage (c : Nat) (r : Fin 16) (s : State) := s.queueStep c fun s => s.creditMessage r.val
def execDaccEntryPerform (c : Nat) (s : State) := s.queueStep c State.daccStep
/-- LACE_TILE_RETURN (R178, R227): a tag change that waited for the transaction follows it (R228). -/
def execLaceTileReturn (c : Nat) (s : State) := s.queueStep c fun s =>
  let n := s.core.c.sq.length
  let s := s.laceReturn
  if s.core.c.sq.length < n then s.wakeHeld else s
def execLaceSubmission (c : Nat) (s : State) := s.queueStep c State.laceSubmission
/-- VECTOR_LANDING (R97). -/
def execVectorLanding (c n : Nat) (s : State) := s.queueStep c fun s => s.landStep n

/-- WORD_RETIRE (R17, R19): the words at a stream's head whose conditions hold and whose signals fit. -/
def execWordRetire (c : Nat) (st : Stream) (s : State) := s.queueStep c fun s => s.retireAll st
/-- FIXED_LATENCY_RETIRE (R387): the fixed-latency words whose latency has passed in clocks. -/
def execFixedLatencyRetire (c : Nat) (s : State) := s.queueStep c State.retireDue

/-! ### The steps of streams and engines, which the viral state stops (R259) -/

def State.coreStep (s : State) (c : Nat) (f : State → State) : Host.Outcome State Fault Refusal :=
  .next (if s.viral || s.inReset then s else s.focusing c fun s => (f s).tidy)

def execTileStart (c : Nat) (s : State) := s.coreStep c State.tileStart
def execTileStep (c : Nat) (s : State) := s.coreStep c State.tileStep
def execDrainRow (c : Nat) (s : State) := s.coreStep c State.drainRow
def execRaggedWelt (c : Nat) (s : State) := s.coreStep c State.raggedWelt
def execMatrixReplay (c : Nat) (s : State) := s.coreStep c State.matrixReplay
def execStitchIssue (c : Nat) (s : State) := s.coreStep c State.stitchIssue
def execHoldOverrun (c : Nat) (st : Stream) (s : State) := s.coreStep c fun s => s.holdOverrun st
/-- STREAM_TRAP (R252). -/
def execStreamTrap (c : Nat) (s : State) := s.coreStep c fun s => s.streamTrap.getD s
def execMailboxRecordPost (c : Nat) (st : Stream) (s : State) := s.coreStep c fun s => s.mailboxPost st
/-- PREEMPTION (R245). -/
def execPreemption (c : Nat) (s : State) := s.coreStep c State.preempt

/-! ### FMRESUME (R253) -/

/-- The stream of a core that a ticket names. -/
def Core.ticketed (k : Core) (func ticket : Nat) : Option Stream :=
  if k.task.isSome && k.func = func then streams.find? fun st => (k.strm st).stop == .posted ticket else none

/-- FMRESUME with ABORT = 0: the stream reissues the word at its bank's EPC, now or after the restore. -/
def State.fmResume (s : State) (func ticket : Nat) : State :=
  match s.cores.find? fun k => (k.ticketed func ticket).isSome with
  | some k =>
    match k.ticketed func ticket with
    | some st => s.focusing k.id fun s => s.resumeStream st
    | none => s
  | none =>
    { s with images := s.images.map fun i =>
      if i.live then
        match i.core.ticketed func ticket with
        | some st => { i with core := (State.resumeStream { s with core := i.core } st).core }
        | none => i
      else i }
/-- The steps by which a function goes on with a stop are inbound requests (R259, R268); a resume waits for an invalidation in progress
(R391). -/
def execFmresumeResume (func ticket : Nat) (s : State) := s.arrival fun s =>
  if s.tdiError func then s
  else if s.tlbiNow.isSome then s.holdStep (.fmresumeResume func ticket)
  else s.fmResume func ticket

/-- The record of an ABORT. -/
def State.abortNote (s : State) (func queue ticket : Nat) : State :=
  (s.errRec 0x0B01 1 func 0 (BitVec.ofNat 64 queue) (BitVec.ofNat 64 ticket)).setErr queue
/-- FMRESUME with ABORT = 1: the task ends, on its core or in its image. -/
def State.fmAbort (s : State) (func ticket : Nat) : State :=
  match s.cores.find? fun k => (k.ticketed func ticket).isSome with
  | some k => (s.abortNote func ((k.task.map (·.queue)).getD 0) ticket).focusing k.id fun s => s.killTask false
  | none =>
    match s.images.find? fun i => i.live && (i.core.ticketed func ticket).isSome with
    | some im =>
      let s := s.abortNote func im.queue ticket
      let s := { s with images := s.images.filter fun i => !(i.kern == im.kern && i.taskidx == im.taskidx) }
      let s := s.mapCores fun k => if k.parked = some (im.kern, im.taskidx) then
          { Core.reset k.id with l1 := k.l1, pref := k.pref, utlb := k.utlb, l2tlb := k.l2tlb, walks := k.walks } else k
      s.endGraph im.queue
    | none => s
def execFmresumeAbort (func ticket : Nat) (s : State) := s.arrival fun s => if s.tdiError func then s else s.fmAbort func ticket

/-! ### The heel checker (R258) -/

/-- The name of a core's C-stream and heel checker, by its logical number (R260). -/
def heelUnit (lc : Nat) : Nat := unitName (lc / 128 % 8) (lc / 16 % 8) (lc % 16) 0 0

/-- The words of the C-stream that wait at a queue head for the checker take no effect: a store that has begun, and the return of a lace slot's
tiles, have been checked before (R258). Log 62: DEDUCED. -/
def Core.dropUnchecked (k : Core) : Core :=
  let kept := fun (e : SEnt) => match e.kind with
    | .store _ _ _ _ wrote => !wrote.isEmpty | .laceReturn _ => true | _ => false
  { k with
    dacc := none, xPend := []
    c := { k.c with lq := [], sq := k.c.sq.filter kept, infl := k.c.infl.filter fun i => (k.c.sq.filter kept).any fun e => e.id == i.id } }
/-- HEEL_CHECK (R258): the two words and their operands agree, or the task ends before the word takes effect, or the module turns
viral. Log 42: DEDUCED. -/
def State.heelCheck (s : State) (heel word : W32) (same : Bool) : State :=
  let k := s.core
  let d0 := heel.setWidth 64
  let d1 := word.setWidth 64
  if heel = word && same then s
  else if k.dispatch then s.errRec 0x0602 2 0 (unitName (coreDie k.id) 15 31 0x13 (k.id % 2)) d0 d1
  else match k.task with
    | none => s
    | some t => (((s.errRec 0x0601 1 t.func (heelUnit t.lcore) d0 d1).setErr t.queue).modCore Core.dropUnchecked).killTask true
def execHeelCheck (c : Nat) (heel : W32) (word : Checked) (s : State) := s.coreStep c fun s => s.heelCheck heel word.word word.same

/-! ### The beat (R221, R229, R243, R272) -/

/-- The submissions of tasks that a pre-emption request has reached leave the open batches (R229). Log 65: DEDUCED. -/
def State.withdrawAll (s : State) : State :=
  (s.cores.filter fun k => k.atSafePoint && k.lace.st == .declaring).foldl (fun s k => s.focusing k.id State.withdraw) s
/-- A beat closes: its batches are numbered, TSTEP advances, budgets are charged, and the first waves of deterministic mode issue (R241). -/
def State.beatClose (s : State) : State :=
  let s := s.withdrawAll.numberBatches s.tstep
  let s := State.closeBudgets { s with tstep := s.tstep + 1, beatClk := 0 }
  State.detIssue { s with sentTo := s.sentTo.filter fun x => decide (s.tstep ≤ x.2 + 2) }

/-- Beats come from this module's own clock: it stands alone, has the lowest identifier of its domain, or its straps are down (R272). -/
def State.ownBeat (s : State) : Bool :=
  match s.domain with
  | none => true
  | some d => (s.members.all fun m => decide (d ≤ m)) || !s.strapsUp
/-- BEAT_CLOSE (R221): 256 clocks of the module's own beat have passed. -/
def execBeatClose (s : State) := s.service fun s => if s.ownBeat && Config.beatClocks ≤ s.beatClk then s.beatClose else s
/-- BEAT_FLIT (R272): a beat flit of the module of lowest identifier closes the beat. -/
def execBeatFlit (s : State) := s.service fun s => if s.ownBeat || s.viral then s else s.beatClose

/-! ### Fetch (R5, R35, R36, R188, R192, R388) -/

/-- A stream that fetches nothing now. -/
def State.fetchIdle (s : State) (st : Stream) : Bool :=
  s.viral || s.inReset || (s.strm st).barred || s.core.killed.isSome || (s.core.ending && st != .c) || (s.core.dispatch && st != .c)

/-- A trap before decode, of a fetch or of a word that does not decode: older words come first (R250), a release that the stream has run ahead of
among them (R209), and a stream trap that the C-stream is to take at this boundary (R252). -/
def State.fetchTrap (s : State) (st : Stream) (f : State → State) : State :=
  if s.olderMay st || s.core.atSafePoint || (s.strm st).blocked.isSome then s.tick
  else match (if st = .c then s.streamTrap else none) with
    | some s => s.tick
    | none => (f s).tick
/-- What a fetch meets at its physical address: a frame still to be zeroed, a far home out of reach, on a dispatch core a frame with a
label (R206, R213, R266, R267). -/
def State.fetchCheck (s : State) (pc : W64) (pa : Nat) : Except Halt Unit :=
  if s.awaitsZero pa then .error .stall
  else if !s.farOk pa then .error (.trap (cBadFrame (s.leafLevel .fetch pc.toNat)) pc 0)
  else if s.core.dispatch && (paClass pa == 0 || paClass pa == 2) && s.readLab pa != 0 then .error (.trap 0x0020 pc 0)
  else .ok ()

/-- The word at a stream's program counter, from its home; a fault of the fetch is taken before decode. Log 14: DEDUCED. -/
def State.fetchWord (s : State) (st : Stream) : State :=
  let s := (s.retireAll st).modCore fun k => { k with cur := st }
  let pc := s.pc st
  if s.fetchIdle st then s.tidy.tick
  else match s.translate .fetch pc (.fetch st) with
    | .error x => s.fetchTrap st fun s => s.halt (.nop st default) st (x.halt pc 0)
    | .ok (s, pa, _) =>
      match s.fetchCheck pc pa with
      | .error .stall => s.tick
      | .error x => s.fetchTrap st fun s => s.halt (.nop st default) st x
      | .ok _ =>
        let w := s.codeAt pa
        match decode s.core.dispatch st w with
        | .ok i => { s with ir := some (st, i) }
        | .error _ => s.fetchTrap st fun s => s.takeTrap st 0x0001 (BitVec.ofNat 64 w) 0
/-- WORD_FETCH (R192): the word is in `ir`, and issues at once. -/
def execWordFetch (c : Nat) (st : Stream) (s : State) : Host.Outcome State Fault Refusal := .next ((s.focus c).fetchWord st)

end Sys2Proof.Machine
end

