-- ==== Sys2Proof/Machine/Insole.lean ====
section
/-! DEFINITION. What Insole does to a running module: invalidation and page tables (R182, R191, R228, R391), frame tags, joint frames and
zeroing (R203 to R206), the policy table (R210, R211), enrolment (R193, R208, R271), the label table (R194), graph registration (R28 to R30,
R61, R64, R65, R67, R69, R181, R231, R386). -/

namespace Sys2Proof.Machine
open Sys2Proof

/-! ### Invalidation (R191, R228, R391) -/

/-- Virtual page `p` is one that an entry which the command drops may translate, in a task of space `space`: a leaf spans up to 16 × 512 pages,
aligned (R184, R189). Log 68: DEDUCED. -/
def Tlbi.covers (t : Tlbi) (space p : Nat) : Bool :=
  match t.mode with
  | 0 => true
  | 1 => t.space == space
  | _ => t.space == space && p % 2 ^ 45 / 8192 == t.vpn / 8192
/-- The command drops entries of a space. -/
def Tlbi.inSpace (t : Tlbi) (space : Nat) : Bool := t.mode == 0 || t.space == space
/-- A run of `n` bytes from an address. -/
def Tlbi.coversRun (t : Tlbi) (space va n : Nat) : Bool := (List.range (n / 4096 + 2)).any fun i => t.covers space ((va + min n (4096 * i)) / 4096)

def Loc.isMem : Loc → Bool
  | .mem _ => true | _ => false
/-- An access of a stream that a matching translation gave has not performed yet. -/
def Strm.usesPage (t : Tlbi) (space : Nat) (u : Strm) : Bool :=
  (u.lq.any fun e => match e.kind with
    | .load need _ (.operand ..) => (need.any fun x => x.2.1.isMem) && t.inSpace space
    | .load need .. => need.any fun x => x.2.1.isMem && t.covers space (x.1 / 2 ^ 20)
    | _ => false) ||
  (u.sq.any fun e => match e.kind with
    | .store b .. => (b.any fun x => x.1.isMem) && t.inSpace space
    | .atomic (.amo (.mem _) ..) => t.covers space (e.va.toNat / 4096)
    | .laceReturn tiles => !tiles.isEmpty && t.inSpace space
    | _ => false) ||
  u.posted.any fun p => t.coversRun p.space p.va.toNat p.bytes.length
/-- A core holds a translation that the command drops: an access, the rows of a drain, a DACC entry, the tiles of a transaction that has
passed its LCWAIT and has not returned them (R191, R228). Log 68: DEDUCED. -/
def Core.usesPage (t : Tlbi) (k : Core) : Bool :=
  match k.task with
  | none => false
  | some x =>
    (streams.any fun st => (k.strm st).usesPage t x.space) ||
      (k.drains.any fun d => d.rows.any fun r => r.any fun f => t.coversRun x.space f.va.toNat f.len) ||
      (k.dacc.any fun r => t.coversRun x.space r.va.toNat (4 * r.pas.length)) ||
      (k.lace.st == .granted && k.lace.tiles.any fun l => t.covers x.space (l.va.toNat / 4096))

/-- An invalidation reaches the hub: it starts, or waits its turn (R191, R391). TLBICTL keeps what was written to it. Log 68: DEDUCED. -/
def State.invalidate (s : State) (t : Tlbi) : State :=
  if s.tlbiNow.isSome then { s with tlbiHeld := s.tlbiHeld ++ [t] }
  else { s with tlbiNow := some t, tlbiCtl := if t.own then s.tlbiCtl else BitVec.ofNat 64 (t.mode * 2 ^ 20 + t.space) }

/-- A write to TLBICTL with a MODE (R191). Log 68: DEDUCED. -/
def State.tlbiWrite (s : State) (mode : Nat) (v : W64) : State :=
  if v.toNat / 2 ^ 20 % 4 = mode then s.invalidate ⟨mode, v.toNat % 2 ^ 20, s.tlbiVa.toNat / 4096 % 2 ^ 45, false⟩ else s
def execTlbiAll (v : W64) (s : State) := s.arrival fun s => s.tlbiWrite 0 v
def execTlbiSpace (v : W64) (s : State) := s.arrival fun s => s.tlbiWrite 1 v
def execTlbiPage (v : W64) (s : State) := s.arrival fun s => s.tlbiWrite 2 v

/-- TLB_INVALIDATION_DONE (R191): every access through a matching entry has performed, the entries are dropped, the next command starts, and
what waited for it goes on (R391). -/
def State.tlbiDone (s : State) : State :=
  match s.tlbiNow with
  | none => s
  | some t =>
    if s.cores.any (Core.usesPage t) then s
    else
      let s := State.wakeHeld { s.dropTlb t with tlbiNow := none }
      match s.tlbiHeld with
      | [] => s
      | n :: r => State.invalidate { s with tlbiHeld := r } n
def execTlbInvalidationDone (s : State) := s.service State.tlbiDone

/-! ### Frames and their tags (R203 to R206, R228) -/

/-- A transaction past its LCWAIT holds a tile of the frame: a tag change waits for its end (R228). -/
def State.frameHeld (s : State) (f : Nat) : Bool :=
  s.cores.any fun k => (k.lace.st == .granted && k.lace.tiles.any fun t => frameOf t.pa == f) || k.c.sq.any fun e => match e.kind with
    | .laceReturn tiles => tiles.any fun pa => frameOf pa == f
    | _ => false

/-- The bytes of a frame stay under its new tag: the same owner holds it, with no origin fewer (R200, R206). -/
def Tag.stays (t : Tag) (lab : Label) (owner : Option Nat) : Bool :=
  !t.zeroing && t.owner == owner && (t.lab == lab || (owner.isSome && Label.sub t.lab lab))
/-- A frame gets an owner and a label; its bytes are zero by then (R206). Log 52: DEDUCED. -/
def State.giveFrame (s : State) (f : Nat) (lab : Label) (owner : Option Nat) : State :=
  let s := s.intern lab
  (if (s.tagOf (4096 * f)).stays lab owner then s else s.zeroFrame f).setTag ⟨f, lab, owner, false⟩

/-- A frame that has left service (R10). -/
def State.outOfService (s : State) (f : Nat) : Bool :=
  s.retired.contains f || s.fenced.contains (homeDie (4096 * f), channelOf (4096 * f))
/-- FRAME_TAG_WRITE (R203, R204, R205): Insole assigns a frame to a registration, tags a joint frame with the exact set of the joint-region
request that named it, or frees a frame, whose label stands until it has been zeroed (R206). Log 69: DEDUCED. -/
def State.frameTagWrite (s : State) (pa : Nat) (lab : Label) (why : TagWhy) : State :=
  let f := frameOf pa
  let lab := Label.clear0 lab
  if !deviceOk (4096 * f) || s.outOfService f || !s.canIntern lab then s
  else match why with
    | .assign h =>
      match s.graphOf h with
      | some g => if Label.sub lab g.holds then { s with jointFrames := s.jointFrames.filter fun x => x.1 != f }.giveFrame f lab (some h) else s
      | none => s
    | .joint => if s.jointFrames.contains (f, lab) then s.giveFrame f lab none else s
    | .free => { s with jointFrames := s.jointFrames.filter fun x => x.1 != f }.setTag ⟨f, (s.tagOf (4096 * f)).lab, none, true⟩
/-- A change to a tile that a transaction holds takes effect once it has ended (R228), and none while an invalidation is in progress (R391). -/
def execFrameTagWrite (pa : Nat) (lab : Label) (why : TagWhy) (s : State) := s.service fun s =>
  if s.frameHeld (frameOf pa) || s.tlbiNow.isSome then s.holdStep (.frameTagWrite pa lab why) else s.frameTagWrite pa lab why

/-- OWNER_ZEROING (R206): a freed frame, or the state of a core that no task has. -/
def State.zeroOwner (s : State) : ZeroWhat → State
  | .frame pa =>
    let t := s.tagOf pa
    if t.zeroing && deviceOk pa then s.zeroTagged t else s
  | .core c =>
    s.mapCore c fun k =>
      if k.dispatch || k.task.isSome || k.parked.isSome then k
      else { Core.reset k.id with l1 := k.l1, pref := k.pref, utlb := k.utlb, l2tlb := k.l2tlb, walks := k.walks }
def execOwnerZeroing (z : ZeroWhat) (s : State) := s.service fun s => s.zeroOwner z

/-! ### Signatures (R193, R205, R211) -/

def State.tenantKey (s : State) (slot : Nat) : Option (List Byte) := (s.tenants.find? fun t => t.slot == slot).map (·.key)
/-- The signers are distinct, are exactly the slots of the set, and every signature verifies. Log 4: DESIGN CHOICE. -/
def State.signedBy (s : State) (lset : Label) (sigs : List (Nat × List Byte)) (body : List Byte) : Bool :=
  (sigs.map (·.1)).Nodup && Label.joins (sigs.map fun x => Label.ofSlot x.1) == lset && sigs.length == Label.count lset &&
    sigs.all fun x => (s.tenantKey x.1).any fun k => Config.ed448Verify k (Config.shake256 body) x.2

/-- The origins that joint-region requests have granted to a registration (R204). -/
def State.grantOf (s : State) (h : Nat) : Label := Label.joins ((s.grants.filter fun g => g.1 == h).map (·.2))
/-- JOINT_REGION_REQUEST (R204, R205): frames take the set, and the registrations named hold its origins from now on. -/
def State.jointRegion (s : State) (r : JointReq) : State :=
  let lset := Label.clear0 r.lset
  if Label.count lset < 2 || lset != r.lset || !s.signedBy lset r.sigs r.body || !s.canIntern lset ||
      r.frames.any (fun f => !deviceOk (4096 * f) || s.outOfService f || s.frameHeld f || (s.tagOf (4096 * f)).owner.isSome) then s
  else
    let s := r.frames.foldl (fun s f => s.giveFrame f lset none) s
    { s with
      jointFrames := (r.frames.map fun f => (f, lset)) ++ s.jointFrames.filter fun x => !r.frames.contains x.1
      grants := (r.handles.map fun h => (h, lset)) ++ s.grants
      graphs := s.graphs.map fun g => if r.handles.contains g.reg.handle then { g with holds := Label.join g.holds lset } else g }
def execJointRegionRequest (r : JointReq) (s : State) := s.service fun s =>
  if s.tlbiNow.isSome then s.holdStep (.jointRegionRequest r) else s.jointRegion r

/-! ### The policy table (R210, R211) -/

/-- The signature records of a policy. -/
def policySigs (bs : List Byte) : List (Nat × List Byte) :=
  (List.range (fieldAt bs 6 1)).map fun i => (fieldAt bs (0x80 + 120 * i) 1, (bs.drop (0x86 + 120 * i)).take 114)
/-- Every field is in range. -/
def policyFieldsOk (bs : List Byte) : Bool :=
  let g := fieldAt bs
  let n := g 6 1
  bs.length == 128 + 120 * n && g 0 4 == 0x31505945 && g 4 2 == 1 && decide (2 ≤ n) && decide (n ≤ 16) &&
    ((g 7 1 == 1 && decide (g 0x28 8 < 256)) || (g 7 1 == 2 && decide (g 0x28 8 < 32))) && g 8 1 % 2 == 0 &&
    decide (2 ^ 50 ≤ g 0x30 8) && decide (g 0x30 8 ≤ g 0x38 8) && decide (g 0x52 2 < 2) && zerosAt bs 0x58 40 &&
    (List.range n).all fun i => zerosAt bs (0x81 + 120 * i) 5
def policyLset (bs : List Byte) : Label := BitVec.ofNat 256 (fieldAt bs 8 32)
/-- POLICY_INSTALL (R211). Which free entry is taken is not fixed. Log 3: DESIGN CHOICE. -/
def State.policyInstall (s : State) (bs : List Byte) : State :=
  let g := fieldAt bs
  let sigs := policySigs bs
  let fs := (List.range 256).filter fun i => !(s.policies.any fun p => p.idx == i)
  if !policyFieldsOk bs || !s.signedBy (policyLset bs) sigs (bs.take 128) || g 0x48 8 ≤ s.tstep || fs.isEmpty then s
  else
    let i := fs.getD (Config.freePolicy s.freeNo % fs.length) 0
    let p : Policy := ⟨i, g 7 1, policyLset bs, g 0x28 8, g 0x30 8, g 0x38 8, g 0x40 8, g 0x48 8, g 0x50 2, g 0x52 2 == 1, sigs.map (·.1)⟩
    { s with policies := p :: s.policies, freeNo := s.freeNo + 1 }
def execPolicyInstall (bs : List Byte) (s : State) := s.service fun s => s.policyInstall bs

/-- POLICY_REMOVE (R211): at a signer's request, or after expiry. -/
def State.policyRemove (s : State) (i signer : Nat) : State :=
  { s with policies := s.policies.filter fun p => !(p.idx == i && (p.signers.contains signer || decide (p.expiry ≤ s.tstep))) }
def execPolicyRemove (i signer : Nat) (s : State) := s.service fun s => s.policyRemove i signer

/-! ### Enrolment (R193, R208, R271) -/

/-- Something still names an origin slot. -/
def State.slotNamed (s : State) (slot : Nat) : Bool :=
  let l := Label.ofSlot slot
  let has := fun (m : Label) => Label.sub l m
  (s.tags.any fun t => has t.lab) || (s.policies.any fun p => has p.lset) || s.graphs.any fun g => has g.holds
/-- TENANT_ENROLMENT (R193): a slot with its key and, if one is given, the function whose origin it is (R208). A slot in use is reassigned only
when nothing names it. -/
def State.enrol (s : State) (e : Enrol) : State :=
  if e.slot = 0 || 256 ≤ e.slot || ((s.tenantKey e.slot).isSome && s.slotNamed e.slot) then s
  else
    let s := { s with tenants := ⟨e.slot, e.key⟩ :: s.tenants.filter fun t => t.slot != e.slot }
    match e.func with
    | some f => { s with origins := (f, e.slot) :: s.origins.filter fun o => o.1 != f && o.2 != e.slot }
    | none => { s with origins := s.origins.filter fun o => o.2 != e.slot }
def execTenantEnrolment (e : Enrol) (s : State) := s.service fun s => s.enrol e

/-- LABEL_DOMAIN_ENROLMENT (R271): up to 32 modules with identifiers of their own. -/
def State.enrolDomain (s : State) (ident : Nat) (members : List Nat) : State :=
  if members.Nodup && members.all (· < 32) && members.contains ident then { s with domain := some ident, members := members } else s
def execLabelDomainEnrolment (ident : Nat) (members : List Nat) (s : State) := s.service fun s => s.enrolDomain ident members

/-! ### The label table (R194, R196) -/

/-- Labels of what stands in flight in a core. -/
def Core.flightLabels (k : Core) : List Label :=
  (streams.flatMap fun st => (k.strm st).posted.map (·.lab)) ++ k.landings.map (·.lab) ++ k.drains.map (·.lab) ++
    k.vrows.map (·.2) ++ (k.dacc.toList.map (·.lab)) ++ (k.dacc.toList.filterMap (·.tag)) ++ k.lace.tiles.map (·.tag) ++
    (k.rings.toList.flatMap fun g => g.publishes.map (·.2.2)) ++ (k.lace.tiles.map (·.tag)) ++ (k.run.toList.flatMap fun r => [r.flab, r.lab, r.t.lab, r.cmd.lab]) ++
    (k.fifo.flatMap fun c => c.again.toList.map (·.lab)) ++ k.ragged.toList.map (·.lab)
/-- The labels that a holder names (R196): cores, frames, and the handles that registration has put into text. -/
def State.heldLabels (s : State) : List Label :=
  (s.cores.flatMap fun k => k.labels ++ k.flightLabels) ++ s.tags.map (·.lab) ++
    s.graphs.flatMap fun g => (g.reg.nodes.map (·.clab)) ++ g.reg.images.flatMap fun t =>
      ((t.text.map (·.2)) ++ t.data).flatMap fun p => p.relocs.filterMap fun r => match r with | .labelh _ _ _ l => some (Label.clear0 l) | _ => none
/-- LABEL_TABLE_RECLAIM (R194): entries that no holder names. -/
def State.reclaim (s : State) (hs : List Nat) : State :=
  let held := s.heldLabels
  { s with labels := s.labels.filter fun e => !(hs.contains e.1 && !held.contains e.2) }
def execLabelTableReclaim (hs : List Nat) (s : State) := s.service fun s => s.reclaim hs

/-! ### Page tables (R182, R386, R391) -/

/-- The address of the entry of an address at a level of a tree, if the pointers above it are there. -/
def State.entryAt (s : State) (va lvl : Nat) : Nat → Nat → Nat → Option Nat
  | 0, _, _ => none
  | n + 1, l, table =>
    let pa := table + 8 * vaIndex va l
    if l = lvl then some pa
    else
      let e := s.readPte pa
      if pteV e && !pteLeaf e && s.tableFrame (ptePFN e * 4096) then s.entryAt va lvl n (l - 1) (ptePFN e * 4096) else none

/-- A frame may be mapped into a registration's space: it holds the frame's label, and a joint frame's request names it (R204, R205). -/
def State.mayMap (s : State) (g : Graph) (f : Nat) : Bool :=
  Label.sub (s.readLab (4096 * f)) g.holds && match s.jointFrames.find? fun x => x.1 == f with
    | some x => s.grants.contains (g.reg.handle, x.2)
    | none => true
/-- Every frame that an entry of a level maps, by itself or through the tables below it. -/
def State.mapsOnly (s : State) (ok : Nat → Bool) : Nat → Nat → Bool
  | lvl, e =>
    if !pteV e then true
    else if pteLeaf e then (List.range (levelPages lvl)).all fun i => ok (ptePFN e + i)
    else match lvl with
      | 0 => true
      | l + 1 => (List.range 512).all fun i => s.mapsOnly ok l (s.readPte (ptePFN e * 4096 + 8 * i))

/-- INSOLE_MAPPING_CHANGE (R204, R391): the entry is written, frames mapped only where the registration holds their labels, and an invalidation
that covers the change starts or waits its turn. Log 68: DEDUCED. -/
def State.mappingChange (s : State) (h : Nat) (va : W64) (lvl : Nat) (pte : W64) : State :=
  match s.graphOf h with
  | none => s
  | some g =>
    let e := pte.toNat
    let allowed := !(pteV e) || ((!pteLeaf e || decide (lvl < 2)) && s.mapsOnly (s.mayMap g) lvl e)
    match s.entryAt va.toNat lvl 5 4 g.reg.root with
    | none => s
    | some pa =>
      if !allowed || !s.tableFrame pa then s
      else State.invalidate { s with mem := memPut s.mem pa (natLe 8 e) }
        (if lvl = 0 then ⟨2, g.reg.space, va.toNat / 4096 % 2 ^ 45, true⟩ else ⟨1, g.reg.space, 0, true⟩)
def execInsoleMappingChange (h : Nat) (va : W64) (lvl : Nat) (pte : W64) (s : State) := s.service fun s => s.mappingChange h va lvl pte

/-- A page mapped at L0, with tables taken from those that Insole gives. -/
def State.mapPage (s : State) (va pte : Nat) : Nat → Nat → List Nat → Option (State × List Nat)
  | 0, table, free => some ({ s with mem := memPut s.mem (table + 8 * vaIndex va 0) (natLe 8 pte) }, free)
  | l + 1, table, free =>
    let pa := table + 8 * vaIndex va (l + 1)
    let e := s.readPte pa
    if pteV e then (if pteLeaf e then none else s.mapPage va pte l (ptePFN e * 4096) free)
    else match free with
      | [] => none
      | f :: r =>
        let s := { s with mem := memPut s.mem pa (natLe 8 (f * 4096 + 1)) }
        s.mapPage va pte l (f * 4096) r
def State.mapPages (s : State) (root : Nat) : List (Nat × Nat) → List Nat → Option (State × List Nat)
  | [], free => some (s, free)
  | (va, pte) :: r, free =>
    match s.mapPage va pte 4 root free with
    | none => none
    | some x => State.mapPages x.1 root r x.2

/-! ### Graph registration -/

end Sys2Proof.Machine

namespace Sys2Proof
open Sys2Proof.Machine

/-- A section-table entry is well formed: its kind is known, its contents lie in the file, its name in the string section, its links at sections
of their kinds (R65). -/
def SofSec.ok (size strs : Nat) (secs : List SofSec) (x : SofSec) : Bool :=
  let kindOf := fun (i : Nat) => (secs[i]?.map (·.kind)).getD 0
  decide (1 ≤ x.kind) && decide (x.kind ≤ 15) && (if x.kind = 1 then decide (x.stream ≤ 3) else x.stream == 0xFF) &&
    decide (x.align ≤ 12) && (if x.kind = 6 then x.offset == 0 else decide (x.offset + x.size ≤ size)) && decide (x.name < strs) &&
    (x.kind != 11 || kindOf x.link == 13) && (x.kind != 12 || (kindOf x.link == 11 && decide (x.info < secs.length)))
/-- A file's header and section table (R64, R65). -/
def SofHdr.ok (h : SofHdr) (kind size : Nat) (secs : List SofSec) (entry : List Nat) : Bool :=
  h.magic == [0x53, 0x4F, 0x46, 0x1A] && h.version == 1 && h.kind == kind && h.shoff % 8 == 0 && h.shnum == secs.length &&
    decide (h.shoff + 40 * h.shnum ≤ size) && h.entry == entry && h.reserved == List.replicate 24 0 &&
    match secs[h.shstr]? with
    | some x => x.kind == 13 && secs.all (SofSec.ok size x.size secs)
    | none => false
/-- The entry offsets of an image's header: the stream's, or all ones where it has no text (R64). -/
def TaskImg.entryWords (t : TaskImg) : List Nat :=
  streams.map fun st =>
    if t.text.any fun x => x.1 == st then ((t.entries.find? fun e => e.1 == st).map (·.2)).getD 0 else 0xFFFFFFFF
/-- An image holds what its sections say: text by stream, data and BSS, nest and ring records (R65, R69). -/
def TaskImg.fits (t : TaskImg) (secs : List SofSec) : Bool :=
  let size := fun (k : Nat) => ((secs.filter fun x => x.kind == k).map (·.size)).sum
  (secs.filter fun x => x.kind == 1).map (fun x => (x.stream, x.size, x.align)) ==
      t.text.map (fun x => (x.1.num, x.2.bytes.length, x.2.align)) &&
    (secs.filter fun x => x.kind == 5 || x.kind == 6).map (fun x => (x.size, x.align)) == t.data.map (fun p => (p.bytes.length, p.align)) &&
    size 2 == 16 * t.nest.length && size 3 == 16 * t.rings.length
/-- The headers and section tables of a bundle and of its images. Log 21: DESIGN CHOICE. -/
def GraphReg.filesOk (g : GraphReg) : Bool :=
  g.hdr.ok 3 g.fileSize g.secs (List.replicate 4 0xFFFFFFFF) && g.heads.length == g.images.length &&
    (g.heads.zip g.images).all fun x => x.1.1.ok 2 x.1.2.1 x.1.2.2 x.2.entryWords && x.2.fits x.1.2.2
/-- The pages of a placed section with their frames. -/
def Placed.pages (p : Placed) : List (Nat × Nat) := ((List.range p.frames.length).zip p.frames).map fun x => (p.va.toNat / 4096 + x.1, x.2)
/-- A section's address and frames (R386). `least` is the least alignment. -/
def Placed.ok (least : Nat) (p : Placed) : Bool :=
  let va := p.va.toNat
  canonical va && canonical (va + p.bytes.length) && decide (p.align ≤ 12) && va % 2 ^ p.align == 0 && va % least == 0 &&
    p.frames.length == (va % 4096 + p.bytes.length + 4095) / 4096
/-- The leaf bits of a page (R386). -/
def textPte (st : Stream) (f : Nat) : Nat := f * 4096 + 2 ^ (4 + st.num) + 3
def dataPte (f : Nat) : Nat := f * 4096 + 15
def blockPte (f : Nat) : Nat := f * 4096 + 7

/-- The pages of the bundle with their leaf entries, and the bytes of each section. -/
def GraphReg.texts (g : GraphReg) : List (Stream × Placed) := g.images.flatMap (·.text)
def GraphReg.datas (g : GraphReg) : List Placed := g.images.flatMap (·.data)
def GraphReg.blocks (g : GraphReg) : List Placed := g.nodes.flatMap (·.blocks)
def GraphReg.allPages (g : GraphReg) : List (Nat × Nat × Nat) :=
  (g.texts.flatMap fun x => x.2.pages.map fun p => (p.1, p.2, textPte x.1 p.2)) ++
    (g.datas.flatMap fun x => x.pages.map fun p => (p.1, p.2, dataPte p.2)) ++
    g.blocks.flatMap fun x => x.pages.map fun p => (p.1, p.2, blockPte p.2)

/-- Two placed sections share no byte. -/
def Placed.apart (p q : Placed) : Bool :=
  decide (p.va.toNat + p.bytes.length ≤ q.va.toNat) || decide (q.va.toNat + q.bytes.length ≤ p.va.toNat) || p.bytes.isEmpty || q.bytes.isEmpty
/-- The context label with which an image's pages are mapped: that of the first node that runs it. Log 70: DEDUCED. -/
def GraphReg.imageLab (g : GraphReg) (i : Nat) : Label := ((g.nodes.find? fun n => n.img == i).map (·.clab)).getD 0
/-- The data sections with the labels of their images: no two share a byte, and none of different labels a page (R386). -/
def GraphReg.datasApart (g : GraphReg) : Bool :=
  let ds := ((List.range g.images.length).zip g.images).flatMap fun x => x.2.data.map fun p => (g.imageLab x.1, p)
  (ds.map (·.2)).Pairwise (fun p q => p.apart q = true) &&
    ds.all fun x => ds.all fun y => x.1 == y.1 || x.2.pages.all fun p => y.2.pages.all fun q => p.1 != q.1
/-- Pages that only one section uses are listed once; a page has one frame; the pages around a text section are left out (R386). Log 71: DEDUCED. -/
def GraphReg.placedOk (g : GraphReg) : Bool :=
  let ps := g.allPages
  let n := fun (v : Nat) => (ps.filter fun p => p.1 == v).length
  (g.texts.all fun x => x.2.ok 4096 && (x.2.pages.all fun p => n p.1 == 1) &&
    match x.2.pages with
    | [] => true
    | q :: _ => n (q.1 - 1) == 0 && n (q.1 + x.2.pages.length) == 0) &&
    (g.datas.all fun x => x.ok 1) && (g.blocks.all fun x => x.ok 4096 && x.frames.length == 1 && x.pages.all fun p => n p.1 == 1) &&
    g.datasApart && ps.all fun p => ps.all fun q => (p.1 == q.1) == (p.2.1 == q.2.1)

/-- A relocation lies in its section, and its FIELD in its word (R67). -/
def Placed.relocsOk (datas : List Placed) (p : Placed) : Bool :=
  p.relocs.all fun r => match r with
    | .abs64 off sect field _ => decide (off + 8 ≤ p.bytes.length) && decide (sect < datas.length) && field == 0
    | .labelh off lo width _ => decide (off + 4 ≤ p.bytes.length) && decide (1 ≤ width) && decide (lo + width ≤ 32)
/-- The same of one against data in a nest record, in scratchpad contents or in an argument (R67, R69). -/
def GraphReg.dataRelocOk (g : GraphReg) : DataReloc → Bool
  | .nest i n sect _ => g.images[i]?.any fun t => decide (n < t.nest.length) && decide (sect < t.data.length)
  | .scratch i addr sect _ => g.images[i]?.any fun t => decide (addr + 8 ≤ Config.scratchBytes) && decide (sect < t.data.length)
  | .arg v set arg sect _ => (g.nodes[v]?.any fun n => decide (set < n.args.length)) && decide (arg < 8) &&
      decide (sect < (g.image v).data.length)
/-- The placed address that a relocation against data stands for. -/
def TaskImg.dataVa (t : TaskImg) (sect : Nat) (a : W64) : W64 := (t.data.getD sect default).va + a
/-- Registration puts it where the relocation says (R67, R69). -/
def GraphReg.patch (g : GraphReg) : DataReloc → GraphReg
  | .nest i n sect a =>
    { g with images := g.images.modify i fun t => { t with nest := t.nest.modify n fun r => { r with val := t.dataVa sect a } } }
  | .scratch i addr sect a =>
    { g with images := g.images.modify i fun t =>
      { t with scratch := t.scratch ++ ((List.range 8).map (addr + ·)).zip (natLe 8 (t.dataVa sect a).toNat) } }
  | .arg v set arg sect a =>
    let x := (g.image v).dataVa sect a
    { g with nodes := g.nodes.modify v fun n =>
      { n with args := n.args.modify set fun l => (l ++ List.replicate (8 - l.length) 0).set arg x } }
/-- The bundle as registration leaves it. -/
def GraphReg.resolve (g : GraphReg) : GraphReg := g.dataRelocs.foldl GraphReg.patch g
end Sys2Proof

namespace Sys2Proof.Machine
open Sys2Proof

/-- A graph without a cycle (R61): removing nodes with no predecessor left, `n` times, removes all. -/
def acyclic (n : Nat) (es : List (Nat × Nat)) : Bool :=
  ((List.range n).foldl (fun (left : List Nat) _ => left.filter fun v => es.any fun e => e.2 == v && left.contains e.1) (List.range n)).isEmpty

/-- Cores of a mask of clusters. -/
def coresIn (m : Nat) : Nat := 16 * ((List.range 8).filter fun c => m / 2 ^ c % 2 == 1).length
/-- A node may launch (R28 to R30, R60, R61, R204). -/
def State.nodeOk (s : State) (g : GraphReg) (holds : Label) (n : Node) : Bool :=
  let t := g.images.getD n.img ⟨[], [], [], [], [], 0, [], []⟩
  let ds := s.dies g.part
  let used := ds.take (t.tasks 2)
  decide (n.img < g.images.length) && decide (1 ≤ n.q) && decide (n.q ≤ 128) && Label.sub n.clab holds && s.canIntern n.clab &&
    ((List.range 6).all fun l => t.kind l != 3 && !(t.kind l != 0 && t.trip l == 0)) &&
    decide (t.tasks 2 ≤ ds.length) && (used.all fun d => decide (n.q ≤ coresIn (s.clusters g.part d))) &&
    n.blocks.length == t.tasks 1 * t.tasks 2 && decide (n.args.length ≤ g.nsets)

/-- A frame that Insole may give. -/
def State.freeFrame (s : State) (f : Nat) : Bool :=
  deviceOk (4096 * f) && (s.tagOf (4096 * f)).owner.isNone && s.frameLab (4096 * f) == 0 && !s.retired.contains f &&
    !s.fenced.contains (homeDie (4096 * f), channelOf (4096 * f)) && !(s.graphs.any fun g => g.reg.tables.contains f || 4096 * f == g.reg.root) &&
    !(decide (s.qcbBase ≤ 4096 * f) && decide (4096 * f < s.qcbBase + 2 ^ 20)) && !(s.qcbMoved.any fun x => x.2 == f) &&
    !(s.jointFrames.any fun x => x.1 == f)

/-- A LABELH or ABS64 relocation, applied to a section's bytes (R67). -/
def State.relocate (s : State) (datas : List Placed) (bs : List Byte) : Reloc → List Byte
  | .abs64 off sect _ a =>
    let v := (((datas.getD sect default).va) + a).toNat
    bs.take off ++ natLe 8 v ++ bs.drop (off + 8)
  | .labelh off lo width l =>
    let w := fieldAt bs off 4
    let h := s.handleOf (Label.clear0 l)
    let w := w - w / 2 ^ lo % 2 ^ width * 2 ^ lo + h * 2 ^ lo
    bs.take off ++ natLe 4 w ++ bs.drop (off + 4)
/-- The handles of LABELH relocations fit their fields (R67). -/
def State.handlesFit (s : State) (g : GraphReg) : Bool :=
  g.images.all fun t => ((t.text.map (·.2)) ++ t.data).all fun p => p.relocs.all fun r => match r with
    | .labelh _ _ width l => decide (s.handleOf (Label.clear0 l) < 2 ^ width)
    | .abs64 .. => true
/-- The checks of registration. Log 21: DESIGN CHOICE; log 71: DEDUCED. -/
def State.regOk (s : State) (g : GraphReg) (holds : Label) : Bool :=
  let fs := (g.allPages.map (·.2.1)).dedup ++ g.tables ++ g.ctxFrames
  g.filesOk && g.dataRelocs.all g.dataRelocOk &&
    decide (g.handle < 65536) && (s.graphOf g.handle).isNone && (s.tenantKey g.slot).isSome && decide (g.slot < 256) &&
    decide (g.func < 256) && s.slotOfFunc g.func == some g.slot && decide (g.queue < 4096) && decide (g.part < 16) &&
    decide (g.space < 2 ^ 20) && !(s.graphs.any fun x => x.reg.space == g.space) &&
    g.nsets == max 1 ((g.nodes.map (·.args.length)).foldl max 0) && decide (g.nsets ≤ 4096) &&
    (g.edges.all fun e => decide (e.1 < g.nodes.length) && decide (e.2 < g.nodes.length)) && acyclic g.nodes.length g.edges &&
    g.nodes.all (s.nodeOk g holds) && g.placedOk && (g.images.all fun t => ((t.text.map (·.2)) ++ t.data).all (Placed.relocsOk t.data)) &&
    fs.Nodup && fs.all s.freeFrame && g.tables.contains (g.root / 4096) && g.root % 4096 == 0 && s.canIntern holds

/-- A section's frames with the label, zeroed, and its bytes. -/
def State.placeSection (s : State) (h : Nat) (lab : Label) (datas : List Placed) (p : Placed) : State :=
  let s := p.frames.foldl (fun s f => s.giveFrame f lab (some h)) s
  let bs := p.relocs.foldl (s.relocate datas) p.bytes
  ((List.range p.frames.length).zip p.frames).foldl (fun s x =>
    let lo := if x.1 = 0 then 0 else 4096 * x.1 - p.va.toNat % 4096
    let hi := 4096 * (x.1 + 1) - p.va.toNat % 4096
    s.placeBytes (4096 * x.2 + if x.1 = 0 then p.va.toNat % 4096 else 0) ((bs.drop lo).take (hi - lo))) s

/-- The sets of LABELH relocations are interned at registration. -/
def State.internRelocs (s : State) (g : GraphReg) : Option State :=
  s.internAll (g.images.flatMap fun t => ((t.text.map (·.2)) ++ t.data).flatMap fun p => p.relocs.filterMap fun r =>
    match r with | .labelh _ _ _ l => some (Label.clear0 l) | _ => none)

/-- GRAPH_REGISTRATION: the bundle is checked, its frames take their labels and contents, its pages are mapped, the queue belongs to the
function and the partition. A refused bundle changes nothing. Log 21: DESIGN CHOICE; log 53: DEDUCED; log 70: DEDUCED; log 71: DEDUCED. -/
def State.register (s : State) (g : GraphReg) : State :=
  let holds := Label.join (Label.ofSlot g.slot) (s.grantOf g.handle)
  if !s.regOk g holds then s
  else match (s.internRelocs g).bind fun s => s.internAll (holds :: g.nodes.map (·.clab)) with
    | none => s
    | some s1 =>
    if !s1.handlesFit g then s
    else
      let s2 := g.tables.foldl State.zeroFrame s1
      match s2.mapPages g.root ((g.allPages.map fun p => (4096 * p.1, p.2.2)).dedup) (g.tables.filter (· != g.root / 4096)) with
      | none => s
      | some x =>
        let s3 := ((List.range g.images.length).zip g.images).foldl (fun s y =>
          let lab := g.imageLab y.1
          (((y.2.text.map (·.2)) ++ y.2.data)).foldl (fun s p => s.placeSection g.handle lab y.2.data p) s) x.1
        let s4 := g.nodes.foldl (fun s n => n.blocks.foldl (fun s p => s.placeSection g.handle n.clab [] p) s) s3
        let s5 := g.ctxFrames.foldl (fun s f => s.giveFrame f holds (some g.handle)) s4
        let s6 := s5.setQcb { s5.qcb g.queue with func := g.func, part := g.part }
        { s6 with graphs := s6.graphs ++ [⟨g.resolve, holds⟩] }
/-- No frame is given to another owner while an invalidation is in progress (R391). -/
def execGraphRegistration (g : GraphReg) (s : State) := s.service fun s =>
  if s.tlbiNow.isSome then s.holdStep (.graphRegistration g) else s.register g

end Sys2Proof.Machine
end

