-- ==== Sys2Proof/Machine/Board.lean ====
section
/-! DEFINITION. The module as its owner and its management path reach it: the CSR view in BAR0 (R12, R154, R158, R191, R253, R262, R267, R389),
self-test and reset (R10, R11, R260, R261, R274), keys and images (R273, R274), MCTP and TDISP (R268, R275), frames, channels and lanes that
leave service (R10, R12, R272), temperature (R276). -/

namespace Sys2Proof.Machine
open Sys2Proof

/-! ### Names of units (R260) -/

def unitDie (u : Nat) : Nat := u / 2 ^ 28 % 16
def unitCluster (u : Nat) : Nat := u / 2 ^ 24 % 16
def unitCore (u : Nat) : Nat := u / 2 ^ 19 % 32
def unitSub (u : Nat) : Nat := u / 2 ^ 12 % 128
def unitIndex (u : Nat) : Nat := u % 2 ^ 12
/-- How many indices a subunit has; none where the table lists no such unit. -/
def unitCount (sub : Nat) : Nat :=
  match sub with
  | 0x00 => 1 | 0x01 => 1 | 0x02 => 16 | 0x03 => 4 | 0x04 => 96 | 0x05 => 128 | 0x06 => 32 | 0x07 => 2 | 0x10 => 32 | 0x11 => 1
  | 0x12 => 128 | 0x13 => 2 | 0x14 => 1 | 0x20 => 9 | 0x21 => 72 | 0x22 => 3 | _ => 0
/-- A name that names a unit: BIST writes no other (R260). -/
def unitOk (u : Nat) : Bool :=
  decide (u < 2 ^ 32) && decide (unitDie u ≤ 8) && (decide (unitCluster u < 8) || unitCluster u == 15) &&
    (if unitSub u < 8 then decide (unitDie u < 8) && decide (unitCluster u < 8) && decide (unitCore u < 16) else unitCore u == 31) &&
    decide (unitIndex u < unitCount (unitSub u))

/-! ### The CSR view (R389) -/

/-- An error record as its 64 bytes (R262), and a mailbox record (R253). -/
def ErrRec.bytes (r : ErrRec) : List Byte :=
  padTo 64 (natLe 2 r.code ++ natLe 1 r.sev ++ natLe 1 r.func ++ natLe 4 r.unit ++ natLe 8 r.tstep ++ natLe 8 r.data0.toNat ++
    natLe 8 r.data1.toNat)
def MailRec.bytes (r : MailRec) : List Byte :=
  padTo 64 (natLe 4 r.ticket ++ natLe 1 r.stream ++ natLe 1 (if r.withheld then 1 else 0) ++ natLe 2 r.cause ++ natLe 2 r.queue ++
    natLe 2 r.graph ++ natLe 2 (r.lcore % 1024) ++ natLe 2 0 ++ natLe 8 r.taskidx.toNat ++ natLe 8 r.epc.toNat ++ natLe 8 r.tval.toNat)

/-- Frames that the frame hash places on a pseudo-channel of a die (R10, R156): one in each whole run of 128 frames, and one in the last run of
100 where the hash falls in it. -/
def channelFrames (ch : Nat) : Nat :=
  let u := Config.dieBytes / 4096 / 128
  u + if (ch ^^^ (u % 128) ^^^ (u / 2 ^ 7 % 128) ^^^ (u / 2 ^ 14 % 32)) < Config.dieBytes / 4096 % 128 then 1 else 0
/-- RETIRED of DIEEN (R12). -/
def State.retiredOn (s : State) (d : Nat) : Nat :=
  let alone := s.retired.filter fun f => homeDie (4096 * f) == d && !s.fenced.contains (d, channelOf (4096 * f))
  alone.length + (((s.fenced.filter fun x => x.1 == d).map fun x => channelFrames x.2)).sum
/-- DIEEN (R12). Log 104: DESIGN CHOICE. -/
def State.dieEn (s : State) (d : Nat) : W64 :=
  let m := s.clen[Fin.ofNat 8 d]
  BitVec.ofNat 64 (m * 2 ^ 48 + min 127 (s.fenced.filter fun x => x.1 == d).length * 2 ^ 40 + min 0xFFFFF (s.retiredOn d) * 2 ^ 16 +
    coresIn m * 2 ^ 8)
/-- The lane masks of ports from `p` on (R12). -/
def State.laneBits (s : State) (p n : Nat) : W64 :=
  BitVec.ofNat 64 ((List.range n).map fun i => s.lanes[Fin.ofNat 18 (p + i)] * 2 ^ (4 * i)).sum
/-- BISTRES (R261). Log 73: DEDUCED. -/
def State.bistRes (s : State) : W64 :=
  BitVec.ofNat 64 ((if s.bistSel.isSome then 2 ^ 63 else 0) + match s.bistFail with | some u => 2 ^ 62 + u % 2 ^ 32 | none => 0)
def State.tlbiReg (s : State) : W64 := if s.tlbiNow.isSome then s.tlbiCtl ||| (1#64 <<< 63) else s.tlbiCtl
def HWin.word (h : HWin) : W64 := BitVec.ofNat 64 (h.basehi % 2 ^ 32 * 2 ^ 32 + (if h.en then 2 ^ 31 else 0) + h.func % 256)
def State.maskOf (s : State) (f : Nat) : Nat := ((s.l2mask.find? fun x => x.1 == f).map (·.2)).getD 0xFFFF
def State.zsOf (s : State) (f : Nat) : Nat := ((s.zscount.find? fun x => x.1 == f).map (·.2)).getD 0

/-- A register of a function's view; an offset with none reads 0 (R389). -/
def State.viewReg (s : State) (func off : Nat) : W64 :=
  let l := s.logOf func
  let m := s.mailboxOf func
  if 0x0100 ≤ off && off < 0x0140 then s.dieEn ((off - 0x0100) / 8)
  else if off = 0x0140 then s.laneBits 0 16
  else if off = 0x0148 then s.laneBits 16 2
  else if off = 0x0150 then BitVec.ofNat 64 (s.zsOf func)
  else if off = 0x5000 then BitVec.ofNat 64 m.tail
  else if off = 0x5008 then BitVec.ofNat 64 m.head
  else if off = 0x7000 then BitVec.ofNat 64 (l.tail % 2 ^ 63 + if l.overflow then 2 ^ 63 else 0)
  else if off = 0x7008 then BitVec.ofNat 64 l.head
  else if func != 0 then 0
  else if 0x2000 ≤ off && off < 0x2800 then BitVec.ofNat 64 (s.maskOf ((off - 0x2000) / 8))
  else if off = 0x3000 then s.tlbiVa
  else if off = 0x3008 then s.tlbiReg
  else if off = 0x7108 then s.bistRes
  else if 0x7800 ≤ off && off < 0x8000 then (s.hwinOf ((off - 0x7800) / 8)).word
  else 0

/-- A byte of a function's view: a register's, or a record's. -/
def State.viewByte (s : State) (func off : Nat) : Byte :=
  if 0x4000 ≤ off && off < 0x5000 then
    ((((s.mailboxOf func).recs.find? fun r => r.1 == (off - 0x4000) / 64).map (·.2.bytes)).getD []).getD (off % 64) 0
  else if 0x6000 ≤ off && off < 0x7000 then
    ((((s.logOf func).recs.find? fun r => r.1 == (off - 0x6000) / 64).map (·.2.bytes)).getD []).getD (off % 64) 0
  else BitVec.ofNat 8 ((s.viewReg func (off / 8 * 8)).toNat / 2 ^ (8 * (off % 8)))

/-- ELHEAD (R262). -/
def State.elhead (s : State) (func : Nat) (v : W64) : State := s.setLog { s.logOf func with head := v.toNat, overflow := false }
def execElheadWrite (func : Nat) (v : W64) (s : State) := s.arrival fun s => if s.tdiError func then s else s.elhead func v

/-- BISTCTL (R261): GO starts a run, which waits until no task is resident on the clusters that it selects. -/
def State.bistGo (s : State) (v : W64) : State :=
  if v.getLsbD 63 && s.bistSel.isNone then { s with bistSel := some (v.toNat % 128) } else s
def execBistRequest (v : W64) (s : State) := s.arrival fun s => s.bistGo v
/-- BIST_DONE (R260, R261): a run ends once it holds its clusters; a failing one names a unit and writes record 0x0802. Log 73: DEDUCED. -/
def State.bistDone (s : State) (fail : Option Nat) : State :=
  match s.bistSel with
  | none => s
  | some sel =>
    if (s.cores.any fun k => k.task.isSome && inBist sel k.id) || !fail.all unitOk then s
    else
      let s := { s with bistSel := none, bistFail := fail }
      match fail with
      | some u => s.errRec 0x0802 1 0 (u % 2 ^ 32) (BitVec.ofNat 64 u) 0
      | none => s
def execBistDone (fail : Option Nat) (s : State) := s.service fun s => s.bistDone fail

/-- A host window register (R267). -/
def State.setHwin (s : State) (w : Nat) (v : W64) : State :=
  { s with hwin := ⟨w, v.toNat / 2 ^ 32, v.getLsbD 31, v.toNat % 256⟩ :: s.hwin.filter fun h => h.w != w }

/-- A write to the physical function's registers. -/
def State.pfWrite (s : State) (off : Nat) (v : W64) : State :=
  if 0x2000 ≤ off && off < 0x2800 then
    let f := (off - 0x2000) / 8
    { s with l2mask := (f, v.toNat % 2 ^ 16) :: s.l2mask.filter fun x => x.1 != f }
  else if off = 0x3000 then { s with tlbiVa := v &&& 0x01FFFFFFFFFFF000#64 }
  else if off = 0x3008 then (if v.toNat / 2 ^ 20 % 4 = 3 then s else s.tlbiWrite (v.toNat / 2 ^ 20 % 4) v)
  else if off = 0x7100 then s.bistGo v
  else if 0x7800 ≤ off && off < 0x8000 then s.setHwin ((off - 0x7800) / 8) v
  else s
/-- CSR_VIEW_WRITE (R389): a write of 8 aligned bytes; any other changes nothing. Log 67: DEDUCED. -/
def State.viewWrite (s : State) (func off width : Nat) (v : W64) : State :=
  if s.viral || width != 8 || off % 8 != 0 || s.tdiError func then s
  else if off = 0x5008 then s.setMailbox { s.mailboxOf func with head := v.toNat % 2 ^ 32 }
  else if off = 0x5010 then
    if v.getLsbD 63 then s.fmAbort func (v.toNat % 2 ^ 32)
    else if s.tlbiNow.isSome then s.holdStep (.fmresumeResume func (v.toNat % 2 ^ 32))
    else s.fmResume func (v.toNat % 2 ^ 32)
  else if off = 0x7008 then s.elhead func v
  else if func = 0 then s.pfWrite off v
  else s
def execCsrViewWrite (func off width : Nat) (v : W64) (s : State) := s.service fun s => s.viewWrite func off width v

/-! ### Keys and images (R273, R274) -/

def KeySlot.usable (k : KeySlot) : Bool := k.filled && !k.revoked
def State.keySlot (s : State) (i : Nat) : KeySlot := s.keys[Fin.ofNat 4 i]
/-- A request is signed by a usable slot other than the one it acts on. Log 4: DESIGN CHOICE. -/
def State.signedByOther (s : State) (slot signer : Nat) (body sig : List Byte) : Bool :=
  signer < 4 && signer != slot && (s.keySlot signer).usable && Config.ed448Verify (s.keySlot signer).key (Config.shake256 body) sig
/-- KEY_SLOT_FILL: a fuse slot is filled once. Log 74: DESIGN CHOICE. -/
def State.keyFill (s : State) (slot : Nat) (key : List Byte) (signer : Nat) (sig : List Byte) : State :=
  if slot < 4 && !(s.keySlot slot).filled && s.signedByOther slot signer (natLe 1 slot ++ key) sig then
    { s with keys := s.keys.set (Fin.ofNat 4 slot) ⟨key, true, false⟩ }
  else s
/-- KEY_SLOT_REVOKE: refused where no usable slot would be left. Log 74: DESIGN CHOICE. -/
def State.keyRevoke (s : State) (slot signer : Nat) (sig : List Byte) : State :=
  if slot < 4 && (s.keySlot slot).usable && s.signedByOther slot signer (natLe 1 slot) sig &&
      (List.range 4).any (fun i => i != slot && (s.keySlot i).usable) then
    { s with keys := s.keys.set (Fin.ofNat 4 slot) { s.keySlot slot with revoked := true } }
  else s
def execKeySlotFill (slot : Nat) (key : List Byte) (signer : Nat) (sig : List Byte) (s : State) : Host.Outcome State Fault Refusal :=
  .next (s.keyFill slot key signer sig)
def execKeySlotRevoke (slot signer : Nat) (sig : List Byte) (s : State) : Host.Outcome State Fault Refusal := .next (s.keyRevoke slot signer sig)

/-- An image verifies against a usable slot. Log 4: DESIGN CHOICE. -/
def State.imageOk (s : State) (img : List Byte × List Byte) : Bool :=
  (List.range 4).any fun i => (s.keySlot i).usable && Config.ed448Verify (s.keySlot i).key (Config.shake256 img.1) img.2
/-- GOLDEN_IMAGE_REPLACE: only while FWREC is asserted. -/
def execGoldenImageReplace (img sig : List Byte) (s : State) : Host.Outcome State Fault Refusal :=
  .next (if s.fwrec && s.imageOk (img, sig) then { s with golden := (img, sig) } else s)

/-! ### Reset (R10, R11, R260, R274) -/

/-- A failing unit of a cluster, whose loss the module survives by disabling the cluster. -/
def inCluster (u : Nat) : Bool := unitDie u < 8 && unitCluster u < 8 && unitSub u < 8
def isChannel (u : Nat) : Bool := unitDie u < 8 && unitSub u == 0x12 && unitIndex u < 128
def isLane (u : Nat) : Bool := unitSub u == 0x21 && unitIndex u < 72
/-- CLEN of a die after BIST. -/
def clenAfter (fails : List Nat) (d : Nat) : Nat :=
  ((List.range 8).filter fun c => !(fails.any fun u => inCluster u && unitDie u == d && unitCluster u == c)).foldl (fun m c => m + 2 ^ c) 0
/-- Every failing unit can leave service alone, and every die keeps a cluster. -/
def bistPasses (fails : List Nat) : Bool :=
  fails.all (fun u => inCluster u || isChannel u || isLane u) && (List.range 8).all fun d => clenAfter fails d != 0
/-- The lanes of a port after BIST. -/
def lanesAfter (fails : List Nat) (p : Nat) : Nat :=
  ((List.range 4).filter fun l => !(fails.any fun u => isLane u && unitIndex u == 4 * p + l)).foldl (fun m l => m + 2 ^ l) 0

/-- MODULE_RESET: BIST decides what is in service, the boot ROM loads the images, or the golden image with FWREC. Fuses, the golden partition,
enrolment and what lies outside the module stay (log entry 60); everything else is as State.reset has it. Log 60: DESIGN CHOICE; log 73: DEDUCED. -/
def State.moduleReset (s : State) (r0 : ResetIn) : State :=
  let r := { r0 with fails := r0.fails.filter unitOk }
  let s1 := { State.reset with
    agenda := s.agenda, freeNo := s.freeNo, host := s.host, peers := s.peers, peerTags := s.peerTags, keys := s.keys, golden := s.golden
    flash := (r.insole, r.upper), fwrec := r.fwrec, domain := s.domain, members := s.members, tenants := s.tenants, powerCap := s.powerCap
    clen := Vector.ofFn fun (d : Fin 8) => clenAfter r.fails d.val
    lanes := Vector.ofFn fun (p : Fin 18) => lanesAfter r.fails p.val
    fenced := (r.fails.filter isChannel).map fun u => (unitDie u, unitIndex u)
    bistFail := r.fails.head? }
  let s2 := r.fails.foldl (fun s u => s.errRec 0x0801 1 0 (u % 2 ^ 32) (BitVec.ofNat 64 u) 0) s1
  if !bistPasses r.fails then { s2 with inReset := true }
  else if r.fwrec then s2.errRec 0x0902 0 0 0 0 0
  else if !s2.imageOk r.insole then State.errRec { s2 with inReset := true } 0x0901 1 0 0 0 0
  else if !s2.imageOk r.upper then State.errRec { s2 with inReset := true } 0x0901 1 0 0 1 0
  else s2
def execModuleReset (r : ResetIn) (s : State) : Host.Outcome State Fault Refusal := .next (s.moduleReset r)

/-! ### Management and TDISP (R268, R275) -/

/-- The measurements that SPDM carries: the two images and the policy table. -/
def Policy.bytes (p : Policy) : List Byte :=
  natLe 2 p.idx ++ natLe 1 p.dkind ++ natLe 32 p.lset.toNat ++ natLe 8 p.dest ++ natLe 8 p.dlo ++ natLe 8 p.dhi ++ natLe 8 p.remaining ++
    natLe 8 p.expiry ++ natLe 2 p.graph ++ natLe 1 (if p.greq then 1 else 0)
/-- Log 4: DESIGN CHOICE. -/
def State.measurements (s : State) : List Byte :=
  Config.shake256 s.flash.1.1 ++ Config.shake256 s.flash.2.1 ++ Config.shake256 (s.policies.flatMap Policy.bytes)
/-- MCTP_REQUEST: it works in the viral state too. -/
def State.mctp (s : State) : MctpReq → State
  | .spdm => { s with reply := .mctp s.measurements }
  | .readLog n =>
    { s with reply := .mctp ((((s.logOf 0).recs.find? fun r => r.1 == n % 64).map (·.2.bytes)).getD (List.replicate 64 0)) }
  | .readBist => { s with reply := .mctp (natLe 8 s.bistRes.toNat) }
  | .keyFill slot key signer sig => s.keyFill slot key signer sig
  | .keyRevoke slot signer sig => s.keyRevoke slot signer sig
def execMctpRequest (r : MctpReq) (s : State) : Host.Outcome State Fault Refusal := .next (s.mctp r)

def State.tdiOf (s : State) (f : Nat) : TdiSt := ((s.tdi.find? fun t => t.1 == f).map (·.2)).getD .unlocked
/-- TDISP_REQUEST: the states of a TDI; ERROR is left by a lock alone. -/
def tdiNext : TdiSt → Tdisp → TdiSt
  | .unlocked, .lock => .locked
  | .error, .lock => .locked
  | .locked, .run => .run
  | _, .error => .error
  | .locked, .unlock => .unlocked
  | .run, .unlock => .unlocked
  | t, _ => t
def State.tdisp (s : State) (f : Nat) (op : Tdisp) : State :=
  if f = 0 || 256 ≤ f then s
  else { s with tdi := (f, tdiNext (s.tdiOf f) op) :: s.tdi.filter fun t => t.1 != f }
def execTdispRequest (f : Nat) (op : Tdisp) (s : State) := s.service fun s => s.tdisp f op

/-- HOST_LINK_ERROR_CORRECTED (R263). -/
def execHostLinkErrorCorrected (status : W64) (s : State) := s.service fun s => s.errRec 0x0203 0 0 0 status 0

/-! ### Frames, channels, lanes (R10, R12, R156, R272) -/

/-- A location in a frame. -/
def Loc.inFrame (f : Nat) : Loc → Bool
  | .mem pa => paClass pa == 0 && frameOf pa == f
  | _ => false
/-- Something in flight names a byte of the frame. -/
def Strm.touches (f : Nat) (t : Strm) : Bool :=
  (t.lq.any fun e => match e.kind with | .load need .. => need.any fun x => x.2.1.inFrame f | _ => false) ||
  (t.sq.any fun e => match e.kind with
    | .store b .. => b.any fun x => x.1.inFrame f
    | .atomic (.amo l ..) => l.inFrame f
    | _ => false) ||
  t.posted.any fun p => p.bytes.any fun b => paClass b.1 == 2 && frameOf (peerPa b.1) == f
def Core.touches (f : Nat) (k : Core) : Bool :=
  (streams.any fun st => (k.strm st).touches f) ||
    (k.drains.any fun d => d.rows.any fun r => r.any fun x => decide (frameOf x.pa ≤ f) && decide (f ≤ frameOf (x.pa + x.len - 1))) ||
    (k.dacc.any fun r => r.pas.any fun pa => frameOf pa == f) || k.lace.tiles.any fun t => frameOf t.pa == f
/-- Log 72: DEDUCED. -/
def State.frameBusy (s : State) (f : Nat) : Bool :=
  s.cores.any (Core.touches f) || (s.images.any fun i => i.core.touches f) || (s.lqueues.any fun q => frameOf q.pa == f) ||
    (s.regions.any fun r => r.words.any fun w => frameOf w.1 == f) || (s.batches.any fun x => x.tiles.any fun pa => frameOf pa == f)

/-- The entry of a 2 MiB leaf of a tree that covers the frame. -/
def State.bigLeaf (s : State) (f : Nat) : Nat → Nat → Option Nat
  | 0, _ => none
  | l + 1, table =>
    (List.range 512).findSome? fun i =>
      let pa := table + 8 * i
      let e := s.readPte pa
      if !pteV e then none
      else if pteLeaf e then (if ptePFN e ≤ f && f < ptePFN e + 512 then some pa else none)
      else s.bigLeaf f l (ptePFN e * 4096)
/-- The contiguous hints of an entry's group go. -/
def State.clearHints (s : State) (pa : Nat) : State :=
  if pteCH (s.readPte pa) then (List.range 16).foldl (fun s i =>
    let a := pa / 128 * 128 + 8 * i
    { s with mem := memPut s.mem a (natLe 8 (s.readPte a - if pteCH (s.readPte a) then 2048 else 0)) }) s
  else s
/-- The entry names the new frame; a contiguous hint of its group goes. Log 72: DEDUCED. -/
def State.moveEntry (s : State) (old new pa : Nat) : State :=
  if pteV (s.readPte pa) && ptePFN (s.readPte pa) = old then
    let s := s.clearHints pa
    { s with mem := memPut s.mem pa (natLe 8 (s.readPte pa - old * 4096 + new * 4096)) }
  else s
/-- A 2 MiB leaf becomes a table of its 512 pages in frame `f`, with the same rights, policy and A and D bits. Log 72: DEDUCED. -/
def State.splitLeaf (s : State) (pa f : Nat) : State :=
  let s := s.clearHints pa
  let e := s.readPte pa
  let s := s.placeBytes (4096 * f) ((List.range 512).flatMap fun i => natLe 8 (e + 4096 * i))
  { s with mem := memPut s.mem pa (natLe 8 (4096 * f + 1)) }
/-- Every 2 MiB leaf of a registration that covers the frame is split, into tables for which Insole takes free frames; none where it finds none.
Log 72: DEDUCED. -/
def State.splitBig (s : State) (old new : Nat) (g : Graph) : Nat → Option State
  | 0 => none
  | n + 1 =>
    match s.bigLeaf old 4 g.reg.root with
    | none => some s
    | some pa =>
      match ((List.range 4096).map (new + 1 + ·)).find? s.freeFrame with
      | none => none
      | some f =>
        let s := s.splitLeaf pa f
        let s := { s with graphs := s.graphs.map fun (x : Graph) =>
          if x.reg.handle = g.reg.handle then { x with reg := { x.reg with tables := f :: x.reg.tables } } else x }
        s.splitBig old new g n
def State.splitAll (s : State) (old new : Nat) : List Graph → Option State
  | [] => some s
  | g :: r => (s.splitBig old new g 512).bind fun s => s.splitAll old new r
/-- Every entry of a tree that names the old frame names the new one. -/
def retarget (old new : Nat) : Nat → Nat → State → State
  | 0, table, s => (List.range 512).foldl (fun s i => s.moveEntry old new (table + 8 * i)) s
  | l + 1, table, s => (List.range 512).foldl (fun s i =>
      let s := s.moveEntry old new (table + 8 * i)
      let e := s.readPte (table + 8 * i)
      if pteV e && !pteLeaf e then retarget old new l (ptePFN e * 4096) s else s) s

def swapFrame (old new f : Nat) : Nat := if f = old then new else f

end Sys2Proof.Machine

namespace Sys2Proof
open Sys2Proof.Machine

def Placed.swap (old new : Nat) (p : Placed) : Placed := { p with frames := p.frames.map (swapFrame old new) }
/-- A registration whose frame has moved. -/
def GraphReg.swap (old new : Nat) (g : GraphReg) : GraphReg :=
  { g with
    images := g.images.map fun t => { t with text := t.text.map (fun x => (x.1, x.2.swap old new)), data := t.data.map (Placed.swap old new) }
    nodes := g.nodes.map fun n => { n with blocks := n.blocks.map (Placed.swap old new) }
    root := if g.root = 4096 * old then 4096 * new else g.root
    tables := g.tables.map (swapFrame old new), ctxFrames := g.ctxFrames.map (swapFrame old new) }

end Sys2Proof

namespace Sys2Proof.Machine
open Sys2Proof

/-- The contents of a frame move to another under the same virtual addresses and label (R10, R247): memory, poison, tag, the entries that map it.
Cached copies and translations of it are gone. Nothing happens where an access is in flight there, where an invalidation is in progress (R391), or
where the new frame is not free. Log 72: DEDUCED. -/
def State.migrate (s : State) (old new : Nat) : Option State :=
  if !deviceOk (4096 * old) || !s.freeFrame new || s.frameBusy old || s.retired.contains old || s.tlbiNow.isSome then none
  else match s.splitAll old new s.graphs with
  | none => none
  | some s =>
    let t := s.tagOf (4096 * old)
    let bs := memBytes s.mem (4096 * old) 4096
    let bad := (s.poison.filter fun u => u / 64 == old).map fun u => 64 * new + u % 64
    let s := s.placeBytes (4096 * new) bs
    let s := s.placeBytes (4096 * old) (List.replicate 4096 0)
    let s := { s with poison := bad ++ s.poison.filter fun u => u / 64 != old }
    let s := (s.setTag { t with frame := new }).setTag ⟨old, 0, none, true⟩
    let page := fun (f : Nat) => decide (s.qcbBase ≤ 4096 * f) && decide (4096 * f < s.qcbBase + 2 ^ 20)
    let s := { s with
      jointFrames := s.jointFrames.map fun (x : Nat × Label) => (swapFrame old new x.1, x.2)
      qcbMoved := (if page old && !(s.qcbMoved.any fun (x : Nat × Nat) => x.1 == old) then [(old, new)] else []) ++
        s.qcbMoved.map fun (x : Nat × Nat) => (x.1, swapFrame old new x.2) }
    let s := { s with graphs := s.graphs.map fun (g : Graph) => { g with reg := g.reg.swap old new } }
    let root := fun (k : Core) => { k with task := k.task.map fun (t : Task) => { t with root := if t.root = 4096 * old then 4096 * new else t.root } }
    let s := s.mapCores root
    let s := { s with images := s.images.map fun (i : Image) => { i with core := root i.core } }
    let s := s.graphs.foldl (fun (s : State) (g : Graph) => retarget old new 4 g.reg.root s) s
    some (s.dropTlb ⟨0, 0, 0, true⟩)

/-- FRAME_RETIRE (R10, R12). Log 72: DEDUCED. -/
def State.frameRetire (s : State) (old new : Nat) : State :=
  match s.migrate old new with
  | none => s
  | some s => State.errRec { s with retired := old :: s.retired } 0x0103 1 0 0 (BitVec.ofNat 64 (4096 * old)) (BitVec.ofNat 64 (4096 * new))
def execFrameRetire (old new : Nat) (s : State) := s.service fun s => s.frameRetire old new

def State.migrateAll (s : State) : List (Nat × Nat) → Option State
  | [] => some s
  | (o, n) :: r => match s.migrate o n with | some s => State.migrateAll s r | none => none
/-- PSEUDO_CHANNEL_FENCE (R10, R156): every used frame of the channel moves off it, none onto it. Log 72: DEDUCED. -/
def State.channelFence (s : State) (d ch : Nat) (moves : List (Nat × Nat)) : State :=
  let on := fun (f : Nat) => homeDie (4096 * f) == d && channelOf (4096 * f) == ch
  let used := (((s.tags.filter fun t => t.owner.isSome || t.lab != 0).map (·.frame)) ++ (s.graphs.flatMap fun g => g.reg.tables) ++
    (s.mem.map fun c => frameOf c.1) ++ (s.qcbMoved.map (·.2)) ++ (List.range 256).map fun i => s.qcbBase / 4096 + i).filter fun f => !s.retired.contains f
  if 8 ≤ d || 128 ≤ ch || s.fenced.contains (d, ch) || !(used.filter on).all (fun f => moves.any fun m => m.1 == f) ||
      !moves.all (fun m => on m.1 && !on m.2) then s
  else match s.migrateAll moves with
    | none => s
    | some s => State.errRec { s with fenced := (d, ch) :: s.fenced } 0x0104 1 0 (unitName d 15 31 0x12 ch) (BitVec.ofNat 64 ch)
        (BitVec.ofNat 64 (channelFrames ch))
def execPseudoChannelFence (d ch : Nat) (moves : List (Nat × Nat)) (s : State) := s.service fun s => s.channelFence d ch moves

/-- STRAP_LANE_DOWN (R10, R272): a port with no lanes left is down. -/
def State.laneDown (s : State) (port lane : Nat) : State :=
  if 18 ≤ port || 4 ≤ lane then s
  else
    let p : Fin 18 := Fin.ofNat 18 port
    let m := s.lanes[p]
    if m / 2 ^ lane % 2 = 0 then s
    else
      let s := State.errRec { s with lanes := s.lanes.set p (m - 2 ^ lane) } 0x0201 1 0 (unitName 8 15 31 0x21 (4 * port + lane))
        (BitVec.ofNat 64 port) (BitVec.ofNat 64 lane)
      if m = 2 ^ lane then s.errRec 0x0202 1 0 0 (BitVec.ofNat 64 port) 0 else s
def execStrapLaneDown (port lane : Nat) (s : State) := s.service fun s => s.laneDown port lane

/-! ### Power and temperature (R276) -/

/-- The sensors: 0 is the module's power in watts, 1 to 8 are the compute dies and 9 to 24 the HBM stacks, in degrees. A reading throttles at its
limit. Log 75: DESIGN CHOICE. -/
def State.throttles (s : State) (sensor reading : Nat) : Bool :=
  if sensor = 0 then decide (s.powerCap < reading) else decide (sensor ≤ 24) && decide (95 ≤ reading)
/-- A reading shuts the module down at its limit (R276). Log 75: DESIGN CHOICE. -/
def shutsDown (sensor reading : Nat) : Bool :=
  decide (1 ≤ sensor) && decide (sensor ≤ 24) && decide ((if sensor ≤ 8 then 110 else 105) ≤ reading)
/-- THERMAL_THROTTLE: a reading at its limit throttles, with record 0x0A01, and one below it ends that. Throttling withholds issue cycles, which
changes no result. Log 75: DESIGN CHOICE. -/
def State.thermal (s : State) (sensor reading : Nat) : State :=
  if s.throttles sensor reading then
    State.errRec { s with throttle := true } 0x0A01 0 0 0 (BitVec.ofNat 64 sensor) (BitVec.ofNat 64 reading)
  else { s with throttle := false }
def execThermalThrottle (sensor reading : Nat) (s : State) := s.service fun s => s.thermal sensor reading
/-- OVER_TEMP_SHUTDOWN: a reading at its limit is a viral event. -/
def execOverTempShutdown (sensor reading : Nat) (s : State) := s.service fun s =>
  if shutsDown sensor reading then s.errRec 0x0A02 2 0 0 (BitVec.ofNat 64 sensor) (BitVec.ofNat 64 reading) else s

end Sys2Proof.Machine
end

