-- ==== Sys2Proof/Machine/Fetch.lean ====
section
/-! DEFINITION. Which step comes next, and where the next instruction word is placed for a run that begins with it. -/

namespace Sys2Proof.Machine
open Sys2Proof

/-- Instruction words, which only a fetch brings to their stream; the steps of the agenda are the others. Log 1: DESIGN CHOICE. -/
def isWord (i : Instr) : Bool := (encode i).isSome

/-- The next step: the first step of the agenda; with none, the close of a beat whose 256 clocks have passed; else the fetch of the stream in focus
(log entry 1). Log 1: DESIGN CHOICE. -/
def State.pick (s : State) : Instr × State :=
  match s.agenda.dropWhile isWord with
  | e :: r => (e, { s with agenda := r, ir := none })
  | [] =>
    if s.ownBeat && Config.beatClocks ≤ s.beatClk && !s.inReset then (.beatClose, { s with agenda := [], ir := none })
    else (.wordFetch s.core.id s.core.cur, { s with agenda := [], ir := none })

/-- A stream that is to run one word at `pc`. -/
def fetchStrm (st : Stream) (pc : W64) : Strm := { Strm.reset st with pc := pc, ended := false }
/-- The core that the words of a table row run on: a dispatch core, or a compute core with a task of a space of its own. -/
def fetchCore (k : Core) (dispatch : Bool) (st : Stream) : Core :=
  if dispatch then { k with cur := .c, c := fetchStrm .c 0x6000 }
  else { k.setStrm st (fetchStrm st 0x1000) with
    cur := st, killed := none, ending := false
    task := some ⟨0, 0, 0, 0, 0, 0, 0, 0, 0x1000, 0, 0, [], false, false⟩ }
/-- The page table of that space: tables in frames 1 to 5, the text page in frame 6 (R182, R386). -/
def fetchTables (st : Stream) (m : List Host.Cell) : List Host.Cell :=
  let ptr := fun (m : List Host.Cell) (f : Nat) => memPut m (4096 * f) (natLe 8 (4096 * (f + 1) + 1))
  memPut (ptr (ptr (ptr (ptr m 1) 2) 3) 4) 0x5008 (natLe 8 (textPte st 6 + 512))
/-- The machine with a word where the next step fetches it, on the first stream whose table has it. Log 1: DESIGN CHOICE. -/
def State.loadWord (s : State) (w : Nat) : State :=
  let x := ((decodeTable w).map fun x => (x.1, x.2.1)).getD (false, .c)
  let s := s.focus (if x.1 then 1024 else if s.core.dispatch then 0 else s.core.id)
  { s with
    agenda := [], ir := none, viral := false, inReset := false, beatClk := 0
    core := fetchCore s.core x.1 x.2
    mem := memPut (if x.1 then s.mem else fetchTables x.2 s.mem) 0x6000 (natLe 4 w) }

end Sys2Proof.Machine
end

