-- ==== Sys2Proof/Machine/Dispatch.lean ====
section
/-! DEFINITION. The meaning of every instruction and step: one arm per constructor of Instr. -/

namespace Sys2Proof.Machine
open Sys2Proof

def exec (i : Instr) (s : State) : Host.Outcome State Fault Refusal :=
  match i with
  | .add h d a b => Sys2Proof.Machine.execAdd h d a b s
  | .addImm h d a im => Sys2Proof.Machine.execAddImm h d a im s
  | .sub h d a b => Sys2Proof.Machine.execSub h d a b s
  | .mul h d a b => Sys2Proof.Machine.execMul h d a b s
  | .mulh h d a b u => Sys2Proof.Machine.execMulh h d a b u s
  | .div h d a b u => Sys2Proof.Machine.execDiv h d a b u s
  | .rem h d a b u => Sys2Proof.Machine.execRem h d a b u s
  | .and h d a b => Sys2Proof.Machine.execAnd h d a b s
  | .andImm h d a im => Sys2Proof.Machine.execAndImm h d a im s
  | .or h d a b => Sys2Proof.Machine.execOr h d a b s
  | .orImm h d a im => Sys2Proof.Machine.execOrImm h d a im s
  | .xor h d a b => Sys2Proof.Machine.execXor h d a b s
  | .xorImm h d a im => Sys2Proof.Machine.execXorImm h d a im s
  | .shl h d a b m => Sys2Proof.Machine.execShl h d a b m s
  | .shr h d a b m => Sys2Proof.Machine.execShr h d a b m s
  | .sra h d a b m => Sys2Proof.Machine.execSra h d a b m s
  | .slt h d a b => Sys2Proof.Machine.execSlt h d a b s
  | .sltImm h d a im => Sys2Proof.Machine.execSltImm h d a im s
  | .sltu h d a b => Sys2Proof.Machine.execSltu h d a b s
  | .min h d a b u => Sys2Proof.Machine.execMin h d a b u s
  | .max h d a b u => Sys2Proof.Machine.execMax h d a b u s
  | .clz h d a => Sys2Proof.Machine.execClz h d a s
  | .popc h d a => Sys2Proof.Machine.execPopc h d a s
  | .csel h d a b => Sys2Proof.Machine.execCsel h d a b s
  | .lui h d im => Sys2Proof.Machine.execLui h d im s
  | .br h cc a b o => Sys2Proof.Machine.execBr h cc a b o s
  | .jal h d im => Sys2Proof.Machine.execJal h d im s
  | .jalr h d a im => Sys2Proof.Machine.execJalr h d a im s
  | .ld h d a z c o => Sys2Proof.Machine.execLd h d a z c o s
  | .st h d a z c o => Sys2Proof.Machine.execSt h d a z c o s
  | .amoW h d a b p c => Sys2Proof.Machine.execAmoW h d a b p c s
  | .amoD h d a b p c => Sys2Proof.Machine.execAmoD h d a b p c s
  | .cas h d a b z c => Sys2Proof.Machine.execCas h d a b z c s
  | .daccOpen h a b => Sys2Proof.Machine.execDaccOpen h a b s
  | .daccAdd h a b => Sys2Proof.Machine.execDaccAdd h a b s
  | .daccAddx h a b => Sys2Proof.Machine.execDaccAddx h a b s
  | .daccRead h d a => Sys2Proof.Machine.execDaccRead h d a s
  | .daccClose h a => Sys2Proof.Machine.execDaccClose h a s
  | .fence h n c => Sys2Proof.Machine.execFence h n c s
  | .qalign h => Sys2Proof.Machine.execQalign h s
  | .fmtq h a => Sys2Proof.Machine.execFmtq h a s
  | .nstset h d t v f => Sys2Proof.Machine.execNstset h d t v f s
  | .rgset h d r f => Sys2Proof.Machine.execRgset h d r f s
  | .rgqry h d r n => Sys2Proof.Machine.execRgqry h d r n s
  | .lbget h d a => Sys2Proof.Machine.execLbget h d a s
  | .lbchk h d a b => Sys2Proof.Machine.execLbchk h d a b s
  | .lcdecl h a => Sys2Proof.Machine.execLcdecl h a s
  | .lcsub h d a => Sys2Proof.Machine.execLcsub h d a s
  | .lcwait h => Sys2Proof.Machine.execLcwait h s
  | .lcend h => Sys2Proof.Machine.execLcend h s
  | .cqput h a q => Sys2Proof.Machine.execCqput h a q s
  | .csrr h d c => Sys2Proof.Machine.execCsrr h d c s
  | .csrw h d a c => Sys2Proof.Machine.execCsrw h d a c s
  | .trap h im => Sys2Proof.Machine.execTrap h im s
  | .eret h => Sys2Proof.Machine.execEret h s
  | .wfe h => Sys2Proof.Machine.execWfe h s
  | .yield h => Sys2Proof.Machine.execYield h s
  | .taskend h => Sys2Proof.Machine.execTaskend h s
  | .launch h d a b => Sys2Proof.Machine.execLaunch h d a b s
  | .aadd h d a b => Sys2Proof.Machine.execAadd h d a b s
  | .asub h d a b => Sys2Proof.Machine.execAsub h d a b s
  | .amul h d a b => Sys2Proof.Machine.execAmul h d a b s
  | .aand h d a b => Sys2Proof.Machine.execAand h d a b s
  | .aaddImm h d a im => Sys2Proof.Machine.execAaddImm h d a im s
  | .ashl h d a sh => Sys2Proof.Machine.execAshl h d a sh s
  | .ashr h d a sh => Sys2Proof.Machine.execAshr h d a sh s
  | .amovi h d im => Sys2Proof.Machine.execAmovi h d im s
  | .abr h cc a b o => Sys2Proof.Machine.execAbr h cc a b o s
  | .aloop h a o => Sys2Proof.Machine.execAloop h a o s
  | .acqpop h d => Sys2Proof.Machine.execAcqpop h d s
  | .ald h a b r c e m => Sys2Proof.Machine.execAld h a b r c e m s
  | .ast h a b r c e m => Sys2Proof.Machine.execAst h a b r c e m s
  | .agath h a b r x p e => Sys2Proof.Machine.execAgath h a b r x p e s
  | .ascat h a b r x e => Sys2Proof.Machine.execAscat h a b r x e s
  | .acopy h d a b c => Sys2Proof.Machine.execAcopy h d a b c s
  | .azero h d b c => Sys2Proof.Machine.execAzero h d b c s
  | .apref h a b => Sys2Proof.Machine.execApref h a b s
  | .axput h a b r c e => Sys2Proof.Machine.execAxput h a b r c e s
  | .aamo h d a b p z => Sys2Proof.Machine.execAamo h d a b p z s
  | .aidx h d r => Sys2Proof.Machine.execAidx h d r s
  | .awfill h n r => Sys2Proof.Machine.execAwfill h n r s
  | .awfree h n r => Sys2Proof.Machine.execAwfree h n r s
  | .afence h n c => Sys2Proof.Machine.execAfence h n c s
  | .vadd h d a b x => Sys2Proof.Machine.execVadd h d a b x s
  | .vsub h d a b x => Sys2Proof.Machine.execVsub h d a b x s
  | .vmul h d a b x => Sys2Proof.Machine.execVmul h d a b x s
  | .vfma h d a b x => Sys2Proof.Machine.execVfma h d a b x s
  | .vmin h d a b x => Sys2Proof.Machine.execVmin h d a b x s
  | .vmax h d a b x => Sys2Proof.Machine.execVmax h d a b x s
  | .vabs h d a x => Sys2Proof.Machine.execVabs h d a x s
  | .vand h d a b x => Sys2Proof.Machine.execVand h d a b x s
  | .vor h d a b x => Sys2Proof.Machine.execVor h d a b x s
  | .vxor h d a b x => Sys2Proof.Machine.execVxor h d a b x s
  | .vshl h d a b x => Sys2Proof.Machine.execVshl h d a b x s
  | .vshr h d a b x => Sys2Proof.Machine.execVshr h d a b x s
  | .vcvt h d a t u n q => Sys2Proof.Machine.execVcvt h d a t u n q s
  | .vqnt h d a b m => Sys2Proof.Machine.execVqnt h d a b m s
  | .vdqnt h d a b m => Sys2Proof.Machine.execVdqnt h d a b m s
  | .vcmp h c a b x => Sys2Proof.Machine.execVcmp h c a b x s
  | .vsel h d a b x => Sys2Proof.Machine.execVsel h d a b x s
  | .vmask h n => Sys2Proof.Machine.execVmask h n s
  | .vmov h d a x => Sys2Proof.Machine.execVmov h d a x s
  | .vmovImm h d im => Sys2Proof.Machine.execVmovImm h d im s
  | .vbcr h d a x => Sys2Proof.Machine.execVbcr h d a x s
  | .vbcc h d a x => Sys2Proof.Machine.execVbcc h d a x s
  | .vrotr h d a im => Sys2Proof.Machine.execVrotr h d a im s
  | .vrotc h d a im => Sys2Proof.Machine.execVrotc h d a im s
  | .vredr h d a o => Sys2Proof.Machine.execVredr h d a o s
  | .vredc h d a o => Sys2Proof.Machine.execVredc h d a o s
  | .vtrn h d a => Sys2Proof.Machine.execVtrn h d a s
  | .vsfu h d a f => Sys2Proof.Machine.execVsfu h d a f s
  | .vtopk h d a n => Sys2Proof.Machine.execVtopk h d a n s
  | .viota h d im => Sys2Proof.Machine.execViota h d im s
  | .vld h d p l o => Sys2Proof.Machine.execVld h d p l o s
  | .vst h d p l o => Sys2Proof.Machine.execVst h d p l o s
  | .vpop h d r t x l => Sys2Proof.Machine.execVpop h d r t x l s
  | .vpush h d r t x l => Sys2Proof.Machine.execVpush h d r t x l s
  | .vwaitl h m => Sys2Proof.Machine.execVwaitl h m s
  | .vamo h d p l o f => Sys2Proof.Machine.execVamo h d p l o f s
  | .vmrd h d p r c x => Sys2Proof.Machine.execVmrd h d p r c x s
  | .vcqpop h d => Sys2Proof.Machine.execVcqpop h d s
  | .vsett h z t n u e => Sys2Proof.Machine.execVsett h z t n u e s
  | .vsetix h p q g v => Sys2Proof.Machine.execVsetix h p q g v s
  | .vloop h n g x => Sys2Proof.Machine.execVloop h n g x s
  | .vstg h g => Sys2Proof.Machine.execVstg h g s
  | .mgo h n p l z t => Sys2Proof.Machine.execMgo h n p l z t s
  | .mma h p a b c l z t => Sys2Proof.Machine.execMma h p a b c l z t s
  | .mmas h p a b c z t => Sys2Proof.Machine.execMmas h p a b c z t s
  | .mzero h p => Sys2Proof.Machine.execMzero h p s
  | .mdrainMem h n p => Sys2Proof.Machine.execMdrainMem h n p s
  | .mdrainRing h p c => Sys2Proof.Machine.execMdrainRing h p c s
  | .mswap h => Sys2Proof.Machine.execMswap h s
  | .mwait h p r => Sys2Proof.Machine.execMwait h p r s
  | .mcfg h n x => Sys2Proof.Machine.execMcfg h n x s
  | .mwelt h n => Sys2Proof.Machine.execMwelt h n s
  | .mrstr h n => Sys2Proof.Machine.execMrstr h n s
  | .mbar h => Sys2Proof.Machine.execMbar h s
  | .nop st h => Sys2Proof.Machine.execNop st h s
  | .tkwait st h q => Sys2Proof.Machine.execTkwait st h q s
  | .tksig st h q => Sys2Proof.Machine.execTksig st h q s
  | .troute st h im o => Sys2Proof.Machine.execTroute st h im o s
  | .hold st h n => Sys2Proof.Machine.execHold st h n s
  | .brk st h c => Sys2Proof.Machine.execBrk st h c s
  | .stend st h => Sys2Proof.Machine.execStend st h s
  | .wordFetch c st => Sys2Proof.Machine.execWordFetch c st s
  | .wordRetire c st => Sys2Proof.Machine.execWordRetire c st s
  | .fixedLatencyRetire c => Sys2Proof.Machine.execFixedLatencyRetire c s
  | .vectorLanding c n => Sys2Proof.Machine.execVectorLanding c n s
  | .stitchIssue c => Sys2Proof.Machine.execStitchIssue c s
  | .holdOverrun c st => Sys2Proof.Machine.execHoldOverrun c st s
  | .loadPerform c st page how => Sys2Proof.Machine.execLoadPerform c st page how s
  | .storePerform c st grans => Sys2Proof.Machine.execStorePerform c st grans s
  | .atomicPerform c st => Sys2Proof.Machine.execAtomicPerform c st s
  | .fenceMarkerPerform c st n => Sys2Proof.Machine.execFenceMarkerPerform c st n s
  | .copyDiscard rdc unit line => Sys2Proof.Machine.execCopyDiscard rdc unit line s
  | .postedLeave c st => Sys2Proof.Machine.execPostedLeave c st s
  | .postedArrival c st n => Sys2Proof.Machine.execPostedArrival c st n s
  | .adUpdate c p va k => Sys2Proof.Machine.execAdUpdate c p va k s
  | .daccEntryPerform c => Sys2Proof.Machine.execDaccEntryPerform c s
  | .ringPublishMessage c r => Sys2Proof.Machine.execRingPublishMessage c r s
  | .ringCreditMessage c r => Sys2Proof.Machine.execRingCreditMessage c r s
  | .tileStart c => Sys2Proof.Machine.execTileStart c s
  | .tileStep c => Sys2Proof.Machine.execTileStep c s
  | .drainRow c => Sys2Proof.Machine.execDrainRow c s
  | .raggedWelt c => Sys2Proof.Machine.execRaggedWelt c s
  | .matrixReplay c => Sys2Proof.Machine.execMatrixReplay c s
  | .streamTrap c => Sys2Proof.Machine.execStreamTrap c s
  | .mailboxRecordPost c st => Sys2Proof.Machine.execMailboxRecordPost c st s
  | .fmresumeResume func ticket => Sys2Proof.Machine.execFmresumeResume func ticket s
  | .fmresumeAbort func ticket => Sys2Proof.Machine.execFmresumeAbort func ticket s
  | .heelCheck c heel word => Sys2Proof.Machine.execHeelCheck c heel word s
  | .laceSubmission c => Sys2Proof.Machine.execLaceSubmission c s
  | .beatClose => Sys2Proof.Machine.execBeatClose s
  | .laceBatchExchange d beat => Sys2Proof.Machine.execLaceBatchExchange d beat s
  | .laceMerge d sl => Sys2Proof.Machine.execLaceMerge d sl s
  | .grantStep pa => Sys2Proof.Machine.execGrantStep pa s
  | .laceTileReturn c => Sys2Proof.Machine.execLaceTileReturn c s
  | .beatFlit => Sys2Proof.Machine.execBeatFlit s
  | .kick func q off width val => Sys2Proof.Machine.execKick func q off width val s
  | .slotcmdMap d val => Sys2Proof.Machine.execSlotcmdMap d val s
  | .slotcmdUnmap d val => Sys2Proof.Machine.execSlotcmdUnmap d val s
  | .slotcmdPrio d val => Sys2Proof.Machine.execSlotcmdPrio d val s
  | .slotcmdPreempt d val => Sys2Proof.Machine.execSlotcmdPreempt d val s
  | .slotcmdUnknown d val => Sys2Proof.Machine.execSlotcmdUnknown d val s
  | .pbadd p val => Sys2Proof.Machine.execPbadd p val s
  | .copycmd d val => Sys2Proof.Machine.execCopycmd d val s
  | .bulkCopyChunk d e => Sys2Proof.Machine.execBulkCopyChunk d e s
  | .waveIssue k d => Sys2Proof.Machine.execWaveIssue k d s
  | .kernelComplete k => Sys2Proof.Machine.execKernelComplete k s
  | .preemption c => Sys2Proof.Machine.execPreemption c s
  | .restore q taskidx => Sys2Proof.Machine.execRestore q taskidx s
  | .ownerZeroing z => Sys2Proof.Machine.execOwnerZeroing z s
  | .tlbiAll val => Sys2Proof.Machine.execTlbiAll val s
  | .tlbiSpace val => Sys2Proof.Machine.execTlbiSpace val s
  | .tlbiPage val => Sys2Proof.Machine.execTlbiPage val s
  | .tlbInvalidationDone => Sys2Proof.Machine.execTlbInvalidationDone s
  | .insoleMappingChange handle va lvl pte => Sys2Proof.Machine.execInsoleMappingChange handle va lvl pte s
  | .frameTagWrite pa lab why => Sys2Proof.Machine.execFrameTagWrite pa lab why s
  | .jointRegionRequest r => Sys2Proof.Machine.execJointRegionRequest r s
  | .policyInstall bytes => Sys2Proof.Machine.execPolicyInstall bytes s
  | .policyRemove idx signer => Sys2Proof.Machine.execPolicyRemove idx signer s
  | .graphRegistration g => Sys2Proof.Machine.execGraphRegistration g s
  | .egressWrite c st n => Sys2Proof.Machine.execEgressWrite c st n s
  | .inboundWrite o pa bytes => Sys2Proof.Machine.execInboundWrite o pa bytes s
  | .bar2Read func off len => Sys2Proof.Machine.execBar2Read func off len s
  | .csrViewWrite func off width val => Sys2Proof.Machine.execCsrViewWrite func off width val s
  | .elheadWrite func val => Sys2Proof.Machine.execElheadWrite func val s
  | .bistRequest val => Sys2Proof.Machine.execBistRequest val s
  | .bistDone fail => Sys2Proof.Machine.execBistDone fail s
  | .moduleReset r => Sys2Proof.Machine.execModuleReset r s
  | .keySlotFill slot key signer sig => Sys2Proof.Machine.execKeySlotFill slot key signer sig s
  | .keySlotRevoke slot signer sig => Sys2Proof.Machine.execKeySlotRevoke slot signer sig s
  | .goldenImageReplace img sig => Sys2Proof.Machine.execGoldenImageReplace img sig s
  | .mctpRequest r => Sys2Proof.Machine.execMctpRequest r s
  | .frameRetire old new => Sys2Proof.Machine.execFrameRetire old new s
  | .pseudoChannelFence d ch moves => Sys2Proof.Machine.execPseudoChannelFence d ch moves s
  | .strapLaneDown port lane => Sys2Proof.Machine.execStrapLaneDown port lane s
  | .thermalThrottle sensor reading => Sys2Proof.Machine.execThermalThrottle sensor reading s
  | .overTempShutdown sensor reading => Sys2Proof.Machine.execOverTempShutdown sensor reading s
  | .labelTableReclaim hs => Sys2Proof.Machine.execLabelTableReclaim hs s
  | .tenantEnrolment e => Sys2Proof.Machine.execTenantEnrolment e s
  | .labelDomainEnrolment ident members => Sys2Proof.Machine.execLabelDomainEnrolment ident members s
  | .tdispRequest func op => Sys2Proof.Machine.execTdispRequest func op s
  | .hostLinkErrorCorrected status => Sys2Proof.Machine.execHostLinkErrorCorrected status s
  | .prefetchFill c line => Sys2Proof.Machine.execPrefetchFill c line s
  | .insolePartitionWrite off val => Sys2Proof.Machine.execInsolePartitionWrite off val s

end Sys2Proof.Machine
end

