-- ==== Sys2Proof/Machine/Step.lean ====
section
/-! DEFINITION. One step of the module. -/

namespace Sys2Proof.Machine
open Sys2Proof

/-- The next step has its effect; a word that it has fetched issues at once. Log 1: DESIGN CHOICE. -/
def step (s : State) : Host.Outcome State Fault Refusal :=
  match exec s.pick.1 s.pick.2 with
  | .next t =>
    match t.ir with
    | some x => exec x.2 { t with ir := none }
    | none => .next t
  | .fault f => .fault f
  | .refused r => .refused r

/-- A table row's word, placed where the next step fetches it (log entry 1). Log 1: DESIGN CHOICE. -/
def State.withFetchWord (s : State) (_nbits w : Nat) : State := s.loadWord (w % 4294967296)

end Sys2Proof.Machine
end

