-- ==== Sys2Proof/Safety.lean ====
section
/-! DEFINITION. What counts as a safe run, and what a word leaves alone, in the terms that claims use. -/

namespace Sys2Proof.Machine
open Sys2Proof

/-- Every memory of the state stands in its canonical form, so that equal memories are equal data: device, host and peer memory, the
scratchpad of every core and that of every saved context. -/
def State.memoriesOk (s : State) : Bool :=
  Memory.wf s.mem && Memory.wf s.host && Memory.wf s.peers && (s.cores.all fun k => Memory.wf k.scratch) &&
    s.images.all fun i => Memory.wf i.core.scratch

/-- A run of `n` steps that neither faults nor is refused. -/
def RunsOn (n : Nat) (s : State) : Prop := ∃ t, Host.Core.run Sys2Proof.core n s = .next t

/-! ### What a word leaves alone -/

/-- Only the place of the stream, its routes and the words that it has in flight differ. -/
def Strm.moved (a b : Strm) : Prop :=
  b = { a with
    pc := b.pc, hold := b.hold, stitch := b.stitch, infl := b.infl, blocked := b.blocked, ahead := b.ahead
    routeIn := b.routeIn, routeOut := b.routeOut }

/-- A stream keeps its routes where no TROUTE stands among its words in flight (R16, R355). -/
def RoutesKept (st : Stream) (s t : State) : Prop :=
  (∀ e ∈ (s.strm st).infl, e.route = none) →
    (t.strm st).routeIn = (s.strm st).routeIn ∧ (t.strm st).routeOut = (s.strm st).routeOut

/-- What issuing a word of stream `st` may change: the words in flight of that stream, which may retire, signal and set its routes; the tokens and
their labels; CLABELs, and the words that wait at a stitch, which issue next; the clock of a body; the label table. `t` is otherwise `s`. -/
def Issued (st : Stream) (s t : State) : Prop :=
  t = { s with core := t.core, labels := t.labels, freeNo := t.freeNo, agenda := t.agenda } ∧ s.agenda <:+ t.agenda ∧
  t.core = { s.core with
    c := t.core.c, a := t.core.a, v := t.core.v, m := t.core.m, tok := t.core.tok, owed := t.core.owed, tokLab := t.core.tokLab
    latch := t.core.latch } ∧
  (∀ u, t.strm u = { s.strm u with
    clab := (t.strm u).clab, stitch := (t.strm u).stitch, infl := (t.strm u).infl, routeIn := (t.strm u).routeIn
    routeOut := (t.strm u).routeOut, hold := (t.strm u).hold }) ∧
  (∀ u, u ≠ st → (t.strm u).infl = (s.strm u).infl ∧ (t.strm u).routeIn = (s.strm u).routeIn ∧
    (t.strm u).routeOut = (s.strm u).routeOut) ∧
  ∀ u, u ≠ .c → (t.strm u).hold = (s.strm u).hold

/-- The same for a word of the V-stream, at whose issue fixed-latency words that are due retire (R387) and a loop that a pre-emption has left
goes on (R105). -/
def IssuedV (s t : State) : Prop :=
  t = { s with core := t.core, labels := t.labels, freeNo := t.freeNo, agenda := t.agenda } ∧ s.agenda <:+ t.agenda ∧
  t.core = { s.core with
    c := t.core.c, a := t.core.a, v := t.core.v, m := t.core.m, tok := t.core.tok, owed := t.core.owed, tokLab := t.core.tokLab
    latch := t.core.latch, rings := t.core.rings, loop := t.core.loop, again := t.core.again
    csr := { s.core.csr with act := t.core.csr.act } } ∧
  (∀ u, u ≠ .v → t.strm u = { s.strm u with
    clab := (t.strm u).clab, stitch := (t.strm u).stitch, hold := (t.strm u).hold }) ∧
  (∀ u, u ≠ .c → (t.strm u).hold = (s.strm u).hold) ∧
  t.core.v = { s.core.v with
    clab := t.core.v.clab, stitch := t.core.v.stitch, infl := t.core.v.infl, blocked := t.core.v.blocked, ahead := t.core.v.ahead
    routeIn := t.core.v.routeIn, routeOut := t.core.v.routeOut }

/-- What moving on from a word of stream C, A or M may change beside the word's own effect: the stream's place, region, routes and words in flight; the
tokens that retiring words signal; the peak of HOLDLIM; a clock passes, or none for a word released at a stitch. `t` is otherwise `s`, the state
that the effect has left. -/
def Moved (st : Stream) (s t : State) : Prop :=
  (∃ n, n ≤ 1 ∧ t = { s.ticks n with core := t.core }) ∧
  t.core = { s.core with
    c := t.core.c, a := t.core.a, v := t.core.v, m := t.core.m, next := s.core.next + 1, tok := t.core.tok, tokLab := t.core.tokLab
    latch := t.core.latch, csr := { s.core.csr with holdPeak := t.core.csr.holdPeak } } ∧
  (∀ u, u ≠ st → t.strm u = s.strm u) ∧ Strm.moved (s.strm st) (t.strm st)

/-- The registers after `n` cycles of issue distance: the pending writes that reach their latency have landed (R94 to R96). -/
def Core.landed (k : Core) (n : Nat) : Core :=
  (sortPend (k.vpend.filter fun p => decide (p.left ≤ n))).foldl Core.applyPend
    { k with vpend := (k.vpend.filter fun p => decide (n < p.left)).map fun p => { p with left := p.left - n } }

/-- What moving on from a word of the V-stream that occupies its port for `n` cycles may change beside the word's own effect: the pending writes that
are due land, and in a loop's body a pass may end; `n` clocks pass, or none for a word released at a stitch. `t` is otherwise `s`. -/
def MovedV (n : Nat) (s t : State) : Prop :=
  (∃ m, (m = n ∨ m = 0) ∧ t = { s.ticks m with core := t.core }) ∧
  t.core = { s.core with
    c := { s.core.c with hold := t.core.c.hold }
    v := t.core.v, next := s.core.next + 1, tok := t.core.tok, tokLab := t.core.tokLab, latch := t.core.latch, rings := t.core.rings
    csr := { s.core.csr with
      holdPeak := t.core.csr.holdPeak, rrb := t.core.csr.rrb, iter := t.core.csr.iter, act := t.core.csr.act, labs := t.core.csr.labs }
    loop := t.core.loop, again := t.core.again, vpend := (s.core.landed n).vpend
    vr := (s.core.landed n).vr, em := (s.core.landed n).em, cm := (s.core.landed n).cm } ∧
  Strm.moved s.core.v t.core.v

/-- A result in a scalar register: x0 stays as it is, another register takes the value with the label, whose set has an entry in the label
table from now on (R14, R194, R299). -/
def State.result (s : State) (d : Fin 64) (v : W64) (l : Label) : State :=
  if d = 0 then s else (s.intern l).modCore fun k => k.writeX d ⟨v, l⟩
/-- The same for an A-stream register. -/
def State.resultA (s : State) (d : Fin 32) (v : W64) (l : Label) : State :=
  if d = 0 then s else (s.intern l).modCore fun k => k.writeA d ⟨v, l⟩
/-- CLABEL of a stream takes in a label, and its set has an entry in the label table from now on (R194, R198). -/
def State.raised (s : State) (st : Stream) (l : Label) : State :=
  (s.intern (Label.join (s.clab st) l)).modStrm st fun t => { t with clab := Label.join (s.clab st) l }

/-- A load may turn out to hold its stream back; one that runs ahead of a release waits then (R209, R390). -/
def isLd : Instr → Bool
  | .ld .. => true
  | _ => false
/-- Nothing stops word `i`, which leaves `t`, from having its effect: it does not run ahead of a release as a load, and the queues of the core have
room for its requests (R8, R209). -/
def MayRun (i : Instr) (st : Stream) (s t : State) : Prop :=
  ((s.strm st).blocked = none ∨ isLd i = false) ∧ t.core.requests ≤ maxRequests

/-- Word `i` of stream C, A or M: once it issues, in `s1`, and `ok s1` holds, it leaves `eff s1` and its stream stands at `nxt s1`. -/
def Completes (i : Instr) (st : Stream) (h : Hdr) (ok : State → Prop) (eff : State → State) (nxt : State → W64) : Prop :=
  ∀ s s1, issue i st h s = .go s1 → ok s1 → MayRun i st s (eff s1) →
    ∃ t, exec i s = .next t ∧ Moved st (eff s1) t ∧ RoutesKept st (eff s1) t ∧ t.pc st = nxt s1

/-- The same for a word that stays in flight until a later step lets it retire (R19). -/
def Waits (i : Instr) (st : Stream) (h : Hdr) (ok : State → Prop) (eff : State → State) : Prop :=
  ∀ s s1, issue i st h s = .go s1 → ok s1 → MayRun i st s (eff s1) →
    ∃ t, exec i s = .next t ∧ Moved st (eff s1) t ∧ RoutesKept st (eff s1) t ∧ t.pc st = s1.pc st + 4 ∧
      ∃ e ∈ (t.strm st).infl, e.id = s1.core.next ∧ e.done = false

/-- Word `i` of the V-stream: it occupies its port for `n` cycles from the state `eff s1`. -/
def CompletesV (i : Instr) (h : Hdr) (n : Nat) (ok : State → Prop) (eff : State → State) : Prop :=
  ∀ s s1, issue i .v h s = .go s1 → ok s1 → MayRun i .v s (eff s1) →
    ∃ t, exec i s = .next t ∧ MovedV n (eff s1) t ∧ RoutesKept .v (eff s1) t

/-- Word `i`, issued where `ok s1` holds, has no effect but the trap `c` with its TVAL and label, unless an older word of the M-stream may
still trap (R250) or the word has run ahead of a release (R209). -/
def Traps (i : Instr) (st : Stream) (h : Hdr) (ok : State → Prop) (c : Nat) (tval : State → W64) (lab : State → Label) : Prop :=
  ∀ s s1, issue i st h s = .go s1 → ok s1 → s.olderMay st = false → (s.strm st).blocked = none →
    exec i s = .next (s.takeTrap st c (tval s1) (lab s1)).tick

/-- A step of a core, taken with that core in focus: it leads to a state in which `P` holds, up to the end of a task that has nothing
more to do (R352, R350) and the return of the focus. -/
def CoreStep (e : Instr) (s : State) (P : State → Prop) : Prop :=
  ∃ u, exec e s = .next (u.tidy.focus s.core.id) ∧ P u

/-- Step `e` of core `c`, where `pre` holds of the state with that core in focus, leads to a state in which `post` holds of the state before and after, up to the end of a task
that has nothing more to do and the return of the focus; in a module that is neither viral nor in reset. -/
def AtCore (e : Instr) (c : Nat) (pre : State → Prop) (post : State → State → Prop) : Prop :=
  ∀ s, s.viral = false → s.inReset = false → pre (s.focus c) → CoreStep e s (post (s.focus c))
/-- The same for a step of the hub, of a device or of firmware. -/
def Serves (e : Instr) (pre : State → Prop) (post : State → State → Prop) : Prop :=
  ∀ s, s.viral = false → s.inReset = false → pre s → ∃ t, exec e s = .next t ∧ post s t

/-- Memories are canonical, and the state holds every core under its own number: invariants of the model. -/
abbrev Sound (s : State) : Prop := s.memoriesOk = true ∧ ∀ o ∈ s.others, o.2.id = o.1
/-- What a list of writes leaves at a place: the last byte written there, or what it held. -/
def written {α : Type} [BEq α] (b : List (α × Byte)) (l : α) (old : Byte) : Byte :=
  ((b.reverse.find? fun x => x.1 == l).map (·.2)).getD old
/-- An error record stands at the head of the physical function's log, and of the function's own (R262). -/
def Recorded (s t : State) (code sev func unit : Nat) (d0 d1 : W64) : Prop :=
  t.logOf 0 = (s.logOf 0).post ⟨code, sev, func, unit, s.tstep, d0, d1⟩ ∧
  (func ≠ 0 → t.logOf func = (s.logOf func).post ⟨code, sev, func, unit, s.tstep, d0, d1⟩)

end Sys2Proof.Machine
end

