-- ==== Sys2Proof/Certificates/Slice0/Obligations.lean ====
section
/-! DEFINITION. The statements for the provers. A word issues in `issue i st h s = .go s1` (what that needs, and what it may change, are statements of their own);
its effect is then told over `s1`, the state in which it issued, and `Moved` says what moving on may change beside it. -/

namespace Sys2Proof.Claims
open Sys2Proof Sys2Proof.Machine

/-- A header without marks. -/
def plain : Hdr := ⟨false, false, false⟩

/-- Once it issues with its registers written, and with an entry in the label table for its result's label, word `i` of the C-stream writes `v`
with ResultLabel of the registers `rs` to register `d` (x0 discards it), changes nothing else, and the stream moves to the next word. -/
def Scalar (i : Instr) (h : Hdr) (rs : List (Fin 64)) (d : Fin 64) (v : State → W64) : Prop :=
  Completes i .c h (fun s => s.core.ready (d :: rs) = true ∧ (d = 0 ∨ s.canIntern (s.resultLab rs) = true))
    (fun s => s.result d (v s) (s.resultLab rs)) (fun s => s.pc .c + 4)

/-- The same for a word of the A-stream, once no word in flight writes a register that it reads (R277). -/
def Address (i : Instr) (h : Hdr) (rs : List (Fin 32)) (d : Fin 32) (v : State → W64) : Prop :=
  Completes i .a h (fun s => s.core.aReady rs = true ∧ (d = 0 ∨ s.canIntern (s.resultLabA rs) = true))
    (fun s => s.resultA d (v s) (s.resultLabA rs)) (fun s => s.pc .a + 4)

/-- The conditions of R41. -/
abbrev Holds : CC → W64 → W64 → Prop
  | .eq, a, b => a = b
  | .ne, a, b => a ≠ b
  | .lt, a, b => a.toInt < b.toInt
  | .ge, a, b => b.toInt ≤ a.toInt
  | .ltu, a, b => a.toNat < b.toNat
  | .geu, a, b => b.toNat ≤ a.toNat

/-- The label of a register. -/
def labX (s : State) (a : Fin 64) : Label := (s.core.readX a).lab
def labA (s : State) (a : Fin 32) : Label := (s.core.readA a).lab

/-- The state after the address register `xa` has raised the C-stream's CLABEL (R198). -/
def viaX (s : State) (a : Fin 64) : State := s.raised .c (labX s a)
/-- An access of the C-stream may go ahead: its registers are written, and the raised CLABEL has an entry in the label table. -/
abbrev XReady (s : State) (rs : List (Fin 64)) (a : Fin 64) : Prop :=
  s.core.ready rs = true ∧ s.canIntern (Label.join (s.clab .c) (labX s a)) = true
/-- The same for a register of the A-stream. -/
def viaA (s : State) (l : Label) : State := s.raised .a l
abbrev AReady (s : State) (l : Label) : Prop := s.canIntern (Label.join (s.clab .a) l) = true

end Sys2Proof.Claims

open Sys2Proof Sys2Proof.Machine Sys2Proof.Claims

/-! ### Words and their encodings -/

/-- Words that the spec writes out decode to the instructions they stand for (R38, R45, R47, R50, R51 and the entries of each). -/
def Obligations.SpecExampleWordsDecode : Prop :=
  decode false .c 0x01AEBAA0 = .ok (.sub plain 23 23 21) ∧
  decode false .c 0x01180004 = .ok (.addImm plain 12 0 4) ∧
  decode false .c 0x0D0400FF = .ok (.br plain .eq 16 0 0xFF#8) ∧
  decode false .c 0x4F8A30E2 = .ok (.amoW ⟨false, true, false⟩ 5 6 7 .add .dv) ∧
  decode false .c 0x981A0025 = .ok (.csrr ⟨true, false, false⟩ 13 .weltstat) ∧
  decode true .c 0x1B8828C0 = .ok (.launch plain 4 5 6) ∧
  decode false .a 0x01529FFF = .ok (.aaddImm plain 20 20 0x1FFF#13) ∧
  decode false .a 0x08B45131 = .ok (.ast plain 13 2 8 .dv .d true) ∧
  decode false .v 0x02101269 = .ok (.vfma plain ⟨4, .w⟩ ⟨2, .r⟩ ⟨6, .c⟩ 1) ∧
  decode false .v 0x10905003 = .ok (.vst plain 4 1 2 3) ∧
  decode false .m 0x00A00007 = .ok (.mgo plain 2 false true true true) ∧
  decode false .m 0x1F850000 = .error .illegalOperand ∧
  decode false .a 0x1F940007 = .ok (.brk .a plain 7#18)

/-- Decoding the word of a well-formed instruction of the C-stream gives it back, on the kind of core that has it (R35 to R44, R51). -/
def Sys2Proof.Claims.ControlStreamRoundTrip : Prop :=
  ∀ dc i w, i.stream = .c → i.wellFormed = true → i.onCore dc = true → encode i = some w → w < 2 ^ 32 ∧ decode dc .c w = .ok i

/-- The same of the A-stream (R45, R46, R51). -/
def Sys2Proof.Claims.AddressStreamRoundTrip : Prop :=
  ∀ i w, i.stream = .a → i.wellFormed = true → i.onCore false = true → encode i = some w → w < 2 ^ 32 ∧ decode false .a w = .ok i

/-- The same of the V-stream (R47, R48, R51). -/
def Sys2Proof.Claims.VectorStreamRoundTrip : Prop :=
  ∀ i w, i.stream = .v → i.wellFormed = true → i.onCore false = true → encode i = some w → w < 2 ^ 32 ∧ decode false .v w = .ok i

/-- The same of the M-stream (R50, R51). -/
def Sys2Proof.Claims.MatrixStreamRoundTrip : Prop :=
  ∀ i w, i.stream = .m → i.wellFormed = true → i.onCore false = true → encode i = some w → w < 2 ^ 32 ∧ decode false .m w = .ok i

/-- Decoding the word of a well-formed instruction gives it back, in each of the four streams and on each kind of core that has it. -/
def Obligations.DecodeOfEncodeIsTheInstruction : Prop :=
  ControlStreamRoundTrip ∧ AddressStreamRoundTrip ∧ VectorStreamRoundTrip ∧ MatrixStreamRoundTrip

/-- A word that decodes is the word of the instruction: no bit of it is dropped, its operands are within their limits, and its core has it
(R36, R44). -/
def Obligations.DecodedWordsReencode : Prop :=
  ∀ dc st w i, w < 2 ^ 32 → decode dc st w = .ok i →
    i.stream = st ∧ i.wellFormed = true ∧ i.onCore dc = true ∧ encode i = some w

/-! ### Steps -/

/-- With nothing on the agenda and no beat to close, a step of the module fetches at the stream in focus: where the address translates and its bytes decode, the step
is `exec` of that instruction, in the state in which the words that may retire have retired (R35, R192; log entry 1 for the choice of the stream). -/
def Sys2Proof.Claims.StepRunsAFetchedWord : Prop :=
  ∀ (s : State) s' pa pol i, let st := s.core.cur
    let f := (({ s with agenda := [], ir := none } : State).retireAll st).modCore fun k => { k with cur := st }
    s.agenda = [] → (s.ownBeat && decide (256 ≤ s.beatClk) && !s.inReset) = false → f.fetchIdle st = false →
    f.translate .fetch (f.pc st) (.fetch st) = .ok (s', pa, pol) → s'.fetchCheck (f.pc st) pa = .ok () →
    decode s'.core.dispatch st (s'.codeAt pa) = .ok i →
    step s = exec i { s' with ir := none }

/-- Nothing comes before a trap that stream `st` takes as it fetches: no older word of the M-stream may still trap (R250), no stop, no release that the stream has
issued past (R209), no stream trap of the C-stream (R252). -/
abbrev Sys2Proof.Claims.TrapsNext (s : State) (st : Stream) : Prop :=
  s.olderMay st = false ∧ s.core.atSafePoint = false ∧ (s.strm st).blocked = none ∧ (st = .c → s.streamTrap = none)

/-- A fetch whose address does not translate takes the translation's fault, with TVAL the address of the word; one that reaches a far home that is not there takes bad-frame,
and one of a dispatch core that reaches a frame with a label the label fault (R213, R266); a word that does not decode is the
illegal-instruction trap, cause 0x0001, with TVAL the word: in the fetching stream; nothing else of the machine changes, but that the words that may retire have
retired (R36, R192). A fetch from a frame that is still to be zeroed waits (R206). -/
def Obligations.FetchFaultsAreTaken : Prop :=
  ∀ (s : State) c st, let f := ((s.focus c).retireAll st).modCore fun k => { k with cur := st }
    f.fetchIdle st = false → TrapsNext f st →
    (∀ cause, f.translate .fetch (f.pc st) (.fetch st) = .error (.fault cause) →
      exec (.wordFetch c st) s = .next (f.takeTrap st cause (f.pc st) 0).tick) ∧
    (∀ s' pa pol, f.translate .fetch (f.pc st) (.fetch st) = .ok (s', pa, pol) → TrapsNext s' st →
      (s'.awaitsZero pa = true → exec (.wordFetch c st) s = .next s'.tick) ∧
      (s'.awaitsZero pa = false → s'.farOk pa = false →
        exec (.wordFetch c st) s =
          .next (s'.takeTrap st (cBadFrame (s'.leafLevel .fetch (f.pc st).toNat)) (f.pc st) 0).tick) ∧
      (s'.awaitsZero pa = false → s'.farOk pa = true → s'.core.dispatch = true → paClass pa = 0 ∨ paClass pa = 2 → s'.readLab pa ≠ 0 →
        exec (.wordFetch c st) s = .next (s'.takeTrap st 0x20 (f.pc st) 0).tick) ∧
      ∀ r, s'.fetchCheck (f.pc st) pa = .ok () → decode s'.core.dispatch st (s'.codeAt pa) = .error r →
        exec (.wordFetch c st) s = .next (s'.takeTrap st 1 (BitVec.ofNat 64 (s'.codeAt pa)) 0).tick)

/-- A step of the agenda that is no instruction word is the next step, and leaves the agenda (the model's choice, log entry 1). -/
def Sys2Proof.Claims.StepRunsTheAgenda : Prop :=
  ∀ (s t : State) e r, encode e = none → s.agenda = e :: r →
    exec e { s with agenda := r, ir := none } = .next t → t.ir = none → step s = .next t

/-- What a step of the module runs: the word that it fetches, or the head of the agenda. -/
def Obligations.StepRunsTheDecodedWord : Prop :=
  StepRunsAFetchedWord ∧ StepRunsTheAgenda

/-- After reset the module stands alone with empty memory, no tenant, no graph, no task; every stream has ended and stands clear of traps; TSTEP is 0, the
label table holds the empty set alone, nothing is viral. -/
def Obligations.ResetLeavesTheModuleIdle : Prop :=
  let s := State.reset
  s.mem = [] ∧ s.domain = none ∧ s.viral = false ∧ s.tstep = 0 ∧ s.labels = [] ∧ s.core.task = none ∧ s.core.lace.st = .idle ∧
  (∀ st, (s.strm st).stop = .running ∧ (s.strm st).clab = 0 ∧ (s.strm st).infl = [] ∧ (s.strm st).hold = none) ∧
  s.core.csr.tvec = 0 ∧ s.core.csr.nest = false ∧ (∀ r, s.core.readX r = ⟨0, 0⟩) ∧ (∀ r, s.core.readA r = ⟨0, 0⟩) ∧
  s.graphs = [] ∧ s.kerns = [] ∧ s.images = []

/-- After reset every memory is in its canonical form. -/
def Obligations.ResetMemoriesAreCanonical : Prop := State.reset.memoriesOk = true

/-- Every step keeps every memory in its canonical form: addresses rise, and no listed byte equals what an unlisted one reads as. -/
def Obligations.StepKeepsMemoriesCanonical : Prop :=
  ∀ s t, s.memoriesOk = true → step s = .next t → t.memoriesOk = true


/-! ### Issue -/

/-- Stream `st` of the core in focus has nothing to wait for with word `i`: it runs, no word of it is in flight, no region, stop, pre-emption or end of the task concerns
it, no body waits for its first clock, and its CLABEL is in the label table. -/
abbrev Sys2Proof.Claims.Unhindered (i : Instr) (s : State) (st : Stream) : Prop :=
  s.viral = false ∧ s.inReset = false ∧ (s.strm st).ended = false ∧ (s.strm st).stop = .running ∧ (s.strm st).blocked = none ∧
  (s.strm st).infl = [] ∧ (s.strm st).hold = none ∧ s.core.halted st i = false ∧ (∀ r, s.core.c.hold = some r → r.wait = none) ∧
  (st = .c → s.core.firstStop = none ∧ s.core.lace.st ≠ .granted) ∧
  (st = .v → s.core.vpend = [] ∧ s.core.landPend = [] ∧ s.core.loop = none ∧ s.core.again = none) ∧
  (s.handle? (s.clab st)).isSome = true
/-- A word with no queue of its own. -/
abbrev Sys2Proof.Claims.NoQueue (i : Instr) : Prop := (∀ u h q, i ≠ .tkwait u h q) ∧ ∀ u h q, i ≠ .tksig u h q

/-- A word without marks, that takes no token of its own, issues at once on a stream that nothing hinders, where it is legal, and issuing changes nothing (R16, R17). -/
def Sys2Proof.Claims.UnmarkedWordsIssueAtOnce : Prop :=
  ∀ (i : Instr) st s, NoQueue i → s.core.misplaced i st plain = false → Unhindered i s st → issue i st plain s = .go s

/-- The W mark takes a token of the inbound queue, with its label into CLABEL; with none there the stream waits, or, if the queue's source stream has ended, the word raises
the stream-deadlock trap, cause 0x0006, with TVAL the queue's id and the word's ResultLabel (R17, R22, R198, R199, R254). A token owed to the queue is taken first (R18). -/
def Sys2Proof.Claims.WaitMarksTakeATokenOrWait : Prop :=
  ∀ (i : Instr) st s, NoQueue i → let h : Hdr := ⟨true, false, false⟩
    s.core.misplaced i st h = false → Unhindered i s st → let q := (s.strm st).routeIn
    (s.core.tok[q] = 0 → (s.strm (Stream.ofNum (q.val / 4))).ended = false → issue i st h s = .idle s) ∧
    (s.core.tok[q] = 0 → (s.strm (Stream.ofNum (q.val / 4))).ended = true →
      issue i st h s = .trap 6 (BitVec.ofNat 64 q.val) (s.core.sourceLab i)) ∧
    (0 < s.core.tok[q] → s.canIntern (Label.join (s.clab st) s.core.tokLab[q]) = true →
      ∃ t, issue i st h s = .go t ∧
        (q.val ∉ s.core.owed → t.core.tok = s.core.tok.set q (s.core.tok[q] - 1) ∧ t.core.owed = s.core.owed) ∧
        (q.val ∈ s.core.owed → t.core.tok = s.core.tok ∧ t.core.owed = s.core.owed.erase q.val) ∧
        t.clab st = Label.join (s.clab st) s.core.tokLab[q] ∧ t.core.x = s.core.x ∧ t.mem = s.mem)

/-- A word whose W or S mark finds no route in its stream is illegal before it takes any token (R17); so are TROUTE of a queue that is not the stream's own (R16) and a HOLD
inside an open region of its stream (R26). -/
def Sys2Proof.Claims.UnroutedMarksAreIllegal : Prop :=
  (∀ (i : Instr) st h s, Unhindered i s st →
    (h.w = true ∧ (s.strm st).routeIn.val = noRoute st ∨ h.s = true ∧ (s.strm st).routeOut.val = noRoute st) → issue i st h s = .illegal) ∧
  (∀ st h p q s, Unhindered (.troute st h p q) s st →
    ¬ (p.val % 4 = st.num ∧ q.val / 4 = st.num) →
    issue (.troute st h p q) st h s = .illegal) ∧
  ∀ st h n s r, Unhindered (.hold st h n) { s with core := s.core.setStrm st { s.strm st with hold := none } } st →
    (s.strm st).hold = some r → r.wait = none → issue (.hold st h n) st h s = .illegal

/-- A region that has stood for 256 clocks raises the hold-overrun trap, cause 0x0007, in its stream at its next word, with TVAL the address of the HOLD and the word's ResultLabel;
a laced body is the exception only while it waits for its grants (R26, R198, R226, R254). -/
def Sys2Proof.Claims.OverrunRegionsTrap : Prop :=
  ∀ (i : Instr) st s r, Unhindered i { s with core := s.core.setStrm st { s.strm st with hold := none } } st →
    s.core.misplaced i st plain = false → (s.strm st).hold = some r → r.wait = none → 256 ≤ s.clk - r.start → (∀ h, i ≠ .lcwait h) →
    issue i st plain s = .trap 7 r.addr (s.core.sourceLab i)

/-- How a word issues: without marks, with W, where it is illegal, in a region that has stood too long. -/
def Obligations.MarksDecideHowAWordIssues : Prop :=
  UnmarkedWordsIssueAtOnce ∧ WaitMarksTakeATokenOrWait ∧ UnroutedMarksAreIllegal ∧ OverrunRegionsTrap

/-! ### The scalar words of the C-stream -/

/-- R283, R351, R335, R311, R344: sums, differences, products, quotients and remainders. -/
def Obligations.ScalarArithmeticWritesItsResult : Prop :=
  (∀ h d a b, Scalar (.add h d a b) h [a, b] d fun s => s.core.vx a + s.core.vx b) ∧
  (∀ h d a i, Scalar (.addImm h d a i) h [a] d fun s => s.core.vx a + i.signExtend 64) ∧
  (∀ h d a b, Scalar (.sub h d a b) h [a, b] d fun s => s.core.vx a - s.core.vx b) ∧
  (∀ h d a b, Scalar (.mul h d a b) h [a, b] d fun s => s.core.vx a * s.core.vx b) ∧
  (∀ h d a b, Scalar (.mulh h d a b true) h [a, b] d fun s =>
    ((s.core.vx a).setWidth 128 * (s.core.vx b).setWidth 128).extractLsb' 64 64) ∧
  (∀ h d a b, Scalar (.mulh h d a b false) h [a, b] d fun s =>
    ((s.core.vx a).signExtend 128 * (s.core.vx b).signExtend 128).extractLsb' 64 64) ∧
  (∀ h d a b, Scalar (.div h d a b true) h [a, b] d fun s =>
    if s.core.vx b = 0 then 0xFFFFFFFFFFFFFFFF#64 else (s.core.vx a).udiv (s.core.vx b)) ∧
  (∀ h d a b, Scalar (.div h d a b false) h [a, b] d fun s =>
    if s.core.vx b = 0 then 0xFFFFFFFFFFFFFFFF#64
    else if (s.core.vx a).toInt = -2 ^ 63 ∧ (s.core.vx b).toInt = -1 then 0x8000000000000000#64
    else BitVec.ofInt 64 ((s.core.vx a).toInt.tdiv (s.core.vx b).toInt)) ∧
  (∀ h d a b, Scalar (.rem h d a b true) h [a, b] d fun s =>
    if s.core.vx b = 0 then s.core.vx a else (s.core.vx a).umod (s.core.vx b)) ∧
  (∀ h d a b, Scalar (.rem h d a b false) h [a, b] d fun s =>
    if s.core.vx b = 0 then s.core.vx a
    else if (s.core.vx a).toInt = -2 ^ 63 ∧ (s.core.vx b).toInt = -1 then 0
    else BitVec.ofInt 64 ((s.core.vx a).toInt - (s.core.vx b).toInt * (s.core.vx a).toInt.tdiv (s.core.vx b).toInt))

/-- R291, R341, R384, R347, R323: bitwise operations, shifts and LUI. -/
def Obligations.ScalarLogicWritesItsResult : Prop :=
  (∀ h d a b, Scalar (.and h d a b) h [a, b] d fun s => s.core.vx a &&& s.core.vx b) ∧
  (∀ h d a i, Scalar (.andImm h d a i) h [a] d fun s => s.core.vx a &&& i.signExtend 64) ∧
  (∀ h d a b, Scalar (.or h d a b) h [a, b] d fun s => s.core.vx a ||| s.core.vx b) ∧
  (∀ h d a i, Scalar (.orImm h d a i) h [a] d fun s => s.core.vx a ||| i.signExtend 64) ∧
  (∀ h d a b, Scalar (.xor h d a b) h [a, b] d fun s => s.core.vx a ^^^ s.core.vx b) ∧
  (∀ h d a i, Scalar (.xorImm h d a i) h [a] d fun s => s.core.vx a ^^^ i.signExtend 64) ∧
  (∀ h d a b, Scalar (.shl h d a b false) h [a, b] d fun s => s.core.vx a <<< ((s.core.vx b).toNat % 64)) ∧
  (∀ h d a b, Scalar (.shl h d a b true) h [a] d fun s => s.core.vx a <<< b.val) ∧
  (∀ h d a b, Scalar (.shr h d a b false) h [a, b] d fun s => s.core.vx a >>> ((s.core.vx b).toNat % 64)) ∧
  (∀ h d a b, Scalar (.shr h d a b true) h [a] d fun s => s.core.vx a >>> b.val) ∧
  (∀ h d a b, Scalar (.sra h d a b false) h [a, b] d fun s => (s.core.vx a).sshiftRight ((s.core.vx b).toNat % 64)) ∧
  (∀ h d a b, Scalar (.sra h d a b true) h [a] d fun s => (s.core.vx a).sshiftRight b.val) ∧
  (∀ h d i, Scalar (.lui h d i) h [] d fun _ => BitVec.ofNat 64 (i.toNat * 2 ^ 11))

/-- R348, R326, R305, R320: compares, selections and LBGET. -/
def Obligations.ScalarComparesWriteTheirResult : Prop :=
  (∀ h d a b, Scalar (.slt h d a b) h [a, b] d fun s => if (s.core.vx a).toInt < (s.core.vx b).toInt then 1 else 0) ∧
  (∀ h d a i, Scalar (.sltImm h d a i) h [a] d fun s => if (s.core.vx a).toInt < i.toInt then 1 else 0) ∧
  (∀ h d a b, Scalar (.sltu h d a b) h [a, b] d fun s => if (s.core.vx a).toNat < (s.core.vx b).toNat then 1 else 0) ∧
  (∀ h d a b, Scalar (.min h d a b false) h [a, b] d fun s =>
    if (s.core.vx a).toInt ≤ (s.core.vx b).toInt then s.core.vx a else s.core.vx b) ∧
  (∀ h d a b, Scalar (.min h d a b true) h [a, b] d fun s =>
    if (s.core.vx a).toNat ≤ (s.core.vx b).toNat then s.core.vx a else s.core.vx b) ∧
  (∀ h d a b, Scalar (.max h d a b false) h [a, b] d fun s =>
    if (s.core.vx b).toInt ≤ (s.core.vx a).toInt then s.core.vx a else s.core.vx b) ∧
  (∀ h d a b, Scalar (.max h d a b true) h [a, b] d fun s =>
    if (s.core.vx b).toNat ≤ (s.core.vx a).toNat then s.core.vx a else s.core.vx b) ∧
  (∀ h d a b, Scalar (.csel h d a b) h [d, a, b] d fun s => if s.core.vx d ≠ 0 then s.core.vx a else s.core.vx b) ∧
  (∀ h d a, Scalar (.lbget h d a) h [a] d fun s => BitVec.ofNat 64 (s.handleOf (s.core.readX a).lab))

/-- A word of format CR with the given OP and registers, its last field 0 (R38). -/
def Sys2Proof.Claims.crWord (h : Hdr) (op : Nat) (d a b : Fin 64) : Nat :=
  h.w.toNat * 2 ^ 31 + h.s.toNat * 2 ^ 30 + h.k.toNat * 2 ^ 29 + op * 2 ^ 23 + d.val * 2 ^ 17 + a.val * 2 ^ 11 + b.val * 2 ^ 5

/-- R303 whole: the encoding of CLZ, its example, and its result. -/
def Obligations.ClzCountsLeadingZeros : Prop :=
  (∀ h d a, encode (.clz h d a) = some (crWord h 0x16 d a 0) ∧ decode false .c (crWord h 0x16 d a 0) = .ok (.clz h d a)) ∧
  decode false .c 0x0B082800 = .ok (.clz plain 4 5) ∧
  ∃ n : W64 → Nat, (∀ h d a, Scalar (.clz h d a) h [a] d fun s => BitVec.ofNat 64 (n (s.core.vx a))) ∧ n 0 = 64 ∧
    ∀ x, x ≠ 0 → n x < 64 ∧ 2 ^ (63 - n x) ≤ x.toNat ∧ x.toNat < 2 ^ (64 - n x)

/-- R342 whole: the encoding of POPC, its example, and its result. -/
def Obligations.PopcCountsSetBits : Prop :=
  (∀ h d a, encode (.popc h d a) = some (crWord h 0x17 d a 0) ∧ decode false .c (crWord h 0x17 d a 0) = .ok (.popc h d a)) ∧
  decode false .c 0x0B882800 = .ok (.popc plain 4 5) ∧
  ∃ n : W64 → Nat, (∀ h d a, Scalar (.popc h d a) h [a] d fun s => BitVec.ofNat 64 (n (s.core.vx a))) ∧
    ∀ x, n x ≤ 64 ∧ n x = ((List.range 64).map fun i => (x.getLsbD i).toNat).sum

/-! ### What scalar words wait for, and what they leave alone -/

/-- The destination of a word of the C-stream that writes one register, or none (`0`), from registers, counts and its address. -/
def Sys2Proof.Claims.scalarDest : Instr → Option (Fin 64)
  | .add _ d _ _ | .addImm _ d _ _ | .sub _ d _ _ | .mul _ d _ _ | .mulh _ d _ _ _ | .div _ d _ _ _ | .rem _ d _ _ _ | .and _ d _ _
  | .andImm _ d _ _ | .or _ d _ _ | .orImm _ d _ _ | .xor _ d _ _ | .xorImm _ d _ _ | .shl _ d _ _ _ | .shr _ d _ _ _ | .sra _ d _ _ _
  | .slt _ d _ _ | .sltImm _ d _ _ | .sltu _ d _ _ | .min _ d _ _ _ | .max _ d _ _ _ | .clz _ d _ | .popc _ d _ | .csel _ d _ _
  | .lui _ d _ | .lbget _ d _ | .jal _ d _ | .jalr _ d _ _ | .rgqry _ d _ _ | .csrr _ d _ => some d
  | .br .. | .trap .. | .eret .. | .nop .c _ | .tkwait .c _ _ | .tksig .c _ _ => some 0
  | _ => none

/-- Whatever such a word does, waits or traps, the clock passes by one at most, and it writes no other register, no byte of memory, host, peers or scratchpad, no register of
another stream, no accumulator, ring, nest slot, plane or other core, and of the CSRs beside its own banks it moves NEST and PEAK alone. -/
def Obligations.ScalarWordsLeaveTheRestAlone : Prop :=
  ∀ i d s t, scalarDest i = some d → exec i s = .next t →
    (∃ n, n ≤ 1 ∧ t = { s.ticks n with
      core := t.core, labels := t.labels, freeNo := t.freeNo, agenda := t.agenda, batches := t.batches }) ∧ s.agenda <:+ t.agenda ∧
    (t.core = { s.core with
      c := t.core.c, a := t.core.a, v := t.core.v, m := t.core.m, next := t.core.next, tok := t.core.tok, owed := t.core.owed
      tokLab := t.core.tokLab, x := t.core.x, latch := t.core.latch, lace := t.core.lace
      csr := { s.core.csr with nest := t.core.csr.nest, holdPeak := t.core.csr.holdPeak } }) ∧
    (∀ r, r ≠ d → t.core.readX r = s.core.readX r) ∧
    (∀ u, u ≠ .c → t.strm u = { s.strm u with
      clab := (t.strm u).clab, stitch := (t.strm u).stitch, stop := (t.strm u).stop }) ∧
    ∀ l, t.homeByte l = s.homeByte l

/-- A C-stream word that reads or writes a register waits until the older words that write it have retired: nothing of it happens but that
the clock passes (R299). -/
def Sys2Proof.Claims.ScalarWordsWaitForTheirRegisters : Prop :=
  ∀ s s1, (∀ h d a b, issue (.sub h d a b) .c h s = .go s1 → s1.core.ready [d, a, b] = false → exec (.sub h d a b) s = .next s.tick) ∧
    (∀ h d a b u, issue (.div h d a b u) .c h s = .go s1 → s1.core.ready [d, a, b] = false → exec (.div h d a b u) s = .next s.tick) ∧
    (∀ h d a b, issue (.csel h d a b) .c h s = .go s1 → s1.core.ready [d, d, a, b] = false → exec (.csel h d a b) s = .next s.tick) ∧
    (∀ h cc a b o, issue (.br h cc a b o) .c h s = .go s1 → s1.core.ready [a, b] = false → exec (.br h cc a b o) s = .next s.tick) ∧
    (∀ h d a z c o, issue (.ld h d a z c o) .c h s = .go s1 → s1.core.ready [d, a] = false → exec (.ld h d a z c o) s = .next s.tick) ∧
    (∀ h d a z c o, issue (.st h d a z c o) .c h s = .go s1 → s1.core.ready [d, a] = false → exec (.st h d a z c o) s = .next s.tick) ∧
    ∀ (k : Core) (rs : List (Fin 64)), k.ready rs = true ↔ ∀ r ∈ rs, r = 0 ∨ r ∉ k.xPend

/-- A result whose label needs a new entry of a full label table raises the label-exhaustion fault, cause 0x0022, with that label and no effect of the
word (R194, R198). -/
def Sys2Proof.Claims.FullLabelTableTraps : Prop :=
  (∀ h d a b, Traps (.add h d a b) .c h
    (fun s => d ≠ 0 ∧ s.core.ready [d, a, b] = true ∧ s.canIntern (s.resultLab [a, b]) = false) 0x22 (fun _ => 0)
    fun s => s.resultLab [a, b]) ∧
  (∀ h cc a b o, Traps (.br h cc a b o) .c h
    (fun s => s.core.ready [a, b] = true ∧ s.canIntern (Label.join (s.clab .c) (Label.joins (s.core.labsX [a, b]))) = false)
    0x22 (fun _ => 0) fun s => Label.join (s.clab .c) (Label.joins (s.core.labsX [a, b]))) ∧
  (∀ h d a b, Traps (.aadd h d a b) .a h (fun s => d ≠ 0 ∧ s.core.aReady [a, b] = true ∧ s.canIntern (s.resultLabA [a, b]) = false) 0x22 (fun _ => 0)
    fun s => s.resultLabA [a, b]) ∧
  ∀ (s : State) l, s.canIntern l = false ↔ l ≠ 0 ∧ (∀ e ∈ s.labels, e.2 ≠ l) ∧ 4095 ≤ s.labels.length

/-- What a scalar word waits for, and the trap of a full label table. -/
def Obligations.ScalarWordsWaitOrTrapForTheirResult : Prop :=
  ScalarWordsWaitForTheirRegisters ∧ FullLabelTableTraps

/-! ### Control flow -/

/-- R300, R316, R317: a branch raises CLABEL, taken or not, and moves to its target when its condition holds; JAL and JALR write the link. -/
def Obligations.BranchesAndJumpsMoveTheStream : Prop :=
  (∀ h cc a b o, Completes (.br h cc a b o) .c h
    (fun s => s.core.ready [a, b] = true ∧ s.canIntern (Label.join (s.clab .c) (Label.joins [labX s a, labX s b])) = true ∧
      Holds cc (s.core.vx a) (s.core.vx b))
    (fun s => s.raised .c (Label.joins [labX s a, labX s b])) (fun s => s.pc .c + 4 * o.signExtend 64)) ∧
  (∀ h cc a b o, Completes (.br h cc a b o) .c h
    (fun s => s.core.ready [a, b] = true ∧ s.canIntern (Label.join (s.clab .c) (Label.joins [labX s a, labX s b])) = true ∧
      ¬ Holds cc (s.core.vx a) (s.core.vx b))
    (fun s => s.raised .c (Label.joins [labX s a, labX s b])) (fun s => s.pc .c + 4)) ∧
  (∀ h d i, Completes (.jal h d i) .c h (fun s => s.core.ready [d] = true ∧ (d = 0 ∨ s.canIntern (s.clab .c) = true))
    (fun s => s.result d (s.pc .c + 4) (s.clab .c)) (fun s => s.pc .c + 4 * i.signExtend 64)) ∧
  (∀ h d a i, Completes (.jalr h d a i) .c h (fun s => XReady s [d, a] a)
    (fun s => (viaX s a).result d (s.pc .c + 4) (Label.join (s.clab .c) (labX s a)))
    (fun s => (s.core.vx a + i.signExtend 64) &&& ~~~3#64))

/-! ### Traps -/

/-- Taking a trap in the C-stream with a handler and no handler running: bank C takes the cause, the word's address, TVAL and the word's label; NEST is set; CLABEL rises;
the word at TVEC is next. A body's or a declaring lace slot is left; nothing of memory, of the registers or of another stream changes (R198, R249 to R251). -/
def Obligations.TrapEntersTheHandler : Prop :=
  ∀ (s : State) c v l, s.core.csr.nest = false → s.core.csr.tvec ≠ 0 → let t := s.takeTrap .c c v l
    let lab := Label.join (s.clab .c) l
    t.core.c.bank = ⟨BitVec.ofNat 64 c, s.pc .c, v, lab⟩ ∧ t.core.csr.nest = true ∧ t.pc .c = s.core.csr.tvec ∧
    t.clab .c = Label.join lab (s.core.csr.labOf .tvec) ∧ t.core.c.hold = none ∧ t.core.c.stitch = .none ∧
    t.core.c.stop = s.core.c.stop ∧ t.core.lace = (if s.core.lace.st = .idle then s.core.lace else Lace.reset) ∧
    t = { s with core := t.core, labels := t.labels, freeNo := t.freeNo, batches := t.batches } ∧
    t.core = { s.core with
      c := t.core.c, next := t.core.next, lace := t.core.lace
      csr := { s.core.csr with nest := true, holdPeak := t.core.csr.holdPeak } }

/-- With no handler the stream stops on the service path with its bank; a second trap while NEST is set stops it with cause 0x0002, EPC the
second word, TVAL the second cause. The stop sets the event latch (R251, R253, R383). -/
def Sys2Proof.Claims.UnhandledTrapStopsTheControlStream : Prop :=
  ∀ (s : State) c v l, let t := s.takeTrap .c c v l
    let lab := Label.join (s.clab .c) l
    (s.core.csr.nest = false → s.core.csr.tvec = 0 →
      t.core.c.stop = .held ∧ t.core.c.bank = ⟨BitVec.ofNat 64 c, s.pc .c, v, lab⟩ ∧ t.core.latch = true ∧ t.pc .c = s.pc .c ∧
        t.core.csr.nest = false) ∧
    (s.core.csr.nest = true →
      t.core.c.stop = .held ∧ t.core.c.bank = ⟨2, s.pc .c, BitVec.ofNat 64 c, lab⟩ ∧ t.core.latch = true ∧ t.pc .c = s.pc .c ∧
        t.core.csr.nest = true)

/-- A trap of stream A or M stops it with its bank filled: its DELEG bit, with a TVEC, keeps the stop for the C-stream; otherwise it goes to the service path. The other
streams, the registers and memory do not change (R250, R251). A trap of the V-stream fills its bank and stops it likewise. -/
def Sys2Proof.Claims.TrapStopsTheOtherStreams : Prop :=
  (∀ (s : State) st c v l, st = .a ∨ st = .m → let t := s.takeTrap st c v l
    let lab := Label.join (s.clab st) l
    (t.strm st).bank = ⟨BitVec.ofNat 64 c, s.pc st, v, lab⟩ ∧ t.clab st = lab ∧ t.pc st = s.pc st ∧
    (t.strm st).stop = (if s.core.csr.deleg.toNat / 2 ^ st.num % 2 = 1 ∧ s.core.csr.tvec ≠ 0 then .delegated else .held) ∧
    t.core.latch = true ∧ (∀ u, u ≠ st → t.strm u = s.strm u) ∧ t.core.x = s.core.x ∧ t.core.ar = s.core.ar ∧
    t = { s with core := t.core, labels := t.labels, freeNo := t.freeNo }) ∧
  ∀ (s : State) c v l, let t := s.takeTrap .v c v l
    t.core.v.bank.cause = BitVec.ofNat 64 c ∧ t.core.v.bank.tval = v ∧ t.core.v.bank.epc = s.pc .v ∧ t.pc .v = s.pc .v ∧
      (t.core.v.stop = .delegated ∨ t.core.v.stop = .held) ∧ t.core.latch = true

/-- Traps that no handler of the stream takes. -/
def Obligations.TrapsStopStreamsOrReachTheServicePath : Prop :=
  UnhandledTrapStopsTheControlStream ∧ TrapStopsTheOtherStreams

/-- R301 whole: BRK in every stream is the breakpoint trap, with EPC its address and TVAL its code, and no other effect; its encoding and its example. A younger word of the
M-stream waits for the older ones first (R250). -/
def Obligations.BrkRaisesTheBreakpointTrap : Prop :=
  (∀ st h (c : BitVec 18), encode (.brk st h c) =
    some (h.w.toNat * 2 ^ 31 + h.s.toNat * 2 ^ 30 + h.k.toNat * 2 ^ 29 + 0x3F * 2 ^ 23 + 5 * 2 ^ 18 + c.toNat)) ∧
  (∀ st, decode false st 0x1F940007 = .ok (.brk st plain 7#18)) ∧ decode true .c 0x1F940007 = .ok (.brk .c plain 7#18) ∧
  ∀ st h c, Traps (.brk st h c) st h (fun s => st = .m → s.core.m.infl = []) 4 (fun _ => c.setWidth 64) fun s => s.clab st

/-- R354: TRAP is the software trap of the C-stream, with TVAL its code; R312: with NEST = 0 ERET is illegal, and with NEST = 1 it clears NEST, joins the label of bank C into CLABEL and issues
the word at EPC next (R214). -/
def Sys2Proof.Claims.TrapAndEretWords : Prop :=
  (∀ h i, Traps (.trap h i) .c h (fun _ => True) 5 (fun _ => i.setWidth 64) fun s => s.clab .c) ∧
  (∀ h s, Unhindered (.eret h) s .c → s.core.csr.nest = false →
    exec (.eret h) s = .next (s.takeTrap .c 1 (wordOf (.eret h)) 0).tick) ∧
  ∀ h, Completes (.eret h) .c h
    (fun s => s.core.csr.nest = true ∧ s.canIntern (Label.join (s.clab .c) s.core.c.bank.lab) = true)
    (fun s => (s.raised .c s.core.c.bank.lab).modCore fun k => { k with csr := { k.csr with nest := false } })
    (fun s => s.core.c.bank.epc &&& ~~~3#64)

/-- TRAP and BRK of the C-stream, end to end: with a handler installed and none running, the word leads to the handler's first word, and bank C names the word and its code. -/
def Sys2Proof.Claims.SoftwareTrapsReachTheHandler : Prop :=
  ∀ h s s1, s.core.csr.nest = false → s.core.csr.tvec ≠ 0 →
    (∀ i, issue (.trap h i) .c h s = .go s1 → ∃ t, exec (.trap h i) s = .next t ∧ t.pc .c = s.core.csr.tvec ∧ t.core.csr.nest = true ∧
      t.core.c.bank.cause = 5 ∧ t.core.c.bank.epc = s.pc .c ∧ t.core.c.bank.tval = i.setWidth 64 ∧ t.core.x = s.core.x ∧ t.mem = s.mem) ∧
    (∀ c, issue (.brk .c h c) .c h s = .go s1 → ∃ t, exec (.brk .c h c) s = .next t ∧ t.pc .c = s.core.csr.tvec ∧ t.core.csr.nest = true ∧
      t.core.c.bank.cause = 4 ∧ t.core.c.bank.epc = s.pc .c ∧ t.core.c.bank.tval = c.setWidth 64 ∧ t.core.x = s.core.x ∧ t.mem = s.mem)

/-- TRAP, BRK and ERET. -/
def Obligations.TrapAndEretReachAndLeaveTheHandler : Prop :=
  TrapAndEretWords ∧ SoftwareTrapsReachTheHandler

/-! ### Memory words of the C-stream -/

/-- The effective address of LD and ST: the offset counts elements of the access (R40, R322). -/
def Sys2Proof.Claims.eaOf (s : State) (a : Fin 64) (z : Fin 4) (o : BitVec 7) : W64 := s.core.vx a + BitVec.ofNat 64 (2 ^ z.val) * o.signExtend 64
/-- A load of the bytes `need` into register `d` enters the load queue; the register waits for it (R165, R299). -/
def Sys2Proof.Claims.loadInto (s : State) (d : Fin 64) (l : Label) (need : List (Nat × Loc × Bool)) (acq : Option Scope) : State :=
  (s.pushLq .c ⟨s.core.next, s.core.next, .load need (need.map fun _ => none) (.x d l), acq⟩).modCore fun k => k.pend d
/-- No piece of an access is barred: far addresses in use, and, on a dispatch core, frames with the empty label alone (R213, R266, R267, R270). -/
abbrev Sys2Proof.Claims.Reachable (s : State) (ps : List Piece) : Prop :=
  (∀ p ∈ ps, s.farOk p.pa = true) ∧ (s.core.dispatch = true → ∀ p ∈ ps, paClass p.pa = 0 ∨ paClass p.pa = 2 → p.tag = 0)
/-- Beside what a word has left in `s`, moving on changes what `Moved` names, and the stream keeps its routes. -/
abbrev Sys2Proof.Claims.Leaves (st : Stream) (s t : State) : Prop := Moved st s t ∧ RoutesKept st s t
/-- The queues of the core have room for what a word has put there (R8). -/
abbrev Sys2Proof.Claims.Fits (s : State) : Prop := s.core.requests ≤ maxRequests
/-- The last word issued is in flight. -/
abbrev Sys2Proof.Claims.InFlight (t : State) (st : Stream) (id : Nat) : Prop := ∃ e ∈ (t.strm st).infl, e.id = id ∧ e.done = false

/-- R322: a scratchpad load takes the labels of its segments; an access of memory is translated, its frames' labels have their place in the label table, and an acquire or a plain load
enters the load queue. The address register raises CLABEL. The word is in flight until its register is written. A poisoned byte, or a scratchpad line that its bank reports, is a trap instead (R157). -/
def Sys2Proof.Claims.LoadsEnterTheLoadQueue : Prop :=
  (∀ h d a z o, Waits (.ld h d a z 0 o) .c h
    (fun s => XReady s [d, a] a ∧ s.core.dispatch = false ∧ (eaOf s a z o).toNat + 2 ^ z.val ≤ 393216 ∧
      (∀ i, i < 2 ^ z.val → (s.core.c.forward s.core.next (.scr s.core.id ((eaOf s a z o).toNat + i))).isSome = true ∨
        ((eaOf s a z o).toNat + i) / 64 ∉ s.core.scrBad) ∧
      let l := Label.join ((viaX s a).resultLab [a]) (s.core.segsLabel (eaOf s a z o).toNat (2 ^ z.val))
      (viaX s a).canIntern l = true)
    (fun s =>
      let l := Label.join ((viaX s a).resultLab [a]) (s.core.segsLabel (eaOf s a z o).toNat (2 ^ z.val))
      loadInto ((viaX s a).intern l) d l
        (((List.range (2 ^ z.val)).map fun i => Loc.scr s.core.id ((eaOf s a z o).toNat + i)).map fun x => (0, x, true)) none)) ∧
  (∀ h d a z c o s s1 s2 ps, c ≠ 0 → issue (.ld h d a z c o) .c h s = .go s1 → XReady s1 [d, a] a →
    (2 ≤ c.val → (eaOf s1 a z o).toNat % 2 ^ z.val = 0) →
    (viaX s1 a).access .read (eaOf s1 a z o) (2 ^ z.val) ((viaX s1 a).resultLab [a]) = .ok (s2, ps) → Reachable s2 ps →
    s2.poisoned .c (decide (2 ≤ c.val)) ps = none → let lab := (viaX s1 a).resultLab [a]
    let l := Label.join lab (Label.joins (ps.map (·.tag)))
    s2.canIntern l = true → let e := loadInto (s2.intern l) d lab (pieceNeed ps) (ldScope c)
    MayRun (.ld h d a z c o) .c s e →
    ∃ t, exec (.ld h d a z c o) s = .next t ∧ t.pc .c = s1.pc .c + 4 ∧ Leaves .c e t ∧ InFlight t .c s1.core.next)

/-- R349: a store to the scratchpad needs every segment to allow its label and stays in flight; a store to memory needs every device frame to allow it, enters the store queue as one entry with the low bytes of xd,
and the stream moves on. Its label has its entry in the label table first (R194). -/
def Sys2Proof.Claims.StoresEnterTheStoreQueue : Prop :=
  (∀ h d a z o, Waits (.st h d a z 0 o) .c h
    (fun s => XReady s [d, a] a ∧ (viaX s a).canIntern ((viaX s a).resultLab [a, d]) = true ∧ s.core.dispatch = false ∧
      (eaOf s a z o).toNat + 2 ^ z.val ≤ 393216 ∧
      s.core.segsAllow ((viaX s a).resultLab [a, d]) (eaOf s a z o).toNat (2 ^ z.val) = true)
    (fun s => ((viaX s a).intern ((viaX s a).resultLab [a, d])).pushSq .c ⟨s.core.next, s.core.next,
      .store ((((List.range (2 ^ z.val)).map fun i => Loc.scr s.core.id ((eaOf s a z o).toNat + i))).zip (natLe (2 ^ z.val) (s.core.vx d).toNat))
        true false none [], (viaX s a).resultLab [a, d], eaOf s a z o, [], none⟩)) ∧
  (∀ h d a z c o s s1 s2 ps, c ≠ 0 → issue (.st h d a z c o) .c h s = .go s1 → XReady s1 [d, a] a →
    (2 ≤ c.val → (eaOf s1 a z o).toNat % 2 ^ z.val = 0) → let lab := (viaX s1 a).resultLab [a, d]
    (viaX s1 a).canIntern lab = true →
    ((viaX s1 a).intern lab).access .write (eaOf s1 a z o) (2 ^ z.val) lab = .ok (s2, ps) → Reachable s2 ps →
    (∀ p ∈ ps, paClass p.pa = 0 → Label.sub lab p.tag = true) →
    let e := (s2.dropRdc (pieceLines ps)).pushStore .c s2.core.next (ldScope c) true false lab ps (natLe (2 ^ z.val) (s1.core.vx d).toNat)
    Fits e → ∃ t, exec (.st h d a z c o) s = .next t ∧ t.pc .c = s1.pc .c + 4 ∧ Leaves .c e t)

/-- LD and ST. -/
def Obligations.LoadsAndStoresEnterTheirQueues : Prop :=
  LoadsEnterTheLoadQueue ∧ StoresEnterTheStoreQueue

/-- R289, R302: an atomic on a word of device or peer memory that its frame's label allows enters both queues with its operands, and its register waits. -/
def Obligations.AtomicsEnterBothQueues : Prop :=
  ∀ (i : Instr) h srcs d a b sz op sc,
    ((∃ p, i = .amoW h d a b p sc ∧ srcs = [a, b] ∧ sz = 4 ∧ op = some p) ∨ (∃ p, i = .amoD h d a b p sc ∧ srcs = [a, b] ∧ sz = 8 ∧ op = some p) ∨
      ∃ z, i = .cas h d a b z sc ∧ srcs = [d, a, b] ∧ sz = (if z then 8 else 4) ∧ op = none) →
    ∀ s s1 s2 p, issue i .c h s = .go s1 → XReady s1 (d :: srcs) a → (s1.core.vx a).toNat % sz = 0 →
    let lab := (viaX s1 a).resultLab srcs
    (viaX s1 a).access .rdwr (s1.core.vx a) sz lab = .ok (s2, [p]) →
    (paClass p.pa = 0 ∧ s2.poison.contains (lineOf p.pa) = false ∨ paClass p.pa = 2 ∧ s2.farOk p.pa = true) →
    (s2.core.dispatch = true → p.tag = 0) → Label.sub lab p.tag = true → let l := Label.join lab p.tag
    s2.canIntern l = true →
    let e : State := let u := (s2.intern l).dropRdc (pieceLines [p])
      { u with core := { u.core with
        c := { u.core.c with
          lq := u.core.c.lq ++ [⟨s2.core.next, s2.core.next, .atomic, some sc⟩]
          sq := u.core.c.sq ++ [⟨s2.core.next, s2.core.next,
            .atomic (.amo (.mem p.pa) sz op (s1.core.vx d) (s1.core.vx b) d lab sc (s1.core.vx a)), l, s1.core.vx a, [], none⟩] }
        xPend := if d = 0 then u.core.xPend else d :: u.core.xPend } }
    Fits e → ∃ t, exec i s = .next t ∧ t.pc .c = s1.pc .c + 4 ∧ InFlight t .c s1.core.next ∧ Leaves .c e t

/-- The traps of LD, ST, AMO and CAS: a scratchpad access past the scratchpad or on a dispatch core (0x0011), an acquire, a release or an atomic that is not aligned (0x0010), a scratchpad store whose label
a segment does not allow (0x0020), a translation that faults with its cause and the address of the failing run, an atomic on host memory (bad-frame), each with the address in TVAL (R144, R192, R201, R254, R267). -/
def Obligations.MemoryWordsTrap : Prop :=
  (∀ h d a z o, Traps (.ld h d a z 0 o) .c h
    (fun s => XReady s [d, a] a ∧ (s.core.dispatch = true ∨ 393216 < (eaOf s a z o).toNat + 2 ^ z.val)) 0x11
    (fun s => eaOf s a z o) fun s => (viaX s a).resultLab [a]) ∧
  (∀ h d a z o, Traps (.st h d a z 0 o) .c h
    (fun s => XReady s [d, a] a ∧ (viaX s a).canIntern ((viaX s a).resultLab [a, d]) = true ∧
      (s.core.dispatch = true ∨ 393216 < (eaOf s a z o).toNat + 2 ^ z.val)) 0x11
    (fun s => eaOf s a z o) fun s => (viaX s a).resultLab [a, d]) ∧
  (∀ h d a z o, Traps (.st h d a z 0 o) .c h
    (fun s => XReady s [d, a] a ∧ (viaX s a).canIntern ((viaX s a).resultLab [a, d]) = true ∧ s.core.dispatch = false ∧ (eaOf s a z o).toNat + 2 ^ z.val ≤ 393216 ∧
      s.core.segsAllow ((viaX s a).resultLab [a, d]) (eaOf s a z o).toNat (2 ^ z.val) = false) 0x20
    (fun s => eaOf s a z o) fun s => (viaX s a).resultLab [a, d]) ∧
  (∀ h d a z c o, 2 ≤ c.val → Traps (.ld h d a z c o) .c h
    (fun s => XReady s [d, a] a ∧ (eaOf s a z o).toNat % 2 ^ z.val ≠ 0) 0x10 (fun s => eaOf s a z o) fun s => (viaX s a).resultLab [a]) ∧
  (∀ h d a z c o, 2 ≤ c.val → Traps (.st h d a z c o) .c h
    (fun s => XReady s [d, a] a ∧ (viaX s a).canIntern ((viaX s a).resultLab [a, d]) = true ∧ (eaOf s a z o).toNat % 2 ^ z.val ≠ 0) 0x10 (fun s => eaOf s a z o) fun s => (viaX s a).resultLab [a, d]) ∧
  (∀ h d a b p c, Traps (.amoD h d a b p c) .c h (fun s => XReady s [d, a, b] a ∧ (s.core.vx a).toNat % 8 ≠ 0) 0x10
    (fun s => s.core.vx a) fun s => (viaX s a).resultLab [a, b]) ∧
  (∀ h d a b c, Traps (.cas h d a b false c) .c h (fun s => XReady s [d, d, a, b] a ∧ (s.core.vx a).toNat % 4 ≠ 0) 0x10
    (fun s => s.core.vx a) fun s => (viaX s a).resultLab [d, a, b]) ∧
  (∀ h d a b p c lvl, Traps (.amoD h d a b p c) .c h
    (fun s => XReady s [d, a, b] a ∧ (s.core.vx a).toNat % 8 = 0 ∧ ∃ s2 q,
      (viaX s a).access .rdwr (s.core.vx a) 8 ((viaX s a).resultLab [a, b]) = .ok (s2, [q]) ∧ paClass q.pa = 1 ∧ q.lvl = lvl) (cBadFrame lvl)
    (fun s => s.core.vx a) fun s => (viaX s a).resultLab [a, b]) ∧
  ∀ h d a z o cause va, Traps (.ld h d a z 1 o) .c h
    (fun s => XReady s [d, a] a ∧ (viaX s a).access .read (eaOf s a z o) (2 ^ z.val) ((viaX s a).resultLab [a]) =
      .error (.trap cause va ((viaX s a).resultLab [a]))) cause
    (fun _ => va) fun s => (viaX s a).resultLab [a]

/-- R313, R343: FENCE and QALIGN put markers in both queues and are in flight until these have left; AFENCE does so in the A-stream (R284). -/
def Sys2Proof.Claims.FencesPlaceMarkers : Prop :=
  ∀ (i : Instr) st h k k', ((∃ n sc, i = .fence h n sc ∧ st = .c ∧ k = .fence n sc ∧ k' = .fence n sc) ∨
      (i = .qalign h ∧ st = .c ∧ k = .qalign ∧ k' = .qalign) ∨ ∃ n sc, i = .afence h n sc ∧ st = .a ∧ k = .fence n sc ∧ k' = .fence n sc) →
    Waits i st h (fun _ => True) fun s => s.modStrm st fun t => { t with
      lq := t.lq ++ [⟨s.core.next, s.core.next, k, none⟩], sq := t.sq ++ [⟨s.core.next, s.core.next, k', 0, 0, [], none⟩] }

/-- R319: LBCHK writes 1 where a store of a byte at xb with ResultLabel would pass the subset rule, else 0; it stores nothing, and raises no CLABEL and above device memory tests for the empty label (log entry 26 for these two). -/
def Sys2Proof.Claims.LbchkTestsTheSubsetRule : Prop :=
  ∀ h d a b s s1 s2 p, issue (.lbchk h d a b) .c h s = .go s1 → s1.core.ready [d, a, b] = true →
    s1.pieces .c .write (s1.resultLab [a, b]) [((s1.core.vx b).toNat, 1)] = .ok (s2, [p]) →
    (d = 0 ∨ s2.canIntern (s1.resultLab [a, b]) = true) →
    let e := s2.result d (if (if paClass p.pa = 0 then s1.resultLab [a, b] &&& p.tag = s1.resultLab [a, b] else s1.resultLab [a, b] = 0) then 1 else 0)
      (s1.resultLab [a, b])
    Fits e → ∃ t, exec (.lbchk h d a b) s = .next t ∧ t.pc .c = s1.pc .c + 4 ∧ Leaves .c e t

/-! ### The C-stream's words over queues, nest slots, rings and CSRs -/

/-- R304, R314: FMTQ and CQPUT append xa with its label once the older words have performed and the queue of sixteen has room; a push to a stream that has ended is discarded. -/
def Sys2Proof.Claims.QueuePushesAppend : Prop :=
  (∀ h a, Completes (.fmtq h a) .c h
    (fun s => s.core.ready [a] = true ∧ s.core.c.olderBoth s.core.next = true ∧ s.core.fmtq.length < 16 ∧ s.canIntern (s.resultLab [a]) = true)
    (fun s => (s.intern (s.resultLab [a])).modCore fun k => { k with fmtq := k.fmtq ++ [⟨s.core.vx a, s.resultLab [a]⟩] }) fun s => s.pc .c + 4) ∧
  (∀ h a, Completes (.cqput h a false) .c h
    (fun s => s.core.ready [a] = true ∧ s.core.c.olderBoth s.core.next = true ∧ s.core.a.ended = false ∧ s.core.cqA.length < 16 ∧
      s.canIntern (s.resultLab [a]) = true)
    (fun s => (s.intern (s.resultLab [a])).modCore fun k => { k with cqA := k.cqA ++ [⟨s.core.vx a, s.resultLab [a]⟩] }) fun s => s.pc .c + 4) ∧
  (∀ h a, Completes (.cqput h a true) .c h
    (fun s => s.core.ready [a] = true ∧ s.core.c.olderBoth s.core.next = true ∧ s.core.v.ended = false ∧ s.core.cqV.length < 16 ∧
      s.canIntern (s.resultLab [a]) = true)
    (fun s => (s.intern (s.resultLab [a])).modCore fun k => { k with cqV := k.cqV ++ [⟨s.core.vx a, s.resultLab [a]⟩] }) fun s => s.pc .c + 4) ∧
  ∀ h a q, Completes (.cqput h a q) .c h
    (fun s => s.core.ready [a] = true ∧ s.core.c.olderBoth s.core.next = true ∧ (s.core.strm (if q then .v else .a)).ended = true)
    (fun s => s) fun s => s.pc .c + 4

/-- FENCE, QALIGN, AFENCE, FMTQ and CQPUT. -/
def Obligations.MarkersAndQueuePushes : Prop :=
  FencesPlaceMarkers ∧ QueuePushesAppend

/-- R112, R113, R340: NSTSET writes one field of a slot's shadow copy, whose label joins the word's; the other fields, slots and active copies stay. R345: RGQRY reads a count. R346: RGSET writes a field of an idle ring, whose binding is checked anew (R150), or clears its counts. -/
def Sys2Proof.Claims.NestAndRingWordsWriteTheirField : Prop :=
  (∀ h d t v f, nestSelOk v f = true → Completes (.nstset h d t v f) .c h
    (fun s => s.core.ready [d] = true ∧ s.canIntern (Label.join s.core.shadow[t].lab (s.resultLab [d])) = true)
    (fun s => (s.intern (Label.join s.core.shadow[t].lab (s.resultLab [d]))).modCore fun k => { k with
      shadow := k.shadow.set t ⟨k.shadow[t].f.set (Fin.ofNat 51 (6 * v.val + f.val)) (s.core.vx d), Label.join k.shadow[t].lab (s.resultLab [d])⟩ })
    fun s => s.pc .c + 4) ∧
  (∀ h d r n, Completes (.rgqry h d r n) .c h
    (fun s => s.core.ready [d] = true ∧ (d = 0 ∨ s.canIntern (s.countLab (s.core.ring r)) = true))
    (fun s => s.result d ((match n with | .clm => (s.core.ring r).claimed | .fil => (s.core.ring r).filled | .fre => (s.core.ring r).freed).setWidth 64)
      (s.countLab (s.core.ring r))) fun s => s.pc .c + 4) ∧
  (∀ h d (r : Fin 16) f, Completes (.rgset h d r f) .c h
    (fun s => let n := (s.core.vx d).toNat
      let g := s.core.ring r
      s.core.ready [d] = true ∧ s.canIntern (s.resultLab [d]) = true ∧ (f = .reset ∨ g.claimed = g.freed) ∧
      (match f with
        | .base => n % 64 = 0 ∧ n ≤ 393152
        | .logsz => 6 ≤ n ∧ n ≤ 16
        | .count => 1 ≤ n ∧ n ≤ 4096
        | .peer => n < 2 ^ 16 ∧ n / 2 ^ 14 ≠ 3
        | .reset => n = 0) ∧
      ∀ i ∈ (match f with
        | .base => ({ g with base := n } : Ring)
        | .logsz => { g with logsz := n }
        | .count => { g with count := n }
        | _ => g).segs, Label.sub (s.resultLab [d]) (s.core.segLabel i) = true)
    (fun s => let n := (s.core.vx d).toNat
      (s.intern (s.resultLab [d])).modCore fun k => { k with rings := k.rings.set r (match f with
        | .base => { k.rings[r] with base := n, checked := false }
        | .logsz => { k.rings[r] with logsz := n, checked := false }
        | .count => { k.rings[r] with count := n, checked := false }
        | .peer => { k.rings[r] with peer := n, checked := false }
        | .reset => { k.rings[r] with claimed := 0, filled := 0, freed := 0 }) }) fun s => s.pc .c + 4) ∧
  ∀ h d (r : Fin 16) f, f ≠ .reset → Traps (.rgset h d r f) .c h
    (fun s => s.core.ready [d] = true ∧ (s.core.ring r).claimed ≠ (s.core.ring r).freed) 0x12 (fun _ => BitVec.ofNat 64 r.val) fun s => s.resultLab [d]

/-- NSTSET, RGSET, RGQRY and LBCHK. -/
def Obligations.NestRingAndLabelWords : Prop :=
  NestAndRingWordsWriteTheirField ∧ LbchkTestsTheSubsetRule

/-- R306, R307: CSRR writes a CSR's value with its label and CLABEL's; CSRW swaps, the old value and label going to xd, and joins the source's label and CLABEL into the CSR's; a CSR that is read-only throughout keeps its value. -/
def Sys2Proof.Claims.CsrWordsReadAndWrite : Prop :=
  (∀ h d c, Completes (.csrr h d c) .c h
    (fun s => s.core.ready [d] = true ∧ (d = 0 ∨ s.canIntern (Label.join (s.csrLab c) (s.clab .c)) = true))
    (fun s => s.result d (s.csrVal c) (Label.join (s.csrLab c) (s.clab .c))) fun s => s.pc .c + 4) ∧
  (∀ h d a c, csrReadOnly c = true → Completes (.csrw h d a c) .c h
    (fun s => s.core.ready [d, a] = true ∧ (d = 0 ∨ s.canIntern (s.csrLab c) = true))
    (fun s => s.result d (s.csrVal c) (s.csrLab c)) fun s => s.pc .c + 4) ∧
  (∀ h d a c, c = .cause ∨ c = .epc ∨ c = .tval → let l := fun (s : State) => Label.join (labX s a) (s.clab .c)
    let u := fun (s : State) => ((s.intern (Label.join (s.csrLab c) (l s))).modBank fun b => { b with lab := Label.join b.lab (l s) }).csrStore c (s.core.vx a)
    Completes (.csrw h d a c) .c h
    (fun s => s.core.ready [d, a] = true ∧ s.canIntern (Label.join (s.csrLab c) (l s)) = true ∧ (d = 0 ∨ (u s).canIntern (s.csrLab c) = true))
    (fun s => (u s).result d (s.csrVal c) (s.csrLab c)) fun s => s.pc .c + 4) ∧
  ∀ h d a c, csrReadOnly c = false → c ≠ .cause → c ≠ .epc → c ≠ .tval → let l := fun (s : State) => Label.join (labX s a) (s.clab .c)
    let u := fun (s : State) => (s.intern (Label.join (s.csrLab c) (l s))).modCore fun k => { k with csr := k.csr.joinLab c (l s) }
    Completes (.csrw h d a c) .c h
    (fun s => s.core.ready [d, a] = true ∧ s.canIntern (Label.join (s.csrLab c) (l s)) = true ∧
      (d = 0 ∨ ((u s).csrStore c (s.core.vx a)).canIntern (s.csrLab c) = true))
    (fun s => ((u s).csrStore c (s.core.vx a)).result d (s.csrVal c) (s.csrLab c)) fun s => s.pc .c + 4

/-- What a written CSR reads as afterwards (R4, R5, R249): TVEC without its low bits, CAUSE sixteen bits, STITCHSET four, VTYPE eight, WELTSTAT and SKIPSPEC cleared by a 1, STATUS its DELEG and BANK fields with NEST kept; SCRATCH, EPC, TVAL and BANKSTALL what was written; a CSR that is read-only throughout is not changed, and the Reserved bits of MROWPROG and NSTCUR read as zero (R116, R118). -/
def Sys2Proof.Claims.WrittenCsrsReadBack : Prop :=
  ∀ (s : State) (v : W64), (s.csrStore .scratch v).csrVal .scratch = v ∧ (s.csrStore .epc v).csrVal .epc = v ∧ (s.csrStore .tval v).csrVal .tval = v ∧
    (s.csrStore .bankstall v).csrVal .bankstall = v ∧ (s.csrStore .tvec v).csrVal .tvec = v &&& ~~~3#64 ∧
    (s.csrStore .cause v).csrVal .cause = v &&& 0xFFFF#64 ∧ (s.csrStore .stitchset v).csrVal .stitchset = v &&& 15#64 ∧
    (s.csrStore .vtype v).csrVal .vtype = v &&& 0xFF#64 ∧
    ((s.csrStore .weltstat v).csrVal .weltstat = if v.getLsbD 63 then s.csrVal .weltstat &&& ~~~(1#64 <<< 63) else s.csrVal .weltstat) ∧
    ((s.csrStore .skipspec v).csrVal .skipspec = if v.getLsbD 0 then 0 else s.csrVal .skipspec) ∧
    ((s.csrStore .status v).csrVal .status).getLsbD 0 = s.core.csr.nest ∧
    ((s.csrStore .status v).csrVal .status).extractLsb' 8 2 = v.extractLsb' 8 2 ∧
    ((s.csrStore .status v).csrVal .status).extractLsb' 13 3 = v.extractLsb' 13 3 ∧
    ((s.csrStore .status v).csrVal .status).getLsbD 12 = false ∧
    (∀ c, csrReadOnly c = true → s.csrStore c v = s) ∧
    s.csrVal .mrowprog &&& 0xFE000000FFFFFFFF#64 = 0 ∧ s.csrVal .nstcur &&& 0x0FFF000000000000#64 = 0

/-- CSRR and CSRW, and what a written CSR reads as. -/
def Obligations.CsrsAreReadAndWritten : Prop :=
  CsrWordsReadAndWrite ∧ WrittenCsrsReadBack

/-! ### DACC and lace words -/

/-- R309, R310: a DACC word of the C-stream whose address is aligned and translates to device memory sends its entry, and nothing younger of the C-stream issues until that has performed. -/
def Sys2Proof.Claims.DaccWordsSendTheirEntry : Prop :=
  ∀ (i : Instr) h srcs a (op : State → DaccOp) n,
    ((∃ b, i = .daccOpen h a b ∧ srcs = [a, b] ∧ (op = fun s => .open_ (s.core.vx b)) ∧ n = fun (s : State) => (s.core.vx b).toNat / 2 ^ 16 % 4096 + 1) ∨
      (∃ b, i = .daccAdd h a b ∧ srcs = [a, b] ∧ (op = fun s => .add (s.core.vx b) false) ∧ n = fun _ => 1) ∨
      (∃ b, i = .daccAddx h a b ∧ srcs = [a, b] ∧ (op = fun s => .add (s.core.vx b) true) ∧ n = fun _ => 1) ∨
      (∃ d, i = .daccRead h d a ∧ srcs = [a] ∧ (op = fun _ => .read d) ∧ n = fun _ => 1)) →
    ∀ s s1 s2 s3 first ps, issue i .c h s = .go s1 → XReady s1 ((match op s1 with | .read d => [d] | _ => []) ++ srcs) a →
    (s1.core.vx a).toNat % 4 = 0 → (viaX s1 a).access .rdwr (s1.core.vx a) 4 ((viaX s1 a).resultLab srcs) = .ok (s2, first) →
    s2.access .rdwr (s1.core.vx a) (4 * n s1) ((viaX s1 a).resultLab srcs) = .ok (s3, ps) → (∀ p ∈ ps, paClass p.pa = 0) →
    (s3.core.dispatch = true → ∀ p ∈ ps, p.tag = 0) →
    let e := s3.modCore fun k => { k with dacc := some ⟨op s1, s1.core.next, s1.core.vx a,
      ps.flatMap (fun p => (List.range (p.len / 4)).map fun i => p.pa + 4 * i), (viaX s1 a).resultLab srcs,
      if s1.core.lace.st = .granted then ps.head?.map (·.tag) else none⟩ }
    Fits e → ∃ t, exec i s = .next t ∧ t.pc .c = s1.pc .c + 4 ∧ t.core.c.blocked = some s1.core.next ∧ Leaves .c e t

/-- R309, R310: DACC.CLOSE sends its entry over the words of the open region at its address, and the remote-data cache drops their lines as it issues (R165). An address that is not aligned traps 0x0010. -/
def Sys2Proof.Claims.DaccCloseCoversItsRegion : Prop :=
  (∀ h a s s1 s2 s3 p first ps g, issue (.daccClose h a) .c h s = .go s1 → XReady s1 [a] a → (s1.core.vx a).toNat % 4 = 0 →
    (viaX s1 a).access .rdwr (s1.core.vx a) 4 ((viaX s1 a).resultLab [a]) = .ok (s2, p :: first) → s2.regionAt p.pa = some g →
    s2.access .rdwr (s1.core.vx a) (4 * g.words.length) ((viaX s1 a).resultLab [a]) = .ok (s3, ps) → (∀ p ∈ ps, paClass p.pa = 0) →
    (s3.core.dispatch = true → ∀ p ∈ ps, p.tag = 0) →
    let pas := ps.flatMap fun p => (List.range (p.len / 4)).map fun i => p.pa + 4 * i
    let e := (s3.dropRdc (pas.map lineOf).dedup).modCore fun k => { k with dacc := some ⟨.close, s1.core.next, s1.core.vx a, pas,
      (viaX s1 a).resultLab [a], if s1.core.lace.st = .granted then ps.head?.map (·.tag) else none⟩ }
    Fits e → ∃ t, exec (.daccClose h a) s = .next t ∧ t.pc .c = s1.pc .c + 4 ∧ t.core.c.blocked = some s1.core.next ∧ Leaves .c e t) ∧
  (∀ h a b, Traps (.daccAdd h a b) .c h (fun s => XReady s [a, b] a ∧ (s.core.vx a).toNat % 4 ≠ 0) 0x10 (fun s => s.core.vx a)
    fun s => (viaX s a).resultLab [a, b]) ∧
  ∀ h a, Traps (.daccClose h a) .c h (fun s => XReady s [a] a ∧ (s.core.vx a).toNat % 4 ≠ 0) 0x10 (fun s => s.core.vx a)
    fun s => (viaX s a).resultLab [a]

/-- The five DACC words. -/
def Obligations.DaccWordsReachTheirHome : Prop :=
  DaccWordsSendTheirEntry ∧ DaccCloseCoversItsRegion

/-- R220: LCDECL adds a tile of device memory to an idle or declaring slot; a repeated tile counts once, a seventeenth is the lace-state fault 0x0028. -/
def Sys2Proof.Claims.LcdeclDeclaresATile : Prop :=
  ∀ h a s s1, issue (.lcdecl h a) .c h s = .go s1 → XReady s1 [a] a → (s1.core.lace.st = .idle ∨ s1.core.lace.st = .declaring) →
    (s1.core.vx a).toNat % 256 = 0 → ∀ s2 pa pol, (viaX s1 a).translate .c (s1.core.vx a) .rdwr = .ok (s2, pa, pol) → pa < 2 ^ 50 →
    Fits s2 → ((∀ t ∈ s1.core.lace.tiles, t.pa ≠ pa) → s1.core.lace.tiles.length < 16 →
      ∃ t, exec (.lcdecl h a) s = .next t ∧ t.pc .c = s1.pc .c + 4 ∧ Leaves .c { s2 with core := { s2.core with
        lace := { s1.core.lace with
          st := .declaring, lab := s2.clab .c, tiles := s1.core.lace.tiles ++ [⟨s1.core.vx a, pa, pol, 0⟩] } } } t) ∧
    ((∃ t ∈ s1.core.lace.tiles, t.pa = pa) →
      ∃ t, exec (.lcdecl h a) s = .next t ∧ t.pc .c = s1.pc .c + 4 ∧
        Leaves .c { s2 with core := { s2.core with lace := { s1.core.lace with st := .declaring, lab := s2.clab .c } } } t) ∧
    ((∀ t ∈ s1.core.lace.tiles, t.pa ≠ pa) → 16 ≤ s1.core.lace.tiles.length →
      exec (.lcdecl h a) s = .next (s.takeTrap .c 0x28 (s1.core.vx a) (s1.resultLab [a])).tick)

/-- R220, R223, R226: LCSUB sends a declaring slot for the beat it names and waits; LCWAIT, the first word of a region, enters the load queue as a device-scope acquire and waits there for its grants (R165), the
region's clocks standing until it retires; LCEND leaves a body, its tiles returned behind its writes. In another state of the slot each is the lace-state fault. -/
def Sys2Proof.Claims.LaceWordsMoveTheSlot : Prop :=
  (∀ h d a, Waits (.lcsub h d a) .c h
    (fun s => XReady s [d, a] a ∧ s.core.lace.st = .declaring ∧
      ((s.core.vx a).toNat = 0 ∨ s.tstep ≤ (s.core.vx a).toNat ∧ (s.core.vx a).toNat ≤ s.tstep + 65535))
    (fun s => let b := if (s.core.vx a).toNat = 0 then s.tstep else (s.core.vx a).toNat
      (viaX s a).modCore fun k => { k with
        lace := { k.lace with beat := b, sub := .sent (s.core.vx a).toNat b, rd := d, lab := k.c.clab }
        xPend := if d = 0 then k.xPend else d :: k.xPend })) ∧
  (∀ h, Waits (.lcwait h) .c h
    (fun s => s.core.lace.st = .submitted ∧ ∃ r, s.core.c.hold = some r ∧ r.first = true)
    (fun s => (s.pushLq .c ⟨s.core.next, s.core.next, .lcwait, some .dv⟩).modStrm .c fun t =>
      { t with hold := t.hold.map fun r => { r with wait := some s.core.next } })) ∧
  (∀ h, Waits (.lcend h) .c h (fun s => s.core.lace.st = .granted ∧ s.core.c.hold.isSome = true) fun s => s.leaveLace) ∧
  (∀ h d a, Traps (.lcsub h d a) .c h (fun s => s.core.ready [d, a] = true ∧ s.core.lace.st ≠ .declaring) 0x28
    (fun s => s.core.vx a) fun s => s.resultLab [a]) ∧
  (∀ h, Traps (.lcwait h) .c h (fun s => s.core.lace.st ≠ .submitted) 0x28 (fun _ => 0) fun s => s.clab .c) ∧
  ∀ h, Traps (.lcend h) .c h (fun s => s.core.lace.st ≠ .granted) 0x28 (fun _ => 0) fun s => s.clab .c

/-- The four lace words. -/
def Obligations.LaceWordsDeclareSubmitAndLeave : Prop :=
  LcdeclDeclaresATile ∧ LaceWordsMoveTheSlot

/-! ### WFE, YIELD, TASKEND, LAUNCH, STEND and the common group -/

/-- R383, R385: WFE waits for the event latch and clears it; YIELD asks for a pre-emption where another kernel waits for a core, and is a NOP otherwise. -/
def Sys2Proof.Claims.WfeAndYield : Prop :=
  (∀ h, Completes (.wfe h) .c h (fun s => s.core.latch = true) (fun s => s.modCore fun k => { k with latch := false }) fun s => s.pc .c + 4) ∧
  (∀ h s s1, issue (.wfe h) .c h s = .go s1 → s1.core.latch = false → exec (.wfe h) s = .next s.tick) ∧
  (∀ h, Completes (.yield h) .c h (fun s => s.yields = false) (fun s => s) fun s => s.pc .c + 4) ∧
  ∀ h, Completes (.yield h) .c h (fun s => s.yields = true) (fun s => s.modCore (Core.requestPreempt false)) fun s => s.pc .c + 4

/-- R352: TASKEND of a task whose accesses have performed, with no refused write to report, ends it: the core is zeroed but for its caches, and its task is gone; on a dispatch core it acts as WFE. -/
def Sys2Proof.Claims.TaskendEndsTheTask : Prop :=
  (∀ h s s1, issue (.taskend h) .c h s = .go s1 → s1.core.dispatch = false → s1.core.c.infl = [] →
    let b := s.beginEnd.dropStuck
    b.core.queuesRest = true → b.core.arrayRest = true → b.core.firstRefused = none →
    let e := finish (.taskend h) .c h s1 (After.of s1.beginEnd.dropStuck)
    exec (.taskend h) s = .next e.endTask ∧ ∀ t, e.core.task = some t → e.endTask.core =
      { Core.reset e.core.id with
        l1 := e.core.l1, pref := e.core.pref, utlb := e.core.utlb, l2tlb := e.core.l2tlb, walks := e.core.walks }) ∧
  ∀ h, Completes (.taskend h) .c h (fun s => s.core.dispatch = true ∧ s.core.latch = true)
    (fun s => s.modCore fun k => { k with latch := false }) fun s => s.pc .c + 4

/-- R318: LAUNCH answers 3 for a queue not mapped on the die, 1 for a task with no saved image that no core runs, 2 for one that runs, each with the empty label; else it restores the image, with the status of R248. -/
def Sys2Proof.Claims.LaunchReportsAStatus : Prop :=
  ∀ h d a b, let q := fun (s : State) => (s.core.vx a).toNat
    let n := fun (s : State) => (s.core.vx b).toNat
    let mapped := fun (s : State) => q s < 4096 ∧ ∃ x ∈ s.slots, x.die = coreDie s.core.id ∧ x.q = q s
    let wrote := fun (s : State) (k : Nat) => s.modCore fun c => c.writeX d ⟨BitVec.ofNat 64 k, 0⟩
    Completes (.launch h d a b) .c h (fun s => s.core.ready [d, a, b] = true ∧ ¬ mapped s) (fun s => wrote s 3) (fun s => s.pc .c + 4) ∧
    Completes (.launch h d a b) .c h
      (fun s => s.core.ready [d, a, b] = true ∧ mapped s ∧ s.imageOf (q s) (n s) = none ∧
        ∀ k ∈ s.cores, ∀ t, k.task = some t → ¬ (t.queue = q s ∧ t.idx = n s)) (fun s => wrote s 1) (fun s => s.pc .c + 4) ∧
    Completes (.launch h d a b) .c h
      (fun s => s.core.ready [d, a, b] = true ∧ mapped s ∧ s.imageOf (q s) (n s) = none ∧
        ∃ k ∈ s.cores, ∃ t, k.task = some t ∧ t.queue = q s ∧ t.idx = n s) (fun s => wrote s 2) (fun s => s.pc .c + 4) ∧
    ∀ (im : Image) (r : State → State × Nat), Completes (.launch h d a b) .c h
      (fun s => s.core.ready [d, a, b] = true ∧ mapped s ∧ s.imageOf (q s) (n s) = some im ∧ s.restore im = some (r s))
      (fun s => wrote (r s).1 (r s).2) (fun s => s.pc .c + 4)

/-- WFE, YIELD, TASKEND and LAUNCH. -/
def Obligations.TaskWordsWaitYieldEndAndLaunch : Prop :=
  WfeAndYield ∧ TaskendEndsTheTask ∧ LaunchReportsAStatus

/-- R339, R353, R355, R315 in every stream but V: NOP, TKWAIT and TKSIG only move on, beside the token that TKWAIT takes as it issues and the one that TKSIG signals as it retires; TROUTE retires behind the
older words and then sets the route, its own S mark using the route before it; HOLD opens a region over the next words, and inside a region it is illegal (R26). In stream M each waits for the older commands. -/
def Sys2Proof.Claims.CommonWordsOfScalarStreams : Prop :=
  ∀ st, st ≠ .v → let quiet := fun (s : State) => st = .m → s.core.m.infl = []
    (∀ h, Completes (.nop st h) st h quiet (fun s => s) fun s => s.pc st + 4) ∧
    (∀ h q, Completes (.tkwait st h q) st h quiet (fun s => s) fun s => s.pc st + 4) ∧
    (∀ h q, Completes (.tksig st h q) st h quiet (fun s => s) fun s => s.pc st + 4) ∧
    (∀ h i o, Completes (.troute st h i o) st h
      (fun s => (s.strm st).infl = [] ∧ (h.s = true → s.core.canSignal (s.strm st).routeOut 1 = true))
      (fun s => s.modStrm st fun t => { t with routeIn := i, routeOut := o }) fun s => s.pc st + 4) ∧
    (∀ h i o s s1, issue (.troute st h i o) st h s = .go s1 → quiet s1 → Fits s1 → ∀ e r, (s1.strm st).infl = e :: r → e.done = false →
      (∀ x ∈ r, x.fixed = false) → (∀ p ∈ s1.core.vpend, p.id ≠ s1.core.next) →
      ∃ t, exec (.troute st h i o) s = .next t ∧ Moved st s1 t ∧ t.pc st = s1.pc st + 4 ∧
        (t.strm st).routeIn = (s1.strm st).routeIn ∧ (t.strm st).routeOut = (s1.strm st).routeOut ∧
        ∃ x ∈ (t.strm st).infl, x.id = s1.core.next ∧ x.route = some (i, o)) ∧
    (∀ h n, Completes (.hold st h n) st h (fun s => quiet s ∧ (s.strm st).hold = none)
      (fun s => s.modStrm st fun t => { t with hold := some ⟨n.val + 1, s.clk, t.pc, true, none⟩ }) fun s => s.pc st + 4) ∧
    ∀ h n s r, Unhindered (.hold st h n) { s with core := s.core.setStrm st { s.strm st with hold := none } } st →
      (s.strm st).hold = some r → r.wait = none → s.olderMay st = false →
      exec (.hold st h n) s = .next (s.takeTrap st 1 (wordOf (.hold st h n)) 0).tick

/-- The same words of the V-stream, which take one cycle of its issue port (R94, R339). -/
def Sys2Proof.Claims.CommonWordsOfTheVectorStream : Prop :=
  (∀ h, CompletesV (.nop .v h) h 1 (fun _ => True) fun s => s) ∧
  (∀ h q, CompletesV (.tkwait .v h q) h 1 (fun _ => True) fun s => s) ∧
  (∀ h q, CompletesV (.tksig .v h q) h 1 (fun _ => True) fun s => s) ∧
  (∀ h i o, CompletesV (.troute .v h i o) h 1
    (fun s => s.core.v.infl = [] ∧ (h.s = true → s.core.canSignal s.core.v.routeOut 1 = true))
    fun s => s.modStrm .v fun t => { t with routeIn := i, routeOut := o }) ∧
  (∀ h n, CompletesV (.hold .v h n) h 1 (fun s => s.core.v.hold = none)
    fun s => s.modStrm .v fun t => { t with hold := some ⟨n.val + 1, s.clk, t.pc, true, none⟩ }) ∧
  ∀ h n s r, Unhindered (.hold .v h n) { s with core := s.core.setStrm .v { s.core.v with hold := none } } .v →
    s.core.v.hold = some r → (∀ x, s.core.c.hold = some x → x.wait = none) →
    exec (.hold .v h n) s = .next (s.takeTrap .v 1 (wordOf (.hold .v h n)) 0).tick

/-- R353: TKWAIT takes a token of the queue that it names as it issues, with its label into CLABEL, and waits for one that comes; TKSIG puts a token with CLABEL into its queue as it retires, wakes the C-stream
whose queue it is (R383), waits in flight while the queue holds fifteen, and does nothing to the queue of a stream that has ended (R18, R22, R199). -/
def Sys2Proof.Claims.TokenWordsMoveTheirToken : Prop :=
  (∀ st (q : Fin 16) s, let i := Instr.tkwait st plain q
    Unhindered i s st →
    (s.core.tok[q] = 0 → (s.strm (Stream.ofNum (q.val / 4))).ended = false → issue i st plain s = .idle s) ∧
    (s.core.tok[q] = 0 → (s.strm (Stream.ofNum (q.val / 4))).ended = true → issue i st plain s = .trap 6 (BitVec.ofNat 64 q.val) 0) ∧
    (0 < s.core.tok[q] → q.val ∉ s.core.owed → s.canIntern (Label.join (s.clab st) s.core.tokLab[q]) = true →
      ∃ t, issue i st plain s = .go t ∧ t.core.tok = s.core.tok.set q (s.core.tok[q] - 1) ∧
        t.clab st = Label.join (s.clab st) s.core.tokLab[q] ∧ t.core.x = s.core.x ∧ t.mem = s.mem)) ∧
  ∀ st h (q : Fin 16) s s1, h.s = false → issue (.tksig st h q) st h s = .go s1 → (s1.strm st).infl = [] → Fits s1 →
    let d := Stream.ofNum (q.val % 4)
    ((s1.strm d).ended = true → ∃ t, exec (.tksig st h q) s = .next t ∧ t.core.tok = s1.core.tok ∧ t.core.tokLab = s1.core.tokLab) ∧
    ((s1.strm d).ended = false → s1.core.tok[q] < 15 →
      ∃ t, exec (.tksig st h q) s = .next t ∧ t.core.tok = s1.core.tok.set q (s1.core.tok[q] + 1) ∧
        t.core.tokLab = s1.core.tokLab.set q (Label.join s1.core.tokLab[q] (s1.clab st)) ∧ (d = .c → t.core.latch = true)) ∧
    ((s1.strm d).ended = false → 15 ≤ s1.core.tok[q] →
      ∃ t, exec (.tksig st h q) s = .next t ∧ t.core.tok = s1.core.tok ∧ ∃ e ∈ (t.strm st).infl, e.id = s1.core.next)

/-- What STEND leaves: the region closed, the stream ended; of the C-stream also its lace slot left, and the stops that it would have taken on the service path. -/
def Sys2Proof.Claims.stended (st : Stream) (s : State) : State :=
  let u := ((if st = .c then s.abandonLace else s).closeHold st).modStrm st fun t => { t with ended := true }
  let handed := fun (t : Strm) => if t.stop = .delegated then { t with stop := .held } else t
  if st = .c then u.modCore fun k => { k with c := handed k.c, a := handed k.a, v := handed k.v, m := handed k.m } else u

/-- R350: STEND of a stream whose older words have retired ends it, closing its region; the stream fetches no more words. An ended C-stream sends the stops it would have
taken to the service path (R252). With another stream running the task goes on; with every stream ended it ends once its accesses have performed. STEND with an older word in flight waits. -/
def Sys2Proof.Claims.StendEndsTheStream : Prop :=
  (∀ st h s s1, st ≠ .v → issue (.stend st h) st h s = .go s1 → (s1.strm st).infl = [] → s1.core.killed = none → s1.core.ending = false →
    (∃ u, u ≠ st ∧ (s1.strm u).ended = false) → Fits (stended st s1) →
    ∃ t, exec (.stend st h) s = .next t ∧ Leaves st (stended st s1) t ∧ (t.strm st).ended = true ∧ (t.strm st).hold = none ∧
      t.fetchIdle st = true) ∧
  (∀ h s s1, issue (.stend .v h) .v h s = .go s1 → s1.core.v.infl = [] → s1.core.landings = [] → s1.core.killed = none →
    s1.core.ending = false → (∃ u, u ≠ .v ∧ (s1.strm u).ended = false) → Fits s1 →
    ∃ t, exec (.stend .v h) s = .next t ∧ MovedV 1 (stended .v s1) t ∧ RoutesKept .v s1 t ∧ t.core.v.ended = true ∧ t.core.v.hold = none ∧
      t.fetchIdle .v = true) ∧
  (∀ st h s s1, issue (.stend st h) st h s = .go s1 → (s1.strm st).infl = [] → (st = .v → s1.core.landings = []) → s1.core.ending = false →
    Fits (stended st s1) → let t := finish (.stend st h) st h s1 (After.of (stended st s1))
    t.core.allEnded = true → t.core.queuesRest = true → t.core.arrayRest = true → exec (.stend st h) s = .next t.endTask) ∧
  ∀ st h s s1, issue (.stend st h) st h s = .go s1 → ((s1.strm st).infl ≠ [] ∨ st = .v ∧ s1.core.landings ≠ []) → s.core.killed = none →
    s.core.allEnded = false → s.core.ending = false → exec (.stend st h) s = .next s.tick

/-- The common group in every stream. -/
def Obligations.CommonGroupWords : Prop :=
  CommonWordsOfScalarStreams ∧ CommonWordsOfTheVectorStream ∧ TokenWordsMoveTheirToken ∧ StendEndsTheStream

/-! ### The A-stream -/

/-- R278: the arithmetic of the A-stream. -/
def Sys2Proof.Claims.AddressArithmeticWritesItsResult : Prop :=
  (∀ h d a b, Address (.aadd h d a b) h [a, b] d fun s => s.core.va a + s.core.va b) ∧
  (∀ h d a b, Address (.asub h d a b) h [a, b] d fun s => s.core.va a - s.core.va b) ∧
  (∀ h d a b, Address (.amul h d a b) h [a, b] d fun s => BitVec.ofNat 64 ((s.core.va a).toNat * (s.core.va b).toNat)) ∧
  (∀ h d a b, Address (.aand h d a b) h [a, b] d fun s => s.core.va a &&& s.core.va b) ∧
  (∀ h d a i, Address (.aaddImm h d a i) h [a] d fun s => s.core.va a + i.signExtend 64) ∧
  (∀ h d a (sh : Fin 64), Address (.ashl h d a sh) h [a] d fun s => BitVec.ofNat 64 ((s.core.va a).toNat * 2 ^ sh.val)) ∧
  (∀ h d a (sh : Fin 64), Address (.ashr h d a sh) h [a] d fun s => BitVec.ofNat 64 ((s.core.va a).toNat / 2 ^ sh.val)) ∧
  ∀ h d i, Address (.amovi h d i) h [] d fun _ => i.signExtend 64

/-- R277: a word of the A-stream that reads a register waits until the older word that writes it has retired; nothing of it happens but that the clock passes. -/
def Sys2Proof.Claims.AddressWordsWaitForTheirRegisters : Prop :=
  ∀ s s1, (∀ h d a b, issue (.aadd h d a b) .a h s = .go s1 → s1.core.aReady [a, b] = false → exec (.aadd h d a b) s = .next s.tick) ∧
    (∀ h cc a b o, issue (.abr h cc a b o) .a h s = .go s1 → s1.core.aReady [a, b] = false → exec (.abr h cc a b o) s = .next s.tick) ∧
    (∀ h a b r c e m, issue (.ald h a b r c e m) .a h s = .go s1 → s1.core.aReady [a, b, pairHi b] = false →
      exec (.ald h a b r c e m) s = .next s.tick) ∧
    ∀ (k : Core) (rs : List (Fin 32)), k.aReady rs = true ↔ ∀ r ∈ rs, r = 0 ∨ ∀ i ∈ k.a.infl, i.aw ≠ some r

/-- R280, R288: ABR branches on two registers; ALOOP counts one down and branches while it is not zero (a0 counts nothing); both raise CLABEL. -/
def Sys2Proof.Claims.AddressBranchesMoveTheStream : Prop :=
  (∀ h cc a b o, Completes (.abr h cc a b o) .a h
    (fun s => s.core.aReady [a, b] = true ∧ AReady s (Label.joins [labA s a, labA s b]) ∧ Holds cc (s.core.va a) (s.core.va b))
    (fun s => viaA s (Label.joins [labA s a, labA s b])) (fun s => s.pc .a + 4 * o.signExtend 64)) ∧
  (∀ h cc a b o, Completes (.abr h cc a b o) .a h
    (fun s => s.core.aReady [a, b] = true ∧ AReady s (Label.joins [labA s a, labA s b]) ∧ ¬ Holds cc (s.core.va a) (s.core.va b))
    (fun s => viaA s (Label.joins [labA s a, labA s b])) (fun s => s.pc .a + 4)) ∧
  (∀ h a o, Completes (.aloop h a o) .a h (fun s => s.core.aReady [a] = true ∧ AReady s (labA s a) ∧ a ≠ 0 ∧ s.core.va a ≠ 1)
    (fun s => viaA (s.resultA a (s.core.va a - 1) (s.resultLabA [a])) (labA s a)) (fun s => s.pc .a + 4 * o.signExtend 64)) ∧
  ∀ h a o, Completes (.aloop h a o) .a h (fun s => s.core.aReady [a] = true ∧ AReady s (labA s a) ∧ (a = 0 ∨ s.core.va a = 1))
    (fun s => viaA (s.resultA a (s.core.va a - 1) (s.resultLabA [a])) (labA s a)) (fun s => s.pc .a + 4)

/-- The arithmetic and the branches of the A-stream, and what they wait for. -/
def Obligations.AddressWordsComputeAndBranch : Prop :=
  AddressArithmeticWritesItsResult ∧ AddressWordsWaitForTheirRegisters ∧ AddressBranchesMoveTheStream

/-- R282, R265, R286, R296: ACQPOP pops the queue from C; AIDX takes the first word of the oldest slot and releases it; AWFILL and AWFREE wait for filled or free slots. A label read
joins CLABEL. -/
def Obligations.QueueAndRingWaits : Prop :=
  (∀ h d e r, Completes (.acqpop h d) .a h (fun s => s.core.cqA = e :: r ∧ AReady s e.lab ∧ (d = 0 ∨ (viaA s e.lab).canIntern e.lab = true))
    (fun s => ((viaA s e.lab).resultA d e.val e.lab).modCore fun k => { k with cqA := r }) fun s => s.pc .a + 4) ∧
  (∀ h d, Traps (.acqpop h d) .a h (fun s => s.core.cqA = [] ∧ s.core.c.ended = true) 6 (fun _ => 16) fun s => s.clab .a) ∧
  (∀ h d (r : Fin 16), Completes (.aidx h d r) .a h
    (fun s => (s.core.ring r).waitable = true ∧ 1 ≤ (s.core.ring r).ready ∧ s.releaseDue r = false ∧ AReady s ((s.core.ring r).frontLab 1))
    (fun s => let g := s.core.ring r
      ((viaA s (g.frontLab 1)).resultA d (BitVec.ofNat 64 (leNat (memBytes s.core.scratch (g.slotAddr g.freed.toNat) 4)))
        (Label.join (s.clab .a) (g.frontLab 1))).modCore fun k => k.release r 1) fun s => s.pc .a + 4) ∧
  (∀ h (n : Fin 512) (r : Fin 16), Completes (.awfill h n r) .a h
    (fun s => n.val ≤ (s.core.ring r).count ∧ (s.core.ring r).waitable = true ∧ n.val ≤ (s.core.ring r).ready ∧ s.releaseDue r = false ∧
      AReady s ((s.core.ring r).frontLab n.val))
    (fun s => viaA s ((s.core.ring r).frontLab n.val)) fun s => s.pc .a + 4) ∧
  (∀ h (n : Fin 512) (r : Fin 16), Completes (.awfree h n r) .a h
    (fun s => (s.core.ring r).count ≠ 0 ∧ ((s.core.ring r).mode = 0 ∨ (s.core.ring r).mode = 2) ∧ (s.core.ring r).used + n.val ≤ (s.core.ring r).count)
    (fun s => s) fun s => s.pc .a + 4) ∧
  (∀ h (n : Fin 512) (r : Fin 16), Traps (.awfill h n r) .a h (fun s => (s.core.ring r).count < n.val) 0x12 (fun _ => BitVec.ofNat 64 r.val)
    fun s => s.clab .a) ∧
  (∀ h (n : Fin 512) (r : Fin 16), Traps (.awfree h n r) .a h (fun s => (s.core.ring r).count < n.val) 0x12 (fun _ => BitVec.ofNat 64 r.val)
    fun s => s.clab .a) ∧
  ∀ h d (r : Fin 16), Traps (.aidx h d r) .a h (fun s => (s.core.ring r).waitable = false) 0x12 (fun _ => BitVec.ofNat 64 r.val) fun s => s.clab .a

/-- A word of the A-stream, issued in `s1`, that leaves `u`, moves to the next word and stays in flight: the register `aw` waits for it (R277), and it releases the slots `rels` as it retires. -/
def Sys2Proof.Claims.Started (i : Instr) (s s1 u : State) (aw : Option (Fin 32)) (rels : List (Nat × Nat)) : Prop :=
  Fits u → ∃ t, exec i s = .next t ∧ Leaves .a u t ∧ t.pc .a = s1.pc .a + 4 ∧
    ∃ e ∈ t.core.a.infl, e.id = s1.core.next ∧ e.done = false ∧ e.aw = aw ∧ e.rels = rels

/-- A load of the A-stream enters its load queue, and an export ring counts as checked (R150, R165). -/
def Sys2Proof.Claims.loadRing (s : State) (r : Fin 16) (need : List (Nat × Loc × Bool)) (dst : LDst) (acq : Option Scope) : State :=
  (s.pushLq .a ⟨s.core.next, s.core.next, .load need (need.map fun _ => none) dst, acq⟩).noteClaim r

/-- R287: ALD of elements that fit a slot, with room in the ring, every page translated and the slot's segments open to the label, sends one load whose slot is claimed as it performs; the address register steps
past the elements. R264: AGATH sends one load of all rows. -/
def Obligations.RingLoadsEnterTheLoadQueue : Prop :=
  (∀ h a b (r : Fin 16) c e m s s1 s2 ps, issue (.ald h a b r c e m) .a h s = .go s1 → s1.core.aReady [a, b, pairHi b] = true →
    AReady s1 (labA s1 a) →
    let w := elBytes e
    let cnt := (s1.core.va b).toNat
    let st := if m then s1.core.va (pairHi b) else BitVec.ofNat 64 w
    let u := viaA s1 (labA s1 a)
    let g := s1.core.ring r
    let rs := [a, b, pairHi b]
    0 < cnt → cnt * w ≤ g.slotSize → g.claimable = true → u.bindingOk r = true → g.used + u.claimsDue r + 1 ≤ g.count →
    u.pieces .aLoad .read (s1.resultLabA rs) (elemRuns (s1.core.va a) cnt w st) = .ok (s2, ps) → (∀ p ∈ ps, s2.farOk p.pa = true) →
    s2.poisoned .a (transScope c).isSome ps = none → let l := Label.join (s2.clab .a) (Label.joins (ps.map (·.tag)))
    s2.publishOk r (g.claimed.toNat + s2.claimsDue r) 1 l = true → s2.canIntern l = true →
    (a = 0 ∨ (s2.intern l).canIntern (s2.resultLabA rs) = true) →
    Started (.ald h a b r c e m) s s1
      ((loadRing (s2.intern l) r (pieceNeed ps) (.slot r g.cfg (s2.clab .a) (a, s1.core.ar[a])) (transScope c)).resultA a
        (s1.core.va a + BitVec.ofNat 64 cnt * st) (s2.resultLabA rs)) (some a) []) ∧
  (∀ h a b (r x : Fin 16) zs e s s1 s2 ps, issue (.agath h a b r x zs e) .a h s = .go s1 → s1.core.aReady [a, b, pairHi b] = true →
    let w := elBytes e
    let v := s1.core.va b
    let n := v.toNat / 65536 % 65536
    let row := v.toNat % 65536 * w
    let rs := [a, b, pairHi b]
    let g := s1.core.ring r
    let ix := s1.core.ring x
    let u := viaA s1 (Label.joins (s1.core.labsA rs))
    let u' := viaA u (ix.frontLab 1)
    let lab := Label.join (s1.resultLabA rs) (ix.frontLab 1)
    AReady s1 (Label.joins (s1.core.labsA rs)) → AReady u (ix.frontLab 1) → v.toNat < 2 ^ 32 → n ≠ 0 → row ≠ 0 → n ≤ g.count → r ≠ x →
    4 * n ≤ ix.slotSize → row ≤ g.slotSize → ix.waitable = true → g.claimable = true → u.bindingOk r = true → u.filledFor x 1 = true →
    (∀ p ∈ u'.rowAddrs a b x n, p.toNat % w = 0) →
    u'.pieces .aLoad .read lab ((u'.rowAddrs a b x n).flatMap fun p => pageRuns p.toNat row) = .ok (s2, ps) → (∀ p ∈ ps, s2.farOk p.pa = true) →
    (zs = false → s2.poisoned .a false ps = none) → let l := Label.join lab (Label.joins (ps.map (·.tag)))
    s2.publishOk r (g.claimed.toNat + s2.claimsDue r) n l = true → s2.canIntern l = true →
    Started (.agath h a b r x zs e) s s1 (loadRing (s2.intern l) r (pieceNeed (regroup ps)) (.rows r g.cfg n row lab zs) none) none [(x.val, 1)]) ∧
  (∀ h a b (r : Fin 16) c e m, Traps (.ald h a b r c e m) .a h
    (fun s => s.core.aReady [a, b, pairHi b] = true ∧ AReady s (labA s a) ∧ ((s.core.va b).toNat = 0 ∨ (s.core.ring r).slotSize < (s.core.va b).toNat * elBytes e)) 0x12
    (fun _ => BitVec.ofNat 64 r.val) fun s => s.resultLabA [a, b, pairHi b]) ∧
  ∀ h a b (r x : Fin 16) zs e, Traps (.agath h a b r x zs e) .a h (fun s => s.core.aReady [a, b, pairHi b] = true ∧
      AReady s (Label.joins (s.core.labsA [a, b, pairHi b])) ∧ r = x) 0x12
    (fun _ => BitVec.ofNat 64 r.val) fun s => s.resultLabA [a, b, pairHi b]

/-- The 64-byte units of an AXPUT, each one store (R297). -/
def Sys2Proof.Claims.unitParts (va n : Nat) (ps : List Piece) (bs : List Byte) : List (List Piece × List Byte) :=
  (List.range (n / 64)).map fun u =>
    ((ps.filter fun p => decide (p.va ≤ va + 64 * u) && decide (va + 64 * u < p.va + p.len)).map
      fun p => { p with va := va + 64 * u, pa := p.pa + (va + 64 * u - p.va), len := 64 }, (bs.drop (64 * u)).take 64)

/-- R295, R297, R293: AST and AXPUT store the bytes of the oldest filled slot, whose label joins CLABEL, where every frame allows the label, in one store, or one for each 64 bytes, and the address register steps past them; ASCAT, in one store, stores one row to each address
that the index slot gives. The slots are released when the word retires. AXPUT is aligned to 64 bytes, or traps. -/
def Obligations.RingStoresEnterTheStoreQueue : Prop :=
  (∀ (i : Instr) h a b (r : Fin 16) c e m unit s s1 s2 ps,
    (i = .ast h a b r c e m ∧ unit = false ∨ i = .axput h a b r c e ∧ unit = true ∧ m = false) → issue i .a h s = .go s1 →
    s1.core.aReady [a, b, pairHi b] = true → AReady s1 (labA s1 a) →
    let w := elBytes e
    let cnt := (s1.core.va b).toNat
    let st := if m then s1.core.va (pairHi b) else BitVec.ofNat 64 w
    let g := s1.core.ring r
    let rs := [a, b, pairHi b]
    let u := viaA s1 (labA s1 a)
    let lab := Label.join (s1.resultLabA rs) (g.frontLab 1)
    let u' := viaA u (g.frontLab 1)
    let bs := memBytes s2.core.scratch (g.slotAddr g.freed.toNat) (cnt * w)
    0 < cnt → cnt * w ≤ g.slotSize → g.waitable = true → (unit = true → (s1.core.va a).toNat % 64 = 0 ∧ cnt * w % 64 = 0) →
    u.filledFor r 1 = true → AReady u (g.frontLab 1) → u'.pieces .aStore .write lab (elemRuns (s1.core.va a) cnt w st) = .ok (s2, ps) →
    (∀ p ∈ ps, s2.farOk p.pa = true) → s2.canIntern lab = true → (∀ p ∈ ps, paClass p.pa = 0 → Label.sub lab p.tag = true) →
    (a = 0 ∨ (s2.intern lab).canIntern (s2.resultLabA rs) = true) →
    Started i s s1 ((((s2.intern lab).dropRdc (pieceLines ps)).pushStores .a s2.core.next (transScope c) true unit lab
      (if unit then unitParts (s1.core.va a).toNat (cnt * w) ps bs else [(ps, bs)])).resultA a (s1.core.va a + BitVec.ofNat 64 cnt * st)
        (s2.resultLabA rs)) (some a) [(r.val, 1)]) ∧
  (∀ h a b (r x : Fin 16) e s s1 s2 per, issue (.ascat h a b r x e) .a h s = .go s1 → s1.core.aReady [a, b, pairHi b] = true →
    let w := elBytes e
    let v := s1.core.va b
    let n := v.toNat / 65536 % 65536
    let row := v.toNat % 65536 * w
    let rs := [a, b, pairHi b]
    let g := s1.core.ring r
    let ix := s1.core.ring x
    let u := viaA s1 (Label.joins (s1.core.labsA rs))
    let slots := Label.join (ix.frontLab 1) (g.frontLab n)
    let u' := viaA u slots
    let lab := Label.join (s1.resultLabA rs) slots
    let l := Label.join (u'.clab .a) (Label.join (s1.resultLabA rs) (ix.frontLab 1))
    AReady s1 (Label.joins (s1.core.labsA rs)) → AReady u slots → v.toNat < 2 ^ 32 → n ≠ 0 → row ≠ 0 → n ≤ g.count → r ≠ x → 4 * n ≤ ix.slotSize →
    row ≤ g.slotSize → ix.waitable = true → g.waitable = true → u.filledFor x 1 = true → u.filledFor r n = true →
    (u'.rowAddrs a b x n).foldlM (init := (u', ([] : List (List Piece)))) (fun acc p =>
      match acc.1.pieces .aStore .write lab (pageRuns p.toNat row) with
      | .ok (s, ps) => Except.ok (s, acc.2 ++ [ps])
      | .error x => Except.error x) = .ok (s2, per) →
    (∀ p ∈ per.flatten, s2.farOk p.pa = true) → s2.canIntern l = true → (∀ ps ∈ per, ∀ p ∈ ps, paClass p.pa = 0 → Label.sub l p.tag = true) →
    Started (.ascat h a b r x e) s s1 (((s2.intern l).dropRdc (pieceLines per.flatten)).pushStore .a s2.core.next none true false l per.flatten
      ((List.range n).flatMap fun t => memBytes s2.core.scratch (g.slotAddr (g.freed.toNat + t)) row)) none [(r.val, n), (x.val, 1)]) ∧
  ∀ h a b (r : Fin 16) c e, Traps (.axput h a b r c e) .a h
    (fun s => s.core.aReady [a, b, pairHi b] = true ∧ AReady s (labA s a) ∧ 0 < (s.core.va b).toNat ∧ (s.core.va b).toNat * elBytes e ≤ (s.core.ring r).slotSize ∧ (s.core.ring r).waitable = true ∧
      ((s.core.va a).toNat % 64 ≠ 0 ∨ (s.core.va b).toNat * elBytes e % 64 ≠ 0)) 0x10
    (fun s => s.core.va a) fun s => s.resultLabA [a, b, pairHi b]

/-- R281, R298, R292: ACOPY of up to 4,096 bytes sends a load for each source line, and stores that wait for them all; AZERO of up to 65,536 bytes sends a store of zeros; longer lengths trap 0x0010; a length of 0 only raises
CLABEL. APREF notes the lines that may be installed, and never faults. -/
def Obligations.CopiesAndPrefetches : Prop :=
  (∀ h d a b c s s1 s2 s3 src dst, issue (.acopy h d a b c) .a h s = .go s1 → s1.core.aReady [d, a, b] = true →
    let n := (s1.core.va b).toNat
    let rs := [d, a, b]
    let ls := Label.joins (s1.core.labsA [d, a])
    let lab := s1.resultLabA rs
    AReady s1 ls → n ≤ 4096 → n ≠ 0 →
    (viaA s1 ls).pieces .aLoad .read lab (pageRuns (s1.core.va a).toNat n) = .ok (s2, src) →
    s2.pieces .aStore .write lab (pageRuns (s1.core.va d).toNat n) = .ok (s3, dst) → (∀ p ∈ src ++ dst, s3.farOk p.pa = true) →
    let l := Label.join lab (Label.joins (src.map (·.tag)))
    (∀ p ∈ dst, paClass p.pa = 0 → Label.sub l p.tag = true) → s3.poisoned .a false src = none → s3.canIntern l = true →
    Started (.acopy h d a b c) s s1 ((((s3.intern l).dropRdc (pieceLines dst)).pushLoads s3.core.next 0 (src.flatMap Piece.lines)).pushStores .a s3.core.next
      (transScope c) false false l ((dst.flatMap Piece.lines).map fun p => ([p], List.replicate p.len 0))) none []) ∧
  (∀ h d b c s s1 s2 dst, issue (.azero h d b c) .a h s = .go s1 → s1.core.aReady [d, b] = true →
    let n := (s1.core.va b).toNat
    let lab := s1.resultLabA [d, b]
    AReady s1 (labA s1 d) → n ≤ 65536 → n ≠ 0 → (viaA s1 (labA s1 d)).pieces .aStore .write lab (pageRuns (s1.core.va d).toNat n) = .ok (s2, dst) →
    (∀ p ∈ dst, s2.farOk p.pa = true) → s2.canIntern lab = true → (∀ p ∈ dst, paClass p.pa = 0 → Label.sub lab p.tag = true) →
    Started (.azero h d b c) s s1 (((s2.intern lab).dropRdc (pieceLines dst)).pushStore .a s2.core.next (transScope c) true false lab
      dst (List.replicate n 0)) none []) ∧
  (∀ h d a b c, Completes (.acopy h d a b c) .a h (fun s => s.core.aReady [d, a, b] = true ∧ AReady s (Label.joins (s.core.labsA [d, a])) ∧ s.core.va b = 0)
    (fun s => viaA s (Label.joins (s.core.labsA [d, a]))) fun s => s.pc .a + 4) ∧
  (∀ h d b c, Completes (.azero h d b c) .a h (fun s => s.core.aReady [d, b] = true ∧ AReady s (labA s d) ∧ s.core.va b = 0) (fun s => viaA s (labA s d)) fun s => s.pc .a + 4) ∧
  (∀ h d a b c, Traps (.acopy h d a b c) .a h (fun s => s.core.aReady [d, a, b] = true ∧ AReady s (Label.joins (s.core.labsA [d, a])) ∧ 4096 < (s.core.va b).toNat) 0x10
    (fun s => s.core.va d) fun s => s.resultLabA [d, a, b]) ∧
  (∀ h d b c, Traps (.azero h d b c) .a h (fun s => s.core.aReady [d, b] = true ∧ AReady s (labA s d) ∧ 65536 < (s.core.va b).toNat) 0x10
    (fun s => s.core.va d) fun s => s.resultLabA [d, b]) ∧
  ∀ h a b, Completes (.apref h a b) .a h (fun s => s.core.aReady [a, b] = true ∧ AReady s (Label.joins (s.core.labsA [a, b])))
    (fun s => (viaA s (Label.joins (s.core.labsA [a, b]))).prefLines (pageRuns (s.core.va a).toNat (min (s.core.va b).toNat 4096))) fun s => s.pc .a + 4

/-- R159, R279: AAMO on an aligned word in the scratchpad of a logical core of the launch, with every older access of the stream performed, no store of another stream part-way there and the segment open to its label, acts there in one step and writes the old value, sign-extended; it traps
0x0011 outside any scratchpad of the launch and 0x0010 where it is not aligned. -/
def Obligations.AamoActsAtTheTargetCore : Prop :=
  (∀ h d a b p z s s1 k, issue (.aamo h d a b p z) .a h s = .go s1 → s1.core.aReady [a, b] = true → AReady s1 (labA s1 a) →
    let sz := if z then 8 else 4
    let v := s1.core.va a
    let sa := v.toNat % 2 ^ 19
    let u := viaA s1 (labA s1 a)
    let lab := s1.resultLabA [a, b]
    v.toNat < 2 ^ 29 → sa < 393216 → u.launchCore (v.toNat / 2 ^ 19) = some k → sa % sz = 0 → u.canIntern lab = true → (u.coreOf k).segsAllow lab sa sz = true →
    u.torn .a ((List.range sz).map fun i => .scr k (sa + i)) = false → u.core.a.olderBoth u.core.next = true → u.core.a.loadHeld u.core.next = false → u.core.a.storeHeld u.core.next = false →
    let old := BitVec.ofNat 64 (leNat ((List.range sz).map fun i => u.homeByte (.scr k (sa + i))))
    let l := Label.join lab ((u.coreOf k).segsLabel sa sz)
    let x := ((u.intern lab).atomPut (.scr k sa) sz (p.applyBytes sz old (s1.core.va b))).noteWrites [.scr k sa] lab
    (d = 0 ∨ x.canIntern l = true) → Fits (x.resultA d (signExtendBytes sz old) l) →
    ∃ t, exec (.aamo h d a b p z) s = .next t ∧ t.pc .a = s1.pc .a + 4 ∧ Leaves .a (x.resultA d (signExtendBytes sz old) l) t) ∧
  (∀ h d a b p z, Traps (.aamo h d a b p z) .a h (fun s => s.core.aReady [a, b] = true ∧ AReady s (labA s a) ∧ (2 ^ 29 ≤ (s.core.va a).toNat ∨ 393216 ≤ (s.core.va a).toNat % 2 ^ 19)) 0x11
    (fun s => s.core.va a) fun s => s.resultLabA [a, b]) ∧
  ∀ h d a b p z k, Traps (.aamo h d a b p z) .a h
    (fun s => s.core.aReady [a, b] = true ∧ AReady s (labA s a) ∧ (s.core.va a).toNat < 2 ^ 29 ∧ (s.core.va a).toNat % 2 ^ 19 < 393216 ∧
      (viaA s (labA s a)).launchCore ((s.core.va a).toNat / 2 ^ 19) = some k ∧ (s.core.va a).toNat % 2 ^ 19 % (if z then 8 else 4) ≠ 0) 0x10
    (fun s => s.core.va a) fun s => s.resultLabA [a, b]

/-! ### The V-stream -/

/-- The state after a view other than W has raised CLABEL with the label of its ix register, and whether the label table allows it (R90, R198). -/
def Sys2Proof.Claims.viaIx (s : State) (vs : List View) (x : Fin 4) : State :=
  if vs.any (· != .w) then s.raised .v s.core.ix[x].2 else s
abbrev Sys2Proof.Claims.IxReady (s : State) (vs : List View) (x : Fin 4) : Prop :=
  vs.any (· != .w) = true → s.canIntern (Label.join (s.clab .v) s.core.ix[x].2) = true

/-- A write to the containers `sel` of register `d` that lands `lat` cycles of issue distance later, with the label rule of R93: it replaces the register's label where
the whole register is written, and joins it otherwise. -/
def Sys2Proof.Claims.pended (s : State) (lat : Nat) (d : Fin 32) (sel : BitVec 1024) (data : Vector W32 1024) (lab : Label) (repl : Bool) : State :=
  let r := s.core.vphys d
  let t := s.intern lab
  (if repl then t else t.intern (Label.join s.core.vr[r].lab lab)).modCore fun k => { k with
    vpend := k.vpend ++ [⟨lat, r.val, sel, data, 0, lab, repl, s.core.next, s.clk + lat⟩] }
/-- The values of the selected containers. -/
def Sys2Proof.Claims.only (sel : BitVec 1024) (f : Fin 1024 → W32) : Vector W32 1024 := Vector.ofFn fun e => if sel.getLsbD e then f e else 0
/-- The label table has entries for it. -/
abbrev Sys2Proof.Claims.CanPend (s : State) (d : Fin 32) (lab : Label) (repl : Bool) : Prop :=
  s.canIntern lab = true ∧ (repl = false → (s.intern lab).canIntern (Label.join s.core.vr[s.core.vphys d].lab lab) = true)

/-- Word `i` writes `f` into the enabled containers of view `v` of register `d`, with ResultLabel of the registers `rs` and of EM, `lat` cycles of issue distance later, and occupies
the port for four cycles where the view is W and for one elsewhere (R94, R97, R100, R356). -/
def Sys2Proof.Claims.VWrites (i : Instr) (h : Hdr) (lat : Nat) (d : VOp) (vs : List View) (x : Fin 4) (rs : List (Fin 32))
    (f : Core → Nat → Fin 1024 → W32) : Prop :=
  let repl := fun (u : State) => d.view == .w && u.core.em.bits == BitVec.allOnes 1024
  CompletesV i h (if d.view = .w then 4 else 1)
    (fun s => IxReady s vs x ∧ CanPend (viaIx s vs x) d.r ((viaIx s vs x).vLab rs) (repl (viaIx s vs x)))
    (fun s => let u := viaIx s vs x
      let n := u.core.ixVal x
      let sel := viewBits d.view n &&& u.core.em.bits
      pended u lat d.r sel (only sel (f u.core n)) (u.vLab rs) (repl u))

/-- A two-source and a one-source operation on containers, by ETYPE and FTZ. -/
def Sys2Proof.Claims.Elementwise (i : Instr) (h : Hdr) (d a b : VOp) (x : Fin 4) (op : Bool → Bool → W32 → W32 → W32) : Prop :=
  VWrites i h 6 d [d.view, a.view, b.view] x [a.r, b.r] fun k n e =>
    op k.isInt k.ftz (k.vreg a.r).e[srcIx a.view n e] (k.vreg b.r).e[srcIx b.view n e]
def Sys2Proof.Claims.Unary (i : Instr) (h : Hdr) (lat : Nat) (d a : VOp) (x : Fin 4) (op : Bool → Bool → W32 → W32) : Prop :=
  VWrites i h lat d [d.view, a.view] x [a.r] fun k n e => op k.isInt k.ftz (k.vreg a.r).e[srcIx a.view n e]
/-- A word that writes a whole register from registers. -/
def Sys2Proof.Claims.Whole (i : Instr) (h : Hdr) (lat : Nat) (d : Fin 32) (rs : List (Fin 32)) (f : Core → Fin 1024 → W32) : Prop :=
  CompletesV i h 4 (fun s => CanPend s d (s.vLab rs) (s.core.em.bits == BitVec.allOnes 1024))
    fun s => pended s lat d s.core.em.bits (only s.core.em.bits (f s.core)) (s.vLab rs) (s.core.em.bits == BitVec.allOnes 1024)

/-- R90, R356: which containers a view takes in, and which source container feeds one: all of them; row k; column k; the diagonal where the column is the row plus k. -/
def Obligations.ViewsSelectContainers : Prop :=
  (∀ v k (e : Fin 1024), (viewBits v k).getLsbD e = true ↔
    match v with
    | .w => True
    | .r => e.val / 64 = k % 16
    | .c => e.val % 64 = k % 64
    | .d => e.val % 64 = (e.val / 64 + k) % 64) ∧
  (∀ v k (e : Fin 1024), (srcIx v k e).val =
    match v with
    | .w => e.val
    | .r => 64 * (k % 16) + e.val % 64
    | .c => 64 * (e.val / 64) + k % 64
    | .d => 64 * (e.val / 64) + (e.val / 64 + k) % 64) ∧
  ∀ (k : Core) r, (k.vphys r).val = if r.val < 16 then r.val else 16 + (r.val - 16 + k.csr.rrb) % 16

/-- R93, R96, R100, R101: a pending write lands in the selected containers of its register, leaves the others, and its label replaces or joins the register's; one to EM replaces the mask, one to CM changes the selected bits alone. What else the core holds stays. -/
def Obligations.PendingWritesLand : Prop :=
  ∀ (k : Core) (p : VPend), let t := k.applyPend p
    t = { k with vr := t.vr, em := t.em, cm := t.cm } ∧
    (p.reg < 32 → t.em = k.em ∧ t.cm = k.cm ∧ ∀ (r : Fin 32), (r.val ≠ p.reg → t.vr[r] = k.vr[r]) ∧
      (r.val = p.reg → t.vr[r].lab = (if p.repl then p.lab else Label.join k.vr[r].lab p.lab) ∧
        ∀ (e : Fin 1024), t.vr[r].e[e] = if p.sel.getLsbD e then p.data[e] else k.vr[r].e[e])) ∧
    (p.reg = 32 → t.em = ⟨p.bits, p.lab⟩ ∧ t.cm = k.cm ∧ t.vr = k.vr) ∧
    (p.reg = 33 → t.vr = k.vr ∧ t.em = k.em ∧ t.cm.lab = Label.join k.cm.lab p.lab ∧
      ∀ (e : Fin 1024), t.cm.bits.getLsbD e = if p.sel.getLsbD e then p.bits.getLsbD e else k.cm.bits.getLsbD e)

/-- R357, R359, R369: the element-wise words. -/
def Obligations.VectorElementwiseWordsPendTheirResult : Prop :=
  (∀ h d a b x, Elementwise (.vadd h d a b x) h d a b x fun int ftz p q => if int then p + q else fpAdd ftz p q) ∧
  (∀ h d a b x, Elementwise (.vsub h d a b x) h d a b x fun int ftz p q => if int then p - q else fpSub ftz p q) ∧
  (∀ h d a b x, Elementwise (.vmul h d a b x) h d a b x fun int ftz p q => if int then p * q else fpMul ftz p q) ∧
  (∀ h d a b x, Elementwise (.vmin h d a b x) h d a b x fun int ftz p q => if int then (if q.toInt < p.toInt then q else p) else fpMin ftz p q) ∧
  (∀ h d a b x, Elementwise (.vmax h d a b x) h d a b x fun int ftz p q => if int then (if p.toInt < q.toInt then q else p) else fpMax ftz p q) ∧
  (∀ h d a b x, Elementwise (.vand h d a b x) h d a b x fun _ _ p q => p &&& q) ∧
  (∀ h d a b x, Elementwise (.vor h d a b x) h d a b x fun _ _ p q => p ||| q) ∧
  (∀ h d a b x, Elementwise (.vxor h d a b x) h d a b x fun _ _ p q => p ^^^ q) ∧
  (∀ h d a b x, Elementwise (.vshl h d a b x) h d a b x fun _ _ p q => p <<< (q.toNat % 32)) ∧
  (∀ h d a b x, Elementwise (.vshr h d a b x) h d a b x fun int _ p q =>
    if int then p.sshiftRight (q.toNat % 32) else p >>> (q.toNat % 32)) ∧
  (∀ h d a x, Unary (.vabs h d a x) h 6 d a x fun int ftz p => if int then (if p.toInt < 0 then -p else p) else fpAbs ftz p) ∧
  (∀ h d a x, Unary (.vmov h d a x) h 6 d a x fun _ _ p => p) ∧
  (∀ h d a x, Unary (.vbcr h d a x) h 6 ⟨d, .w⟩ a x fun _ _ p => p) ∧
  ∀ h d a x, Unary (.vbcc h d a x) h 10 ⟨d, .w⟩ a x fun _ _ p => p

/-- R364, R365, R362, R363, R378: VFMA reads vd as its addend and counts the cycle that three reads of one bank cost (R98, R307); constants, conversions, special functions and dequantisation. R375: VSEL selects by CM. -/
def Obligations.VectorFusedAndConvertingWords : Prop :=
  (∀ h d a b x, let vs := [d.view, a.view, b.view]
    let counted := fun (s : State) => let u := viaIx s vs x
      if u.core.threeInBank d.r a.r b.r then u.modCore fun k => { k with
        csr := { k.csr with bankstall := k.csr.bankstall + 1 }.joinLab .bankstall k.v.clab } else u
    let repl := fun (u : State) => d.view == .w && u.core.em.bits == BitVec.allOnes 1024
    CompletesV (.vfma h d a b x) h (if d.view = .w then 4 else 1)
      (fun s => IxReady s vs x ∧ CanPend (counted s) d.r ((counted s).vLab [a.r, b.r, d.r]) (repl (counted s)))
      fun s => let u := counted s
        let n := u.core.ixVal x
        let sel := viewBits d.view n &&& u.core.em.bits
        pended u 8 d.r sel (only sel fun e =>
          let p := (u.core.vreg a.r).e[srcIx a.view n e]
          let q := (u.core.vreg b.r).e[srcIx b.view n e]
          if u.core.isInt then p * q + (u.core.vreg d.r).e[e] else fpFma u.core.ftz p q (u.core.vreg d.r).e[e]) (u.vLab [a.r, b.r, d.r]) (repl u)) ∧
  (∀ h d a b x, let vs := [d.view, a.view, b.view]
    let lab := fun (u : State) => Label.join (u.vLab [a.r, b.r]) u.core.cm.lab
    CompletesV (.vsel h d a b x) h (if d.view = .w then 4 else 1)
      (fun s => IxReady s vs x ∧ CanPend (viaIx s vs x) d.r (lab (viaIx s vs x)) (d.view == .w && s.core.em.bits == BitVec.allOnes 1024))
      fun s => let u := viaIx s vs x
        let n := u.core.ixVal x
        let sel := viewBits d.view n &&& u.core.em.bits
        pended u 6 d.r sel
          (only sel fun e => if u.core.cm.bits.getLsbD e then (u.core.vreg a.r).e[srcIx a.view n e] else (u.core.vreg b.r).e[srcIx b.view n e])
          (lab u) (d.view == .w && s.core.em.bits == BitVec.allOnes 1024)) ∧
  (∀ h d i, Whole (.vmovImm h d i) h 6 d [] fun k _ => if k.isInt then BitVec.ofInt 32 i.toInt else fp32OfInt i.toInt) ∧
  (∀ h d i, Whole (.viota h d i) h 6 d [] fun k e =>
    if k.isInt then BitVec.ofInt 32 ((e.val : Int) + i.toInt) else fp32OfInt ((e.val : Int) + i.toInt)) ∧
  (∀ h d a t u n q, Whole (.vcvt h d a t u n q) h 6 d [a] fun k e =>
    u.container (convert t u n q k.ftz ((k.vreg a).e[e].toNat % 2 ^ (8 * t.bytes)))) ∧
  (∀ h d a f, Whole (.vsfu h d a f) h 12 d [a] fun k e => sfu f k.ftz (k.vreg a).e[e]) ∧
  ∀ h d a b m, Whole (.vdqnt h d a b m) h 6 d [a, b] fun k e => dequant m (k.vreg a).e (k.vreg b).e e

/-- Two pending writes of one word. -/
def Sys2Proof.Claims.WholePair (i : Instr) (h : Hdr) (n lat : Nat) (d d' : Fin 32) (rs : List (Fin 32)) (sel' : State → BitVec 1024) (repl' : State → Bool)
    (f f' : Core → Vector W32 1024) : Prop :=
  let all := fun (s : State) => s.core.em.bits == BitVec.allOnes 1024
  let one := fun (s : State) => pended s lat d s.core.em.bits (f s.core) (s.vLab rs) (all s)
  CompletesV i h n (fun s => CanPend s d (s.vLab rs) (all s) ∧ CanPend (one s) d' (s.vLab rs) (repl' s))
    fun s => pended (one s) lat d' (sel' s) (f' s.core) (s.vLab rs) (repl' s)

/-- R83, R106, R363, R373, R374, R379 to R381: rotations, the transposition, reductions over rows and columns with the excluded elements at the identity, the best pairs, and quantisation. -/
def Obligations.VectorPermutesAndReductions : Prop :=
  (∀ h d a (i : Fin 512), i.val < 64 → Whole (.vrotr h d a i) h 6 d [a] fun k e => (k.vreg a).e[elIx (e.val / 64) (e.val % 64 + 64 - i.val)]) ∧
  (∀ h d a (i : Fin 512), i.val < 16 → Whole (.vrotc h d a i) h 10 d [a] fun k e => (k.vreg a).e[elIx (e.val / 64 + 16 - i.val) (e.val % 64)]) ∧
  (∀ h d a, Whole (.vtrn h d a) h 10 d [a] fun k e => (k.vreg a).e[elIx (e.val % 16) (e.val % 64 / 16 * 16 + e.val / 64)]) ∧
  (∀ h d a o, Whole (.vredr h d a o) h 12 d [a] fun k e => treeReduce (redOp o k.isInt k.ftz)
    ((List.range 64).map fun c => if k.em.bits.getLsbD (elIx (e.val / 64) c) then (k.vreg a).e[elIx (e.val / 64) c] else redId o k.isInt)) ∧
  (∀ h d a o, Whole (.vredc h d a o) h 22 d [a] fun k e => seqReduce (redOp o k.isInt k.ftz)
    ((List.range 16).map fun r => if k.em.bits.getLsbD (elIx r (e.val % 64)) then (k.vreg a).e[elIx r (e.val % 64)] else redId o k.isInt)) ∧
  (∀ h d a n, let best := fun (k : Core) => topK k.isInt n.val (((List.finRange 1024).filter fun (e : Fin 1024) => k.em.bits.getLsbD e).map
      fun e => ((k.vreg a).e[e], (k.vreg (pairHi a)).e[e]))
    let low := fun (k : Core) => if k.isInt then 0x80000000#32 else 0xFF800000#32
    WholePair (.vtopk h d a n) h 16 40 d (pairHi d) [a, pairHi a] (fun s => s.core.em.bits) (fun s => s.core.em.bits == BitVec.allOnes 1024)
      (fun k => ofRows [(best k).map (·.1) ++ List.replicate (64 - (best k).length) (low k)])
      (fun k => ofRows [(best k).map (·.2) ++ List.replicate (64 - (best k).length) 0xFFFFFFFF#32])) ∧
  ∀ h d a b m, let rows := fun (k : Core) => (List.range 16).map fun r => quantRow m (rowSlice (k.vreg a).e r 0 64)
    WholePair (.vqnt h d a b m) h 4 6 d b [a] (fun s => if m = .fp4 then s.core.em.bits else s.core.em.bits &&& viewBits .c 0)
      (fun s => m == .fp4 && s.core.em.bits == BitVec.allOnes 1024)
      (fun k => ofRows ((rows k).map (·.1))) (fun k => ofRows ((rows k).map (·.2)))

/-- R360, R368: VCMP pends its results into the view of CM; VMASK pushes EM, or pends the new EM for distance 2; a ninth push or a pop of an empty stack is the mask-stack trap 0x0013. -/
def Obligations.VectorComparesAndMasks : Prop :=
  (∀ h c a b x s s1, issue (.vcmp h c a b x) .v h s = .go s1 → IxReady s1 [a.view, b.view] x → let u := viaIx s1 [a.view, b.view] x
    let n := u.core.ixVal x
    u.canIntern (u.vLab [a.r, b.r]) = true → (u.intern (u.vLab [a.r, b.r])).canIntern (Label.join u.core.cm.lab (u.vLab [a.r, b.r])) = true →
    Fits s1 → ∃ t, ∃ p : VPend, exec (.vcmp h c a b x) s = .next t ∧ RoutesKept .v s1 t ∧ p.reg = 33 ∧ p.left = 6 ∧ p.lab = u.vLab [a.r, b.r] ∧ p.sel = viewBits a.view n ∧
      (∀ (e : Fin 1024), p.bits.getLsbD e = ((viewBits a.view n).getLsbD e && u.core.em.bits.getLsbD e &&
        c.holds u.core.isInt u.core.ftz (u.core.vreg a.r).e[e] (u.core.vreg b.r).e[srcIx b.view n e])) ∧
      MovedV (if a.view = .w then 4 else 1) (((u.intern (u.vLab [a.r, b.r])).intern (Label.join u.core.cm.lab (u.vLab [a.r, b.r]))).modCore
        fun k => { k with vpend := k.vpend ++ [p] }) t) ∧
  (∀ h, CompletesV (.vmask h .push) h 1 (fun s => s.core.mstack.length < 8) fun s => s.modCore fun k => { k with mstack := k.em :: k.mstack }) ∧
  (∀ h n s s1 (m : Mask), issue (.vmask h n) .v h s = .go s1 → (n = .pop → s1.core.mstack ≠ []) →
    (let k := s1.core
      let cl := s1.clab .v
      match n with
      | .push => False
      | .pop => ∃ r, k.mstack.head? = some r ∧ m = ⟨r.bits, Label.join r.lab cl⟩
      | .setem => m = ⟨k.cm.bits, Label.join k.cm.lab cl⟩
      | .and => m = ⟨k.em.bits &&& k.cm.bits, Label.join (Label.join k.em.lab k.cm.lab) cl⟩
      | .or => m = ⟨k.em.bits ||| k.cm.bits, Label.join (Label.join k.em.lab k.cm.lab) cl⟩
      | .andn => m = ⟨k.em.bits &&& ~~~k.cm.bits, Label.join (Label.join k.em.lab k.cm.lab) cl⟩
      | .not => m = ⟨~~~k.em.bits, Label.join k.em.lab cl⟩
      | .all => m = ⟨BitVec.allOnes 1024, cl⟩) →
    s1.canIntern m.lab = true →
    Fits s1 → ∃ t, ∃ p : VPend, exec (.vmask h n) s = .next t ∧ RoutesKept .v s1 t ∧ p.reg = 32 ∧ p.left = 2 ∧ p.bits = m.bits ∧ p.lab = m.lab ∧
      MovedV 1 ((s1.intern m.lab).modCore fun k => { k with mstack := if n = .pop then k.mstack.tail else k.mstack, vpend := k.vpend ++ [p] }) t) ∧
  (∀ h, Traps (.vmask h .push) .v h (fun s => 8 ≤ s.core.mstack.length) 0x13 (fun _ => 0) fun s => s.clab .v) ∧
  ∀ h, Traps (.vmask h .pop) .v h (fun s => s.core.mstack = []) 0x13 (fun _ => 0) fun s => s.clab .v

/-- Beside what a word of the V-stream has left in `s`, moving on changes what `MovedV` names, and the stream keeps its routes. -/
abbrev Sys2Proof.Claims.LeavesV (n : Nat) (s t : State) : Prop := MovedV n s t ∧ RoutesKept .v s t
/-- A landing operation of the V-stream starts: its token counts it, and its register is landing-pending (R97). -/
def Sys2Proof.Claims.landing (s : State) (l : Landing) : State :=
  s.modCore fun k => { k with
    landings := k.landings ++ [l], lt := k.lt.set l.lt (k.lt[l.lt] + 1)
    landPend := k.landPend ++ match l.reg with | some r => [(r, l.lt)] | none => [] }
/-- The label of a register that a landing operation will write has an entry. -/
def Sys2Proof.Claims.landed (s : State) (r : Fin 32) (lab : Label) (repl : Bool) : State :=
  if repl then s.intern lab else (s.intern lab).intern (Label.join s.core.vr[r].lab lab)
abbrev Sys2Proof.Claims.CanLand (s : State) (r : Fin 32) (lab : Label) (repl : Bool) : Prop :=
  s.canIntern lab = true ∧ (repl = false → (s.intern lab).canIntern (Label.join s.core.vr[r].lab lab) = true)

/-- R366, R358: VLD, VST and VAMO on the scratchpad from a pointer register, whose label joins CLABEL: in range, with room in the token, and, for stores, open segments, each starts a landing operation and enters the queues of the V-stream; out of range it is the trap 0x0011 with TVAL the address. A stored label has its entry in the label table first (R194). -/
def Obligations.VectorScratchpadWordsStartLandings : Prop :=
  (∀ h d p l (o : Fin 2048) s s1, issue (.vld h d p l o) .v h s = .go s1 → s1.canIntern (Label.join (s1.clab .v) s1.core.p[p].2) = true →
    let u := s1.raised .v s1.core.p[p].2
    let ty := vtMty s1.core.csr.vtype
    let ea := s1.core.p[p].1 + 64 * o.val
    let n := 1024 * ty.bytes
    let r := s1.core.vphys d
    let all := s1.core.em.bits == BitVec.allOnes 1024
    let lab := Label.join (u.vLab []) (s1.core.segsLabel ea n)
    ea + n ≤ 393216 → s1.core.lt[l] < 15 → s1.core.scrPoison ea n = none → CanLand u r lab all →
    let e := landing ((landed u r lab all).pushLq .v ⟨s1.core.next, s1.core.next,
      .load (((List.range n).map fun i => Loc.scr u.core.id (ea + i)).map fun x => (0, x, true)) ((List.range n).map fun _ => none) .landing, none⟩)
      ⟨s1.core.next, .vld, l, some r, List.range 1024, s1.core.em.bits, ty, s1.core.csr.vtype, none, 0, lab, all, none, []⟩
    Fits e → ∃ t, exec (.vld h d p l o) s = .next t ∧ LeavesV 4 e t) ∧
  (∀ h d p l (o : Fin 2048) s s1, issue (.vst h d p l o) .v h s = .go s1 → s1.canIntern (Label.join (s1.clab .v) s1.core.p[p].2) = true →
    let u := s1.raised .v s1.core.p[p].2
    let ty := vtMty s1.core.csr.vtype
    let ea := s1.core.p[p].1 + 64 * o.val
    let lab := u.vLab [d]
    ea + 1024 * ty.bytes ≤ 393216 → u.canIntern lab = true → s1.core.locsAllow lab (u.vstBytes d ea) = none → s1.core.lt[l] < 15 →
    let e := landing ((u.intern lab).pushSq .v ⟨s1.core.next, s1.core.next,
      .store (u.vstBytes d ea) true false none [], lab, BitVec.ofNat 64 ea, [], none⟩)
      ⟨s1.core.next, .vst, l, none, [], 0, ty, s1.core.csr.vtype, none, 0, lab, false, none, []⟩
    Fits e → ∃ t, exec (.vst h d p l o) s = .next t ∧ LeavesV 4 e t) ∧
  (∀ h d p l o (f : Fin 256) s s1, issue (.vamo h d p l o f) .v h s = .go s1 → s1.canIntern (Label.join (s1.clab .v) s1.core.p[p].2) = true →
    let u := s1.raised .v s1.core.p[p].2
    let ea := s1.core.p[p].1 + 64 * f.val
    let lab := u.vLab [d]
    let r := s1.core.vphys d
    let all := s1.core.em.bits == BitVec.allOnes 1024
    let out := Label.join lab (s1.core.segsLabel ea 4096)
    ea + 4096 ≤ 393216 → u.canIntern lab = true → s1.core.segsAllow lab ea 4096 = true → s1.core.lt[l] < 15 → s1.core.scrPoison ea 4096 = none →
    CanLand (u.intern lab) r out all →
    let e := landing (((landed (u.intern lab) r out all).pushLq .v ⟨s1.core.next, s1.core.next, .atomic, none⟩).pushSq .v
      ⟨s1.core.next, s1.core.next, .atomic (.vamo o ea 0 s1.core.isInt s1.core.ftz s1.core.em.bits (s1.core.vreg d).e), lab, BitVec.ofNat 64 ea, [], none⟩)
      ⟨s1.core.next, .vamo, l, some r, [], s1.core.em.bits, .f32, s1.core.csr.vtype, none, 0, out, all, none, []⟩
    Fits e → ∃ t, exec (.vamo h d p l o f) s = .next t ∧ LeavesV 4 e t) ∧
  (∀ h d p l (o : Fin 2048), Traps (.vld h d p l o) .v h
    (fun s => s.canIntern (Label.join (s.clab .v) s.core.p[p].2) = true ∧ 393216 < s.core.p[p].1 + 64 * o.val + 1024 * (vtMty s.core.csr.vtype).bytes) 0x11
    (fun s => BitVec.ofNat 64 (s.core.p[p].1 + 64 * o.val)) fun s => (s.raised .v s.core.p[p].2).vLab []) ∧
  ∀ h d p l o (f : Fin 256), Traps (.vamo h d p l o f) .v h
    (fun s => s.canIntern (Label.join (s.clab .v) s.core.p[p].2) = true ∧ 393216 < s.core.p[p].1 + 64 * f.val + 4096) 0x11
    (fun s => BitVec.ofNat 64 (s.core.p[p].1 + 64 * f.val)) fun s => (s.raised .v s.core.p[p].2).vLab [d]

/-- R179, R372: VPOP takes the oldest filled slot that no older VPOP holds and starts a landing with its bytes, the slot's label joined; VPUSH claims a slot, sends the containers of its view in the slot's element type, and starts a landing that will publish it. A ring that a word may not use, or a slot too small, is the trap 0x0012. -/
def Obligations.VectorRingWordsStartLandings : Prop :=
  (∀ h d (r : Fin 16) ty x l s s1, issue (.vpop h d r ty x l) .v h s = .go s1 → IxReady s1 [d.view] x → let u := viaIx s1 [d.view] x
    let g := s1.core.ring r
    let order := viewOrder d.view (s1.core.ixVal x)
    let n := order.length * ty.bytes
    let slot := g.freed.toNat + s1.core.popsDue r
    g.waitable = true → n ≤ g.slotSize → s1.core.lt[l] < 15 → s1.core.popsDue r < g.ready → s1.core.scrPoison (g.slotAddr slot) n = none →
    u.canIntern (Label.join (u.clab .v) (g.slotLabel slot)) = true → let u' := u.raised .v (g.slotLabel slot)
    let lab := u'.vLab []
    let repl := d.view == .w && s1.core.em.bits == BitVec.allOnes 1024
    let pr := s1.core.vphys d.r
    CanLand u' pr lab repl → Fits s1 →
    ∃ t, exec (.vpop h d r ty x l) s = .next t ∧ LeavesV (if d.view = .w then 4 else 1) (landing (Sys2Proof.Claims.landed u' pr lab repl)
      ⟨s1.core.next, .vpop, l, some pr, order, s1.core.em.bits, ty, s1.core.csr.vtype, some r.val, slot, lab, repl,
        some (memBytes s1.core.scratch (g.slotAddr slot) n), []⟩) t) ∧
  (∀ h d (r : Fin 16) ty x l s s1, issue (.vpush h d r ty x l) .v h s = .go s1 → IxReady s1 [d.view] x → let u := viaIx s1 [d.view] x
    let g := s1.core.ring r
    let order := viewOrder d.view (s1.core.ixVal x)
    let n := order.length * ty.bytes
    let slot := g.claimed.toNat
    let lab := Label.join (u.clab .v) (s1.core.vreg d.r).lab
    g.claimable = true → n ≤ g.slotSize → u.bindingOk r = true → s1.core.lt[l] < 15 → g.used + 1 ≤ g.count → u.publishOk r slot 1 lab = true → u.canIntern lab = true →
    let e := landing ((((u.intern lab).pushSq .v ⟨s1.core.next, s1.core.next,
          .store ((u.slotLocs g slot n).zip (narrowed ty s1.core.csr.vtype (order.map fun e => (s1.core.vreg d.r).e[Fin.ofNat 1024 e]))) true false none [],
          lab, 0, [], if g.mode = 2 then some (r.val, slot, 1) else none⟩).noteClaim r).claimSlots r 1)
        ⟨s1.core.next, .vpush, l, none, [], 0, ty, s1.core.csr.vtype, some r.val, slot, lab, false, none, []⟩
    Fits e → ∃ t, exec (.vpush h d r ty x l) s = .next t ∧ LeavesV (if d.view = .w then 4 else 1) e t) ∧
  (∀ h d (r : Fin 16) ty x l, Traps (.vpop h d r ty x l) .v h
    (fun s => IxReady s [d.view] x ∧ ((s.core.ring r).waitable = false ∨
      (s.core.ring r).slotSize < (viewOrder d.view (s.core.ixVal x)).length * ty.bytes)) 0x12
    (fun _ => BitVec.ofNat 64 r.val) fun s => (viaIx s [d.view] x).vLab []) ∧
  (∀ h d (r : Fin 16) ty x l, Traps (.vpush h d r ty x l) .v h
    (fun s => IxReady s [d.view] x ∧ ((s.core.ring r).claimable = false ∨
      (s.core.ring r).slotSize < (viewOrder d.view (s.core.ixVal x)).length * ty.bytes ∨ (viaIx s [d.view] x).bindingOk r = false)) 0x12
    (fun _ => BitVec.ofNat 64 r.val) fun s => Label.join ((viaIx s [d.view] x).clab .v) ((viaIx s [d.view] x).core.vreg d.r).lab) ∧
  (∀ h d (r : Fin 16) ty x l s s1, issue (.vpop h d r ty x l) .v h s = .go s1 → IxReady s1 [d.view] x → let g := s1.core.ring r
    g.waitable = true → (viewOrder d.view (s1.core.ixVal x)).length * ty.bytes ≤ g.slotSize → (15 ≤ s1.core.lt[l] ∨ g.ready ≤ s1.core.popsDue r) →
    exec (.vpop h d r ty x l) s = .next s.tick) ∧
  ∀ h d (r : Fin 16) ty x l s s1, issue (.vpush h d r ty x l) .v h s = .go s1 → IxReady s1 [d.view] x → let g := s1.core.ring r
    g.claimable = true → (viewOrder d.view (s1.core.ixVal x)).length * ty.bytes ≤ g.slotSize → (viaIx s1 [d.view] x).bindingOk r = true →
    (15 ≤ s1.core.lt[l] ∨ g.count < g.used + 1) → exec (.vpush h d r ty x l) s = .next s.tick

/-- R361, R376, R377, R382: VCQPOP broadcasts the low word of the queue's head, whose label joins CLABEL; VSETT writes VTYPE; VSETIX writes an ix or a p register from its immediate or from the queue; VWAITL waits until its tokens are zero and ends the landing-pending state of their registers. A pop from the empty queue of an ended C-stream is the deadlock trap 0x0006. -/
def Obligations.VectorQueueTypeAndPointerWords : Prop :=
  (∀ h d e r s s1, issue (.vcqpop h d) .v h s = .go s1 → s1.core.cqV = e :: r → s1.canIntern (Label.join (s1.clab .v) e.lab) = true →
    let u := (s1.raised .v e.lab).modCore fun k => { k with cqV := r }
    let all := u.core.em.bits == BitVec.allOnes 1024
    CanPend u d (u.vLab []) all → Fits s1 →
    ∃ t, exec (.vcqpop h d) s = .next t ∧ LeavesV 4 (pended u 6 d u.core.em.bits (only u.core.em.bits fun _ => e.val.setWidth 32) (u.vLab []) all) t) ∧
  (∀ h z ty n u e, CompletesV (.vsett h z ty n u e) h 1 (fun s => s.canIntern (Label.join (s.core.csr.labOf .vtype) (s.clab .v)) = true)
    fun s => (s.intern (Label.join (s.core.csr.labOf .vtype) (s.clab .v))).modCore fun k => { k with
      csr := { k.csr with vtype := BitVec.ofNat 64 (z.toNat * 128 + ty.code * 16 + n.code * 4 + u.toNat * 2 + e.toNat) }.joinLab .vtype k.v.clab }) ∧
  (∀ h g v, CompletesV (.vsetix h false false g v) h 1 (fun _ => True)
    fun s => s.modCore fun k => { k with ix := k.ix.set g (v.setWidth 16, k.v.clab) }) ∧
  (∀ h g (v : BitVec 17), CompletesV (.vsetix h true false g v) h 1 (fun _ => True)
    fun s => s.modCore fun k => { k with p := k.p.set g (64 * v.toNat, k.v.clab) }) ∧
  (∀ h g v e r, CompletesV (.vsetix h false true g v) h 1 (fun s => s.core.cqV = e :: r ∧ s.canIntern (Label.join (s.clab .v) e.lab) = true)
    fun s => (s.raised .v e.lab).modCore fun k => { k with cqV := r, ix := k.ix.set g (e.val.setWidth 16, e.lab) }) ∧
  (∀ h g v e r, CompletesV (.vsetix h true true g v) h 1
    (fun s => s.core.cqV = e :: r ∧ s.canIntern (Label.join (s.clab .v) e.lab) = true ∧ e.val.toNat / 64 * 64 ≤ 393152)
    fun s => (s.raised .v e.lab).modCore fun k => { k with cqV := r, p := k.p.set g (e.val.toNat / 64 * 64, e.lab) }) ∧
  (∀ h (m : BitVec 8), CompletesV (.vwaitl h m) h 1 (fun s => ∀ (t : Fin 8), m.getLsbD t = true → s.core.lt[t] = 0)
    fun s => s.modCore fun k => { k with landPend := k.landPend.filter fun p => !m.getLsbD p.2 }) ∧
  ∀ h d, Traps (.vcqpop h d) .v h (fun s => s.core.cqV = [] ∧ s.core.c.ended = true) 6 (fun _ => 17) fun s => s.clab .v

/-- R102, R103, R367: VLOOP of T > 0 iterations opens a loop of S stages over the next words, with RRB and ITER at 0; with T = 0 it skips the body; inside a body it is illegal. VSTG sets the stage of the words that follow it in a body, has no effect outside one, and is illegal with a stage that the loop lacks. -/
def Obligations.VectorLoopWords : Prop :=
  (∀ h (n : Fin 64) (g : Fin 8) x s s1, issue (.vloop h n g x) .v h s = .go s1 → s1.core.loop = none → s1.core.again = none →
    s1.canIntern (Label.join (s1.clab .v) s1.core.ix[x].2) = true → Fits s1 → let T := s1.core.ix[x].1.toNat
    (0 < T → ∃ t, exec (.vloop h n g x) s = .next t ∧ t.pc .v = s1.pc .v + 4 ∧
      t.core.loop = some ⟨s1.pc .v + 4, n.val, g.val + 1, T, 0, 0, T, 0⟩ ∧ t.core.csr.rrb = 0 ∧ t.core.csr.iter = 0 ∧ t.core.csr.act = 1 ∧
      t.clab .v = Label.join (s1.clab .v) s1.core.ix[x].2) ∧
    (T = 0 → ∃ t, exec (.vloop h n g x) s = .next t ∧ t.pc .v = s1.pc .v + 4 + BitVec.ofNat 64 (4 * n.val) ∧ t.core.loop = none ∧
      t.core.csr.rrb = 0 ∧ t.core.csr.iter = 0 ∧ t.clab .v = Label.join (s1.clab .v) s1.core.ix[x].2)) ∧
  (∀ h n g x s, let i := Instr.vloop h n g x
    Unhindered i { s with core := { s.core with loop := none } } .v → s.core.inBody = true → s.core.inert = false →
    exec i s = .next (s.takeTrap .v 1 (wordOf i) s.core.ix[x].2).tick) ∧
  (∀ h (g : Fin 8) l s, let i := Instr.vstg h g
    Unhindered i { s with core := { s.core with loop := none } } .v → s.core.loop = some l → s.core.inBody = true → s.core.inert = false →
    l.stages ≤ g.val → exec i s = .next (s.takeTrap .v 1 (wordOf i) 0).tick) ∧
  (∀ h g, CompletesV (.vstg h g) h 1 (fun s => ∀ l, s.core.loop = some l → l.inside s.core.v.pc = false) fun s => s) ∧
  ∀ h (g : Fin 8) l, CompletesV (.vstg h g) h 1 (fun s => s.core.loop = some l ∧ l.inside s.core.v.pc = true ∧ g.val < l.stages)
    fun s => s.modCore fun k => { k with loop := some { l with stage := g.val } }

/-- R370, R371: VMRD of rows that the watermark of its plane has passed reads a row of 64 accumulators into its register, or sixteen rows under view W, with the plane's label; above the watermark it waits. -/
def Obligations.VmrdReadsAccumulatorRows : Prop :=
  (∀ h d p (r : Fin 128) c x s s1, issue (.vmrd h d p r c x) .v h s = .go s1 → IxReady s1 [d.view] x → let u := viaIx s1 [d.view] x
    let want := if d.view = .w then 16 else 1
    let pl := s1.core.plane p
    let n := u.core.ixVal x
    let lab := Label.join (u.vLab []) pl.lab
    let repl := d.view == .w && u.core.em.bits == BitVec.allOnes 1024
    s1.core.vrows = [] → r.val + want ≤ pl.wm → CanPend u d.r lab repl → Fits s1 →
    ∃ t, exec (.vmrd h d p r c x) s = .next t ∧ LeavesV (if d.view = .w then 4 else 1) (pended (u.modCore fun k => { k with vrows := [] }) 6 d.r
      (viewBits d.view n &&& u.core.em.bits)
      (only (viewBits d.view n &&& u.core.em.bits) fun e => pl.acc[Fin.ofNat 12288 (128 * (r.val + if d.view = .w then e.val / 64 else 0) + (if c then 64 else 0) + e.val % 64)]) lab repl) t) ∧
  ∀ h d p (r : Fin 128) c x s s1, issue (.vmrd h d p r c x) .v h s = .go s1 → IxReady s1 [d.view] x → s1.core.vrows = [] →
    (s1.core.plane p).wm ≤ r.val → exec (.vmrd h d p r c x) s = .next s.tick
/-! ### The M-stream -/

/-- The state with a command of word `i` at the end of the array's FIFO, from tile `tile` on, with that tile's drain alone where `pend` holds (R324, R329, R331). -/
def Sys2Proof.Claims.commanded (s : State) (i : Instr) (c : MCmd) (tile : Nat) (pend : Bool) : State :=
  s.modCore fun k => { k with fifo := k.fifo ++ [⟨c, (wordOf i).setWidth 32, k.next, k.m.pc, k.m.clab, tile, pend, none⟩] }
/-- The FIFO has room, fewer than 64 commands are held, and the older accesses of the stream have performed (R125, R175, R324). -/
abbrev Sys2Proof.Claims.Accepts (s : State) : Prop :=
  s.core.fifo.length < 16 ∧ s.core.heldCmds < 64 ∧ s.core.m.olderBoth s.core.next = true
/-- No fetch of an MGO of the slot is still to issue, and no trap has stopped one of it (R111, R331). -/
abbrev Sys2Proof.Claims.Fresh (s : State) (n : Fin 8) : Prop := s.core.slotBusy n = false ∧ ∀ x, s.core.stopAt = some x → x.1 ≠ n

/-- R324, R329, R330, R331, R332: the array accepts a command, and its word stays in flight. MGO latches the shadow copy of its slot, or goes on from the tile at which a trap
stopped it; a slot outside its limits traps with cause 0x0031 and the slot's label. -/
def Obligations.MatrixCommandsEnterTheFifo : Prop :=
  (∀ h p a b c l z t, Waits (.mma h p a b c l z t) .m h Accepts fun s => commanded s (.mma h p a b c l z t) (.mma p a b c l z t false) 0 false) ∧
  (∀ h p a b c z t, Waits (.mmas h p a b c z t) .m h Accepts fun s =>
    commanded s (.mmas h p a b c z t) (.mma p a b c false z t true) 0 false) ∧
  (∀ h n p, Waits (.mdrainMem h n p) .m h Accepts fun s =>
    commanded s (.mdrainMem h n p) (.drain p (.mem (s.core.shadow[n].wide 2) (s.core.shadow[n].wide 5) s.core.shadow[n].lab)) 0 false) ∧
  (∀ h p c, Waits (.mdrainRing h p c) .m h Accepts fun s => commanded s (.mdrainRing h p c) (.drain p (.ring c.val)) 0 false) ∧
  (∀ h n p l z t, Waits (.mgo h n p l z t) .m h (fun s => Fresh s n ∧ Accepts s ∧ s.core.shadow[n].ok = true) fun s =>
    commanded (s.modCore fun k => { k with active := k.active.set n k.shadow[n], stopAt := none }) (.mgo h n p l z t) (.mgo n p l z t) 0 false) ∧
  (∀ h n p l z t i d, Waits (.mgo h n p l z t) .m h (fun s => s.core.slotBusy n = false ∧ s.core.stopAt = some (n, i, d) ∧ Accepts s) fun s =>
    commanded (s.modCore fun k => { k with stopAt := none }) (.mgo h n p l z t) (.mgo n p l z t) i d) ∧
  (∀ h n p l z t, Traps (.mgo h n p l z t) .m h (fun s => Fresh s n ∧ Accepts s ∧ s.core.shadow[n].ok = false) 0x31 (fun _ => 0)
    fun s => s.core.shadow[n].lab)

/-- R334, R336, R338, R327, R328: the words of the array that act as they issue. MZERO and MSWAP wait until nothing waits in the array and the planes are free; MWAIT waits for the watermark and
takes the plane's label into CLABEL; MBAR waits for every older word and the posted set, and reports a refused write; MCFG latches the shape of its slot, with X after clearing
both planes, and without X traps with cause 0x0032 at a dirty plane; a shape outside its limits traps with cause 0x0031, each with the slot's label. What the window retains names its plane by the name after the swap. -/
def Obligations.MatrixWordsThatActAtIssue : Prop :=
  (∀ h p, Completes (.mzero h p) .m h (fun s => s.core.fifo = [] ∧ s.core.mgo = none ∧ ∀ b ∈ planesOf p, s.core.planeFree b = true)
    (fun s => (s.modCore fun k => (planesOf p).foldl Core.mzero k).mark ((planesOf p).map wmkOf)) fun s => s.pc .m + 4) ∧
  (∀ (k : Core) b, let o := k.mzero b
    (o.plane b).acc = Vector.replicate 12288 0 ∧ (o.plane b).lab = k.m.clab ∧ (o.plane b).wm = 96 ∧ (o.plane b).dirty = false ∧
      (o.plane b).m = 0 ∧ (o.plane b).n = 0 ∧ o.plane (!b) = { k.plane (!b) with held := (o.plane (!b)).held }) ∧
  (∀ h, Completes (.mswap h) .m h (fun s => s.core.fifo = [] ∧ s.core.mgo = none ∧ s.core.run = none ∧ ∀ b, s.core.planeFree b = true)
    (fun s => (s.modCore fun k => { k with plane0 := k.plane1.flip, plane1 := k.plane0.flip }).mark [.wmk0, .wmk1]) fun s => s.pc .m + 4) ∧
  (∀ h p (r : Fin 256), Completes (.mwait h p r) .m h
    (fun s => r.val ≤ (s.core.plane p).wm ∧ s.canIntern (Label.join (s.clab .m) (s.core.plane p).lab) = true)
    (fun s => s.raised .m (s.core.plane p).lab) fun s => s.pc .m + 4) ∧
  (∀ h s s1, issue (.mbar h) .m h s = .go s1 → s1.core.m.infl = [] → s1.core.m.posted = [] →
    ∃ t, exec (.mbar h) s = .next (t.egressTrap .m 0 none) ∧ Leaves .m s1 t ∧ t.pc .m = s1.pc .m + 4 ∧
      (s1.core.m.refused = [] → t.egressTrap .m 0 none = t) ∧
      ∀ r rs, s1.core.m.refused = r :: rs →
        t.egressTrap .m 0 none = (t.modStrm .m fun x => { x with refused := [] }).trapAt .m 0x21 r.2 (s1.pc .m + 4) 0 false) ∧
  (∀ h n x, Completes (.mcfg h n x) .m h
    (fun s => s.core.m.infl = [] ∧ s.core.shadow[n].shapeOk = true ∧ (x = true ∨ s.core.plane0.dirty = false ∧ s.core.plane1.dirty = false))
    (fun s => (if x then s.mcfgClear else s).modCore fun k => { k with cfg := cfgOf k.shadow[n] n }) fun s => s.pc .m + 4) ∧
  (∀ h n, Traps (.mcfg h n false) .m h (fun s => s.core.m.infl = [] ∧ s.core.plane0.dirty = true) 0x32 (fun _ => 0)
    fun s => s.core.shadow[n].lab) ∧
  (∀ h n, Traps (.mcfg h n false) .m h (fun s => s.core.m.infl = [] ∧ s.core.plane0.dirty = false ∧ s.core.plane1.dirty = true) 0x32 (fun _ => 1)
    fun s => s.core.shadow[n].lab) ∧
  (∀ h n, Traps (.mcfg h n false) .m h
    (fun s => s.core.m.infl = [] ∧ s.core.plane0.dirty = false ∧ s.core.plane1.dirty = false ∧ s.core.shadow[n].shapeOk = false)
    0x31 (fun _ => 0) fun s => s.core.shadow[n].lab) ∧
  (∀ h n s s0 s1, s.core.m.infl = [] → s.core.shadow[n].shapeOk = false → issue (.mcfg h n true) .m h s = .go s0 →
    issue (.mcfg h n true) .m h s.mcfgClear = .go s1 → s1.core.m.infl = [] →
    exec (.mcfg h n true) s = .next (s.mcfgClear.takeTrap .m 0x31 0 s.core.shadow[n].lab).tick)

/-- R137: MWELT with a tile in flight, once the bytes that the clean cut needs are there, writes the clean image of its cut at the save area of its slot, with the label of the image; the commands and format
words leave the array, the plane is zero, and WELTSTAT tells of it. Without a tile in flight it writes the header and the format queue alone. Its word stays in flight until the image has performed. A save area that an access
may not write is the access's fault. -/
def Sys2Proof.Claims.MweltCutsTheArray : Prop :=
  (∀ h n s s1 s2 ps, issue (.mwelt h n) .m h s = .go s1 → s1.flight = none → let w := s1.weltNone
    let save := (s1.core.shadow[n].wide 14).toNat
    s1.imagePieces w.xlab (pageRuns save 0x100 ++ pageRuns (save + 0x300) 0x100) = .ok (s2, ps) →
    let e := ((s2.modCore fun k => { k with fmtq := [], popped := none }).mark [.fmtlvl]).writeImage s1.core.next w.xlab ps (w.header ++ fmtBytes w.fmts)
    Fits e → ∃ t, exec (.mwelt h n) s = .next t ∧ t.pc .m = s1.pc .m + 4 ∧ Leaves .m e t ∧ t.core.fmtq = [] ∧ InFlight t .m s1.core.next) ∧
  (∀ h n s s1 s2 s3 ps r, issue (.mwelt h n) .m h s = .go s1 → s1.flight = some (s2, r) → r.cutReady = true →
    let x := s2.evenOut r
    let w := x.1.weltOf x.2 false x.2.due
    let save := s1.core.shadow[n].wide 14
    let d := Label.join w.plab w.xlab
    x.1.imagePieces d (pageRuns save.toNat (weltSize w.m w.n)) = .ok (s3, ps) →
    let e := (((s3.afterCut x.2 save).setWelt (w.stat false)).writeImage s1.core.next d ps w.bytes).settleWord .m x.2.cmd.id
    Fits e → ∃ t, exec (.mwelt h n) s = .next t ∧ t.pc .m = s1.pc .m + 4 ∧ Leaves .m e t ∧ InFlight t .m s1.core.next ∧
      t.core.fifo = [] ∧ t.core.mgo = none ∧ t.core.run = none ∧ t.core.fmtq = [] ∧ t.core.csr.weltstat = w.stat false ∧
      (t.core.plane x.2.t.plane).acc = Vector.replicate 12288 0 ∧ (t.core.plane x.2.t.plane).dirty = false) ∧
  (∀ h n s s1 s2 r, issue (.mwelt h n) .m h s = .go s1 → s1.flight = some (s2, r) → r.cutReady = false → exec (.mwelt h n) s = .next s.tick) ∧
  ∀ h n c v l, Traps (.mwelt h n) .m h
    (fun s => s.flight = none ∧ let save := (s.core.shadow[n].wide 14).toNat
      s.imagePieces s.weltNone.xlab (pageRuns save 0x100 ++ pageRuns (save + 0x300) 0x100) = .error (.trap c v l)) c (fun _ => v) fun _ => l

/-- R138: MRSTR, at an array with nothing in flight, reads an image that passes its checks and whose plane is not dirty; the format words stand before those of the queue, with the label of the image;
an image with a tile becomes the commands that run again, the cut one first, its plane takes the accumulators of the image with that label, and its word stays in flight. With an older command in flight it waits. -/
def Sys2Proof.Claims.MrstrResumesTheImage : Prop :=
  (∀ h n s s1 s2 s3 s4 hd bs hl fl, issue (.mrstr h n) .m h s = .go s1 → s1.core.m.infl = [] → let save := s1.core.shadow[n].wide 14
    let l0 := Label.join (s1.clab .m) s1.core.shadow[n].lab
    s1.readImage l0 save 0x800 = .ok (s2, hd, hl) → weltHeadOk hd = true →
    s2.readImage l0 save (weltSize (fieldAt hd 6 1) (fieldAt hd 7 1)) = .ok (s3, bs, fl) → let w := Welt.read bs
    w.mapOk = true → w.fmts.length + s3.core.fmtq.length ≤ 16 → (w.kind ≠ 0 → s3.core.weltCmds w = true) → (s3.core.plane w.plane).dirty = false →
    s3.needAll fl [Label.clear0 w.plab, Label.clear0 w.xlab] = .ok s4 →
    let lab := Label.joins [Label.clear0 w.plab, Label.clear0 w.xlab, fl, s4.clab .m]
    s4.canIntern lab = true →
    let u := ((s4.intern lab).modCore fun k => { k with fmtq := w.fmts.map (fun v => ⟨v, lab⟩) ++ k.fmtq }).mark [.fmtlvl]
    let e := if w.kind = 0 then u else u.resumeWelt w save lab
    Fits e → ∃ t, exec (.mrstr h n) s = .next t ∧ t.pc .m = s1.pc .m + 4 ∧ Leaves .m e t ∧
      t.core.fmtq = w.fmts.map (fun v => ⟨v, lab⟩) ++ s4.core.fmtq ∧
      (w.kind ≠ 0 → InFlight t .m s1.core.next ∧ t.core.fifo.length = w.tail.length + 1 ∧ (t.core.fifo.head?.map (·.word)) = some w.cmd ∧
        let o := t.core.plane w.plane
        o.acc = ((s4.core.plane w.plane).inject w).acc ∧ o.lab = lab ∧ o.dirty = true ∧ o.wm = 0 ∧ o.m = w.m ∧ o.n = w.n)) ∧
  ∀ h n s s1, issue (.mrstr h n) .m h s = .go s1 → s1.core.m.infl ≠ [] → exec (.mrstr h n) s = .next s.tick

/-- R124, R138: an MRSTR whose image fails a check of its header, its map, its format words or its commands traps with cause 0x0033 and TVAL the save area, and one whose plane is dirty with cause 0x0032 and TVAL the
plane, each with the label of what it has read; nothing else has changed. -/
def Sys2Proof.Claims.MrstrRefusesABadImage : Prop :=
  ∀ h n s s1 s2 hd hl, issue (.mrstr h n) .m h s = .go s1 → s1.core.m.infl = [] → s.olderMay .m = false → let save := s1.core.shadow[n].wide 14
    let l0 := Label.join (s1.clab .m) s1.core.shadow[n].lab
    s1.readImage l0 save 0x800 = .ok (s2, hd, hl) →
    (weltHeadOk hd = false → exec (.mrstr h n) s = .next (s.takeTrap .m 0x33 save hl).tick) ∧
    ∀ s3 bs fl, weltHeadOk hd = true → s2.readImage l0 save (weltSize (fieldAt hd 6 1) (fieldAt hd 7 1)) = .ok (s3, bs, fl) → let w := Welt.read bs
      (w.mapOk = false ∨ 16 < w.fmts.length + s3.core.fmtq.length ∨ w.kind ≠ 0 ∧ s3.core.weltCmds w = false →
        exec (.mrstr h n) s = .next (s.takeTrap .m 0x33 save fl).tick) ∧
      (w.mapOk = true → w.fmts.length + s3.core.fmtq.length ≤ 16 → (w.kind ≠ 0 → s3.core.weltCmds w = true) → (s3.core.plane w.plane).dirty = true →
        exec (.mrstr h n) s = .next (s.takeTrap .m 0x32 (if w.plane then 1 else 0) fl).tick)

/-- MWELT and MRSTR. -/
def Obligations.WeltWordsSaveAndResumeTiles : Prop :=
  MweltCutsTheArray ∧ MrstrResumesTheImage ∧ MrstrRefusesABadImage

/-! ### Steps of the ordering machine, the engines, the hub and firmware -/

/-- The oldest entry of a queue that no fence holds, free to perform. -/
abbrev Sys2Proof.Claims.HeadLoad (f : State) (st : Stream) (e : LEnt) : Prop := (f.strm st).lqHead = some e ∧ (f.strm st).loadHeld e.seq = false
abbrev Sys2Proof.Claims.HeadStore (f : State) (st : Stream) (e : SEnt) : Prop := (f.strm st).sqHead = some e ∧ (f.strm st).storeHeld e.seq = false
def Sys2Proof.Claims.LoadGone (u : State) (st : Stream) (id seq : Nat) : Prop := ∀ x ∈ (u.strm st).lq, ¬(x.id = id ∧ x.seq = seq)
def Sys2Proof.Claims.StoreGone (u : State) (st : Stream) (id seq : Nat) : Prop := ∀ x ∈ (u.strm st).sq, ¬(x.id = id ∧ x.seq = seq)

/-- The label that the bytes of a load have as they arrive (R203). -/
def Sys2Proof.Claims.arrivalLab (f : State) (e : LEnt) : Label :=
  Label.joins ((e.memNeed.map fun x => frameOf x.2.1).dedup.map fun g => f.readLab (4096 * g))

/-- LOAD_PERFORM (R157, R166, R171, R197, R203, R299): the head load of a stream, whose bytes lie in one page of device memory or in scratchpad and may be read now, writes its register with
those bytes, the lowest at the lowest address, and with the label of its word joined with those of their frames; an acquire removes every copy first. A byte found uncorrectable is the poison trap of its word instead. -/
def Sys2Proof.Claims.HeadLoadsWriteTheirRegister : Prop :=
  (∀ c st page install e need d lab k, AtCore (.loadPerform c st page ⟨install, none⟩) c
    (fun f => HeadLoad f st e ∧ e.kind = .load need (need.map fun _ => none) (.x d lab) ∧ need ≠ [] ∧ (∀ x ∈ need, pageKey x.1 = k) ∧ e.farNeed = [] ∧
      f.badNeed st e = none ∧ f.canIntern (Label.join lab (arrivalLab f e)) = true ∧
      f.mayRead st e.seq (need.map fun x => x.2.1) = true ∧ (f.strm st).refused = [])
    fun f u => let f' := match e.acq with | some sc => f.acquire sc | none => f
      u.core.readX d = (if d = 0 then ⟨0, 0⟩ else
        ⟨BitVec.ofNat 64 (leNat (need.map fun x => f'.loadByte st e.seq x.2.1 x.2.2)), Label.join lab (arrivalLab f e)⟩) ∧
      (∀ r, r ≠ d → u.core.x[r] = f.core.x[r]) ∧ u.core.xPend = f.core.xPend.erase d ∧ u.mem = f.mem ∧ LoadGone u st e.id e.seq ∧
      ∀ sc, e.acq = some sc → sc ≠ .co → install = false → u.core.l1 = []) ∧
  (∀ c st page install e need got d lab va, AtCore (.loadPerform c st page ⟨install, none⟩) c
    (fun f => HeadLoad f st e ∧ e.kind = .load need got (.x d lab) ∧ e.farNeed = [] ∧ f.badNeed st e = some va)
    fun f u => u = f.loadTrap st e (.x d lab) 0x0014 (BitVec.ofNat 64 va) 0)

/-- LOAD_PERFORM of LCWAIT (R165, R166, R171, R220, R226): at the head of the C-stream's load queue, once every declared tile is granted, it removes the copies of its core and die, reads the tags of the tiles and makes the
slot GRANTED; before that nothing happens. -/
def Sys2Proof.Claims.LcwaitPerformsAtTheHead : Prop :=
  ∀ c page install e, let Held := fun (f : State) => ∀ t ∈ f.core.lace.tiles, f.holds t.pa f.core.lace.num = true
    AtCore (.loadPerform c .c page ⟨install, none⟩) c (fun f => HeadLoad f .c e ∧ e.kind = .lcwait ∧ f.core.c.refused = [] ∧ Held f)
      (fun f u => u.core.lace = { f.core.lace with st := .granted, tiles := f.core.lace.tiles.map fun t => { t with tag := f.frameLab t.pa } } ∧
        u.core.l1 = [] ∧ (∀ x ∈ u.rdc, x.1 ≠ coreDie f.core.id) ∧ u.mem = f.mem ∧ u.core.x = f.core.x ∧ LoadGone u .c e.id e.seq) ∧
    AtCore (.loadPerform c .c page ⟨install, none⟩) c (fun f => HeadLoad f .c e ∧ e.kind = .lcwait ∧ ¬ Held f) fun f u => u = f

/-- STORE_PERFORM (R145, R167): the head store of a stream, in device memory and scratchpads, writes every byte that is left of it at its home, and no other byte changes; a release waits for what stands before it. Where the step names granules, it writes
each 4-byte granule of memory and each line of a scratchpad whole, or not at all. -/
def Sys2Proof.Claims.HeadStoresWriteTheirBytes : Prop :=
  ∀ c st e b whole rel wrote,
    let Free := fun (f : State) => Sound f ∧ HeadStore f st e ∧ e.kind = .store b true whole rel wrote ∧ farBytes b = [] ∧
      (f.strm st).clearOf e.seq b = true ∧ (∀ sc, rel = some sc → (f.strm st).mayRelease e.seq sc = true) ∧ (f.strm st).refused = []
    let Writes := fun (f u : State) (w : List (Loc × Byte)) => (∀ pa, memGet u.mem pa = written w (.mem pa) (memGet f.mem pa)) ∧
      ∀ i a, memGet (u.coreOf i).scratch a = written w (.scr i a) (memGet (f.coreOf i).scratch a)
    let left := b.filter fun x => !wrote.contains x.1
    AtCore (.storePerform c st []) c (fun f => Free f ∧ (b = [] ∨ left ≠ [])) (fun f u => Writes f u left ∧ StoreGone u st e.id e.seq) ∧
    ∀ grans, AtCore (.storePerform c st grans) c Free fun f u => ∃ gs : List Loc, Writes f u (left.filter fun x => gs.contains x.1.granule)

/-- ATOMIC_PERFORM (R161, R169, R197, R289, R302, R358): AMO and CAS in device memory read and write their bytes in one step and write their register with the old value, with the label of their word joined with that of the frame; VAMO performs its next enabled word. -/
def Sys2Proof.Claims.HeadAtomicsReadAndWrite : Prop :=
  (∀ c e pa sz op expect v d lab sc va, sz = 4 ∨ sz = 8 → AtCore (.atomicPerform c .c) c
    (fun f => Sound f ∧ HeadStore f .c e ∧ e.kind = .atomic (.amo (.mem pa) sz op expect v d lab sc va) ∧ (f.strm .c).atomReady e = true ∧
      (f.strm .c).mayRelease e.seq sc = true ∧ f.mayAct .c e.seq ((List.range sz).map fun i => .mem (pa + i)) = true ∧
      f.poison.contains (lineOf pa) = false ∧ f.canIntern (Label.join lab (f.readLab pa)) = true ∧ (f.strm .c).refused = [] ∧
      (∀ i < sz, paClass (pa + i) = 0))
    fun f u => let old := f.atomOld (.mem pa) sz
      u.core.readX d = (if d = 0 then ⟨0, 0⟩ else ⟨signExtendBytes sz old, Label.join lab (f.readLab pa)⟩) ∧
      u.atomOld (.mem pa) sz = zeroExtendBytes sz (match op with
        | some o => o.applyBytes sz old v
        | none => if old = zeroExtendBytes sz expect then v else old) ∧
      u.core.xPend = f.core.xPend.erase d ∧ StoreGone u .c e.id e.seq) ∧
  (∀ c e op ea n int ftz em vals (i : Fin 1024), nextOn em 1024 n = i.val → AtCore (.atomicPerform c .v) c
    (fun f => Sound f ∧ HeadStore f .v e ∧ e.kind = .atomic (.vamo op ea n int ftz em vals) ∧ (f.strm .v).atomReady e = true)
    fun f u => let l : Loc := .scr f.core.id (ea + 4 * i.val)
      u.atomOld l 4 = (op.apply int ftz ((f.atomOld l 4).setWidth 32) vals[i]).setWidth 64)

/-- A fence marker or QALIGN in a load queue. -/
def Sys2Proof.Claims.isMarker (e : LEnt) : Bool := match e.kind with | .fence .. => true | .qalign => true | _ => false

/-- FENCE_MARKER_PERFORM (R171, R172, R390): a marker whose condition holds leaves both queues; an acquire of die scope or wider removes the core's copies. -/
def Sys2Proof.Claims.MarkersLeaveTheQueues : Prop :=
  (∀ c st n e k sc, AtCore (.fenceMarkerPerform c st n) c
    (fun f => let ms := (f.strm st).lq.filter isMarker
      ms[n % ms.length]? = some e ∧ e.kind = .fence k sc ∧ (f.strm st).loadHeld e.seq = false ∧ (f.strm st).fenceReady e.seq k sc = true ∧
        (f.strm st).refused = [])
    fun f u => LoadGone u st e.id e.seq ∧ StoreGone u st e.id e.seq ∧ u.mem = f.mem ∧ (k ≠ .rl → sc ≠ .co → u.core.l1 = []) ∧
      (k = .rl → u.core.l1 = f.core.l1)) ∧
  (∀ c st n e, AtCore (.fenceMarkerPerform c st n) c
    (fun f => let ms := (f.strm st).lq.filter isMarker
      ms[n % ms.length]? = some e ∧ e.kind = .qalign ∧ (f.strm st).olderBoth e.seq = true ∧ (f.strm st).loadHeld e.seq = false)
    fun f u => LoadGone u st e.id e.seq ∧ StoreGone u st e.id e.seq ∧ u.mem = f.mem ∧ u.core.l1 = f.core.l1)

/-- The steps of the ordering machine. -/
def Obligations.QueueHeadsPerform : Prop :=
  HeadLoadsWriteTheirRegister ∧ LcwaitPerformsAtTheHead ∧ HeadStoresWriteTheirBytes ∧ HeadAtomicsReadAndWrite ∧ MarkersLeaveTheQueues

/-- WORD_FETCH (R35, R192, R266): the word at the program counter of a stream is read at its home through a fetch translation and decoded for that stream and kind of core, and issues next. -/
def Sys2Proof.Claims.WordFetchReadsTheWord : Prop :=
  ∀ (s : State) c st s' pa pol i, let f := ((s.focus c).retireAll st).modCore fun k => { k with cur := st }
    f.fetchIdle st = false → f.translate .fetch (f.pc st) (.fetch st) = .ok (s', pa, pol) → s'.fetchCheck (f.pc st) pa = .ok () →
    decode s'.core.dispatch st (s'.codeAt pa) = .ok i → exec (.wordFetch c st) s = .next { s' with ir := some (st, i) }

/-- WORD_RETIRE (R16, R17, R19, R22, R199, R355): the oldest word of a stream, whose condition holds, leaves it. Its S mark adds one token, with CLABEL joined to the queue's label; a stream that has ended takes none; at a count of
15 the word stays. A TROUTE sets its routes then. -/
def Sys2Proof.Claims.RetiringWordsSignal : Prop :=
  ∀ (s : State) c st w rest, s.inReset = false → let k := (s.focus c).core
    (k.strm st).infl = w :: rest → w.done = true → (∀ v ∈ rest, v.done = false) →
    (∀ q : Fin 16, w.sigs = [q.val] → w.route = none → let d := Stream.ofNum (q.val % 4)
      CoreStep (.wordRetire c st) s fun u =>
        if (k.strm d).ended then (u.strm st).infl = rest ∧ u.core.tok = k.tok ∧ u.core.tokLab = k.tokLab
        else if k.tok[q] < 15 then
          (u.strm st).infl = rest ∧ u.core.tok = k.tok.set q (k.tok[q] + 1) ∧
            u.core.tokLab[q] = Label.join k.tokLab[q] (k.strm st).clab ∧ (d = .c → u.core.latch = true)
        else (u.strm st).infl = w :: rest ∧ u.core.tok = k.tok) ∧
    ∀ r, w.sigs = [] → w.route = some r → CoreStep (.wordRetire c st) s fun u =>
      (u.strm st).infl = rest ∧ (u.strm st).routeIn = r.1 ∧ (u.strm st).routeOut = r.2 ∧ u.core.tok = k.tok

/-- FIXED_LATENCY_RETIRE (R387): every V-stream word whose fixed latency has passed in clocks has its condition met, and where it signals nothing it has left, whatever older word still stands before it; no register changes. -/
def Sys2Proof.Claims.FixedLatencyWordsRetire : Prop :=
  ∀ c, AtCore (.fixedLatencyRetire c) c (fun _ => True) fun f u =>
    (∀ w ∈ u.core.v.infl, (∃ p ∈ f.core.vpend, p.id = w.id ∧ p.due ≤ f.clk) → w.done = true ∧ ¬(w.fixed = true ∧ w.sigs = [])) ∧
    ((∀ p ∈ f.core.vpend, f.clk < p.due) → u = f) ∧ u.core.vr = f.core.vr ∧ u.core.vpend = f.core.vpend ∧ u.mem = f.mem

/-- VECTOR_LANDING (R93, R97, R366, R372): a landing load or pop writes the enabled containers of its register, with its label, and its landing token falls; a landing store or push writes no register. -/
def Sys2Proof.Claims.LandingsWriteTheirRegister : Prop :=
  (∀ c n l r, AtCore (.vectorLanding c n) c
    (fun f => let ls := f.core.landings.filter f.canLand
      ls[n % ls.length]? = some l ∧ (l.kind = .vld ∨ l.kind = .vpop) ∧ l.reg = some r ∧ l.order.Nodup ∧ ∀ x ∈ l.order, x < 1024)
    fun f u => (∀ q, q ≠ r → u.core.vr[q] = f.core.vr[q]) ∧
      u.core.vr[r].lab = (if l.repl then l.lab else Label.join f.core.vr[r].lab l.lab) ∧
      (∀ j (x : Fin 1024), l.order[j]? = some x.val → u.core.vr[r].e[x] =
        if l.em.getLsbD x then widen l.ty l.vtype (elemAt (l.bytes.getD []) l.ty j) else f.core.vr[r].e[x]) ∧
      (∀ x : Fin 1024, x.val ∉ l.order → u.core.vr[r].e[x] = f.core.vr[r].e[x]) ∧
      u.core.lt[l.lt] = f.core.lt[l.lt] - 1 ∧ ∀ x ∈ u.core.landings, x.id ≠ l.id) ∧
  (∀ c n l, AtCore (.vectorLanding c n) c
    (fun f => let ls := f.core.landings.filter f.canLand
      ls[n % ls.length]? = some l ∧ (l.kind = .vst ∨ l.kind = .vpush))
    fun f u => u.core.vr = f.core.vr ∧ u.core.lt[l.lt] = f.core.lt[l.lt] - 1 ∧ ∀ x ∈ u.core.landings, x.id ≠ l.id)

/-- STITCH_ISSUE (R21, R199): once every stream of the stitch waits at a marked word they are released together, each with the join of their CLABELs, and the next steps of the module issue their words; the other streams stay as they are. -/
def Sys2Proof.Claims.StitchedStreamsAreReleased : Prop :=
  ∀ c, AtCore (.stitchIssue c) c
    (fun f => 2 ≤ f.core.stitchers.length ∧ (∀ st ∈ f.core.stitchers, (f.strm st).stitch = .waiting) ∧
      f.canIntern (Label.joins (f.core.stitchers.map f.clab)) = true)
    fun f u => u.agenda = (f.core.stitchers.map fun st => .wordFetch f.core.id st) ++ f.agenda ∧
      ∀ st, (st ∈ f.core.stitchers → (u.strm st).stitch = .released ∧ u.clab st = Label.joins (f.core.stitchers.map f.clab)) ∧
        (st ∉ f.core.stitchers → u.strm st = f.strm st)

/-- HOLD_OVERRUN (R26, R226): a region that has stood for 256 clocks raises cause 0x0007 in its stream, with TVAL the address of the HOLD; one whose clocks have not begun, because its LCWAIT has not retired, does not. -/
def Sys2Proof.Claims.StandingRegionsTrap : Prop :=
  ∀ c st h, AtCore (.holdOverrun c st) c
    (fun f => (f.strm st).hold = some h ∧ 256 ≤ f.clk - h.start ∧ (f.strm st).barred = false ∧
      ¬(st = .c ∧ h.first = true ∧ f.core.lace.st = .submitted) ∧ f.olderMay st = false)
    fun f u => u = if h.wait = none then f.takeTrap st 7 h.addr 0 else f

/-- The steps of a stream beside its words. -/
def Obligations.WordsAreFetchedRetireAndLand : Prop :=
  WordFetchReadsTheWord ∧ RetiringWordsSignal ∧ FixedLatencyWordsRetire ∧ LandingsWriteTheirRegister ∧ StitchedStreamsAreReleased ∧ StandingRegionsTrap

/-! ### Writes that leave, writes that arrive -/

/-- POSTED_LEAVE (R170, R212): at the head of its queue, the bytes of a store above 2^50 leave in one step for the posted set of its stream, one write for each run of addresses, with the store's label and the run's address; only a
scheduler-window write needs no release at the hub. Memory stays as it is, and the store leaves its queue unless it has bytes of device memory still to write. -/
def Sys2Proof.Claims.FarStoresArePosted : Prop :=
  ∀ c st e b whole rel wrote, AtCore (.postedLeave c st) c
    (fun f => HeadStore f st e ∧ e.kind = .store b true whole rel wrote ∧ (∃ x ∈ b, x.1.far = true ∧ x.1 ∉ wrote) ∧ (f.strm st).clearOf e.seq b = true ∧
      (∀ sc, rel = some sc → (f.strm st).mayRelease e.seq sc = true) ∧ (f.strm st).refused = [])
    fun f u => (∃ ps, (u.strm st).posted = (f.strm st).posted ++ ps ∧ ps.length = e.far.length ∧
        ∀ (i : Nat) p r, ps[i]? = some p → e.far[i]? = some r →
          p.id = e.id ∧ p.seq = e.seq ∧ p.part = i ∧ p.lab = e.lab ∧ p.va = r.va ∧
          p.bytes = ((farBytes b).filter fun x => decide (r.pa ≤ x.1) && decide (x.1 < r.pa + r.len)) ∧ (p.released = true ↔ paClass r.pa = 3)) ∧
      u.mem = f.mem ∧ u.host = f.host ∧ u.peers = f.peers ∧ (u.strm st).refused = [] ∧
      if ∀ x ∈ b, x.1.far = true ∨ x.1 ∈ wrote then StoreGone u st e.id e.seq
      else ∃ x ∈ (u.strm st).sq, x.id = e.id ∧ x.seq = e.seq

/-- R207, R212: data with the empty label goes anywhere; with one origin it goes to that origin's function alone; with more it needs a policy, the matching one of lowest index, whose
remaining bytes it uses. -/
def Sys2Proof.Claims.ClassingDecidesByLabel : Prop :=
  ∀ (s : State) lab func first len graph, let r := s.classify lab func first len graph
    (lab = 0 → r = some s) ∧ (Label.count lab = 1 → r = if lab = s.funcLab func then some s else none) ∧
    (2 ≤ Label.count lab → (r = none ↔ ∀ p ∈ s.policies, p.releases s.tstep lab func first len graph = false)) ∧
    (2 ≤ Label.count lab → ∀ t, r = some t → ∃ p ∈ s.policies, p.releases s.tstep lab func first len graph = true ∧
      (∀ q ∈ s.policies, q.releases s.tstep lab func first len graph = true → p.idx ≤ q.idx) ∧
      t = { s with policies := s.policies.map fun q => if q.idx = p.idx then { q with remaining := q.remaining - len } else q })

/-- A posted write of a stream with its release at the hub, and the BASEHI of the window that it goes through (R207, R267); nothing else differs. -/
def Sys2Proof.Claims.releasedAt (f : State) (st : Stream) (p : Posted) (hi : Nat) : State :=
  f.modStrm st fun t => { t with posted := t.posted.map fun q => if q.seq = p.seq ∧ q.part = p.part then { q with released := true, basehi := hi } else q }
/-- A posted write is in the set no more. -/
def Sys2Proof.Claims.PostedGone (u : State) (st : Stream) (p : Posted) : Prop := ∀ q ∈ (u.strm st).posted, ¬(q.seq = p.seq ∧ q.part = p.part)

/-- EGRESS_WRITE (R207, R209, R267): a posted write that classing allows is released, with the BASEHI of its host window; one that it refuses, or whose window is not enabled, is dropped whole with record
0x0401 and the hub's note of its label, destination and length, and stays to be reported. Writes to peers are released as they are, and a released write or none changes nothing. -/
def Sys2Proof.Claims.EgressReleasesOrRefuses : Prop :=
  (∀ c st n p, AtCore (.egressWrite c st n) c (fun f => (f.strm st).posted[n]? = some p ∧ p.released = false ∧ paClass p.first ≠ 1)
    fun f u => u = releasedAt f st p 0) ∧
  (∀ c st n p s', AtCore (.egressWrite c st n) c
    (fun f => let w := f.hwinOf (winOf p.first)
      (f.strm st).posted[n]? = some p ∧ p.released = false ∧ paClass p.first = 1 ∧ w.en = true ∧
        f.classify p.lab w.func p.first p.bytes.length p.graph = some s')
    fun f u => u = releasedAt s' st p (f.hwinOf (winOf p.first)).basehi) ∧
  (∀ c st n p, AtCore (.egressWrite c st n) c
    (fun f => let w := f.hwinOf (winOf p.first)
      (f.strm st).posted[n]? = some p ∧ p.released = false ∧ paClass p.first = 1 ∧
        (w.en = false ∨ f.classify p.lab w.func p.first p.bytes.length p.graph = none))
    fun f u => PostedGone u st p ∧ (u.strm st).refused = insertRefused (p.seq, p.va) (f.strm st).refused ∧
      u.hubLog = f.hubLog ++ [(p.lab, p.first, p.bytes.length)] ∧ u.mem = f.mem ∧ u.host = f.host ∧ u.peers = f.peers ∧ u.policies = f.policies ∧
      Recorded f u 0x0401 1 f.core.func 0 (BitVec.ofNat 64 p.first) (BitVec.ofNat 64 p.bytes.length)) ∧
  ∀ c st n, AtCore (.egressWrite c st n) c (fun f => ∀ p, (f.strm st).posted[n]? = some p → p.released = true) fun f u => u = f

/-- POSTED_ARRIVAL (R170, R201, R206, R207, R208, R235, R266, R267): a released write lands at its far home once no older write of its stream to one of its bytes is on its way and no frame there is still to be zeroed: in host memory at its window's BASEHI; at another
module where its frames there allow the label; or, when the peer is the module itself, in device memory where the subset rule allows it, else it is dropped with record 0x0402. A write to the scheduler window acts there where it is of 8 aligned bytes, else it has no effect. Until then nothing happens. -/
def Sys2Proof.Claims.ReleasedWritesLand : Prop :=
  let Ready := fun (f : State) st (n : Nat) (p : Posted) => (f.strm st).posted[n]? = some p ∧ p.released = true ∧ (∀ b ∈ p.bytes, f.awaitsZero b.1 = false) ∧
    ∀ q ∈ (f.strm st).posted, q.seq < p.seq → ∀ b ∈ q.bytes, ∀ x ∈ p.bytes, x.1 ≠ b.1
  (∀ c st n p, AtCore (.postedArrival c st n) c (fun f => Sound f ∧ Ready f st n p ∧ paClass p.first = 1)
    fun f u => PostedGone u st p ∧ u.mem = f.mem ∧ u.peers = f.peers ∧
      ∀ a, memGet u.host a = written (p.bytes.map fun b => (p.basehi * 2 ^ 32 + b.1 % 2 ^ 32, b.2)) a (memGet f.host a)) ∧
  (∀ c st n p, AtCore (.postedArrival c st n) c (fun f => Sound f ∧ Ready f st n p ∧ paClass p.first = 2 ∧ f.ownPeer p.first = false)
    fun f u => PostedGone u st p ∧ u.mem = f.mem ∧ u.host = f.host ∧ ∀ a, peerGet u.peers a =
      if ∀ b ∈ p.bytes, Label.sub p.lab (f.peerLab b.1) = true then written p.bytes a (peerGet f.peers a) else peerGet f.peers a) ∧
  (∀ c st n p, AtCore (.postedArrival c st n) c
    (fun f => Sound f ∧ Ready f st n p ∧ paClass p.first = 2 ∧ f.ownPeer p.first = true ∧
      f.framesAllow p.lab (p.bytes.map fun b => peerPa b.1) = true)
    fun f u => PostedGone u st p ∧ u.host = f.host ∧ u.peers = f.peers ∧
      ∀ a, memGet u.mem a = written (p.bytes.map fun b => (peerPa b.1, b.2)) a (memGet f.mem a)) ∧
  (∀ c st n p, AtCore (.postedArrival c st n) c
    (fun f => Ready f st n p ∧ paClass p.first = 2 ∧ f.ownPeer p.first = true ∧ f.framesAllow p.lab (p.bytes.map fun b => peerPa b.1) = false)
    fun f u => PostedGone u st p ∧ u.mem = f.mem ∧ u.host = f.host ∧ u.peers = f.peers ∧
      Recorded f u 0x0402 1 0 0 (BitVec.ofNat 64 p.first) (BitVec.ofNat 64 p.bytes.length)) ∧
  (∀ c st n p, AtCore (.postedArrival c st n) c (fun f => Ready f st n p ∧ paClass p.first = 3)
    fun f u => PostedGone (f.dropPosted st p) st p ∧ u = if p.bytes.length = 8 ∧ p.first % 8 = 0 then
        (f.dropPosted st p).windowWrite (p.first % 2 ^ 50 / 65536) (p.first % 65536) (BitVec.ofNat 64 (leNat (p.bytes.map (·.2))))
      else f.dropPosted st p) ∧
  ∀ c st n, AtCore (.postedArrival c st n) c (fun f => ∀ p, ¬ Ready f st n p) fun f u => u = f

/-- INBOUND_WRITE (R206, R207, R208, R268, R269): bytes whose label every destination frame allows are written there; a frame of theirs that is still to be zeroed is zeroed first, and no other byte changes. Another write is dropped with record
0x0402; one of a function at an unassigned offset is answered Unsupported Request, and one of a function in the TDISP error state has no effect. BAR2_READ (R268, R269): data with the empty label or with the requesting function's own origin is returned, other data is refused
with Completer Abort, and an unassigned range or a function in the error state is an Unsupported Request. -/
def Sys2Proof.Claims.InboundRequestsAreClassed : Prop :=
  let Hit := fun (s : State) (pa n a : Nat) => (s.tagOf a).zeroing = true ∧ ∃ i < n, frameOf (pa + i) = frameOf a
  let Open := fun (s : State) (o : Origin) => ∀ f, o = .func f → s.tdiError f = false
  (∀ o pa bs, Serves (.inboundWrite o pa bs)
    (fun s => Sound s ∧ bs ≠ [] ∧ Open s o ∧ s.rangeOk pa bs.length = true ∧
      s.framesAllow (originLabel s o).1 ((List.range bs.length).map (pa + ·)) = true)
    fun s t => t.reply = s.reply ∧ ∀ a, (pa ≤ a ∧ a < pa + bs.length → memGet t.mem a = bs.getD (a - pa) 0) ∧
      (¬(pa ≤ a ∧ a < pa + bs.length) → (Hit s pa bs.length a → memGet t.mem a = 0) ∧ (¬ Hit s pa bs.length a → memGet t.mem a = memGet s.mem a))) ∧
  (∀ o pa bs, Serves (.inboundWrite o pa bs) (fun s => bs ≠ [] ∧ Open s o ∧ s.rangeOk pa bs.length = false)
    fun s t => t.mem = s.mem ∧ (∀ f, o = .func f → t.reply = .unsupported) ∧ ((∀ f, o ≠ .func f) → t.reply = s.reply) ∧
      Recorded s t 0x0402 1 (originLabel s o).2 0 (BitVec.ofNat 64 pa) (BitVec.ofNat 64 bs.length)) ∧
  (∀ o pa bs, Serves (.inboundWrite o pa bs)
    (fun s => bs ≠ [] ∧ Open s o ∧ s.rangeOk pa bs.length = true ∧ s.framesAllow (originLabel s o).1 ((List.range bs.length).map (pa + ·)) = false)
    fun s t => t.mem = s.mem ∧ t.reply = s.reply ∧ Recorded s t 0x0402 1 (originLabel s o).2 0 (BitVec.ofNat 64 pa) (BitVec.ofNat 64 bs.length)) ∧
  (∀ o pa bs, Serves (.inboundWrite o pa bs) (fun s => bs = [] ∨ ¬ Open s o) fun s t => t = s) ∧
  (∀ func off len, Serves (.bar2Read func off len) (fun s => s.tdiError func = false ∧ 0 < len ∧ s.rangeOk off len = true)
    fun s t => let z := s.zeroFirst off len
      let lab := Label.joins (((List.range len).map fun i => frameOf (off + i)).dedup.map fun f => z.frameLab (4096 * f))
      t = { z with reply := t.reply } ∧
      (lab = 0 ∨ Label.count lab = 1 ∧ lab = s.funcLab func → t.reply = .data (memBytes z.mem off len)) ∧
      (¬(lab = 0 ∨ Label.count lab = 1 ∧ lab = s.funcLab func) → t.reply = .completerAbort)) ∧
  ∀ func off len, Serves (.bar2Read func off len) (fun s => s.rangeOk off len = false ∨ s.tdiError func = true ∨ len = 0)
    fun s t => t = { (if s.rangeOk off len then s.zeroFirst off len else s) with reply := .unsupported }

/-- Writes that leave the module and writes that arrive. -/
def Obligations.WritesAreClassedAndLand : Prop :=
  FarStoresArePosted ∧ ClassingDecidesByLabel ∧ EgressReleasesOrRefuses ∧ ReleasedWritesLand ∧ InboundRequestsAreClassed

/-! ### Copies, translations, ring messages, accumulators -/

/-- COPY_DISCARD (R168): a line leaves a core's L1, or a die's remote-data cache, and nothing else changes. PREFETCH_FILL (R162, R166, R292): a line asked for enters the L1 as it stands at its home, and the remote-data
cache of the die if it is homed on another; not where a store stands half done across it. -/
def Sys2Proof.Claims.CopiesComeAndGo : Prop :=
  (∀ unit line (s : State), ∃ t, exec (.copyDiscard true unit line) s = .next t ∧ t = { s with rdc := t.rdc } ∧
    ∀ e, e ∈ t.rdc ↔ e ∈ s.rdc ∧ ¬(e.1 = unit ∧ e.2.line = line)) ∧
  (∀ unit line (s : State), (s.coreOf unit).id = unit → ∃ t, exec (.copyDiscard false unit line) s = .next t ∧ t.mem = s.mem ∧ t.rdc = s.rdc ∧
    t.coreOf unit = { s.coreOf unit with l1 := (s.coreOf unit).l1.filter fun c => c.line != line } ∧
    ∀ o, o ≠ unit → t.coreOf o = s.coreOf o) ∧
  (∀ c line (s : State), let f := s.focus c
    f.core.pref.contains line = true → ∃ u : State, exec (.prefetchFill c line) s = .next (u.focus s.core.id) ∧ line ∉ u.core.pref ∧ u.mem = f.mem ∧
      let x : Copy := ⟨line, memBytes f.mem (line * 64) 64, f.poison.contains line⟩
      (f.lineTorn line = false → u.core.l1.head? = some x ∧ (homeDie (line * 64) ≠ coreDie f.core.id → u.rdc.head? = some (coreDie f.core.id, x))) ∧
      (f.lineTorn line = true ∨ homeDie (line * 64) = coreDie f.core.id → u.rdc = f.rdc) ∧ (f.lineTorn line = true → u.core.l1 = f.core.l1))

/-- AD_UPDATE (R186, R188): hardware's update of an entry's A and D bits is that of a translation, which changes memory, cached translations and the copies of the entry's line alone; an uncorrectable entry is the hub's to report, and a fault changes
nothing. -/
def Sys2Proof.Claims.AdUpdatesTouchTablesAlone : Prop :=
  (∀ c p va k s' pa pol, AtCore (.adUpdate c p va k) c (fun f => f.translate p va k = .ok (s', pa, pol)) fun _ u => u = s') ∧
  (∀ c p va k pa, AtCore (.adUpdate c p va k) c (fun f => f.translate p va k = .error (.poisoned pa)) fun f u => u = f.ptePoison pa) ∧
  (∀ c p va k x, AtCore (.adUpdate c p va k) c (fun f => f.translate p va k = .error (.fault x)) fun f u => u = f) ∧
  ∀ (f : State) p va k s' pa pol, f.translate p va k = .ok (s', pa, pol) →
    s' = { f with
      mem := s'.mem, dtlb := s'.dtlb, rdc := s'.rdc
      core := { f.core with l1 := s'.core.l1, utlb := s'.core.utlb, l2tlb := s'.core.l2tlb, walks := s'.core.walks } }

/-- RING_PUBLISH_MESSAGE and RING_CREDIT_MESSAGE (R24, R150, R176): the oldest publish of an export ring raises the importer's filled count, its oldest release the exporter's freed count, by the slots it names; a publish waits until
the importer counts its slots as claimed. -/
def Sys2Proof.Claims.RingMessagesReachThePeer : Prop :=
  (∀ c r id n lab rest p,
    let Due := fun (f : State) => let g := f.core.ring r.val
      g.publishes = (id, n, lab) :: rest ∧ f.launchCore g.peerCore = some p ∧ p ≠ f.core.id ∧ (f.coreOf p).id = p
    let May := fun (f : State) => ((f.coreOf p).ring (f.core.ring r.val).peerRing).mayPublish n
    AtCore (.ringPublishMessage c r) c (fun f => Due f ∧ May f = true)
      (fun f u => let g := f.core.ring r.val
        ((u.coreOf p).ring g.peerRing).filled = ((f.coreOf p).ring g.peerRing).filled + BitVec.ofNat 32 n ∧
        (u.core.ring r.val).filled = g.filled + BitVec.ofNat 32 n ∧ (u.core.ring r.val).publishes = rest) ∧
    AtCore (.ringPublishMessage c r) c (fun f => Due f ∧ May f = false) fun f u => u = f) ∧
  (∀ c r n rest p, AtCore (.ringCreditMessage c r) c
    (fun f => let g := f.core.ring r.val
      g.credits = n :: rest ∧ f.launchCore g.peerCore = some p ∧ p ≠ f.core.id ∧ (f.coreOf p).id = p)
    fun f u => let g := f.core.ring r.val
      ((u.coreOf p).ring g.peerRing).freed = ((f.coreOf p).ring g.peerRing).freed + BitVec.ofNat 32 n ∧ (u.core.ring r.val).credits = rest)

/-- DACC_ENTRY_PERFORM (R86, R177, R310): an entry whose checks pass opens a region of zeros, adds to its word, reads its word rounded, or closes its region; one that fails a check takes that trap, with TVAL its address. -/
def Sys2Proof.Claims.DaccEntriesPerform : Prop :=
  let Ready := fun (f : State) (r : DaccReq) => f.core.dacc = some r ∧ f.core.c.daccReady r = true
  (∀ c r d, AtCore (.daccEntryPerform c) c (fun f => Ready f r ∧ r.op = .open_ d ∧ f.daccCheck r = none)
    fun f u => u.core.dacc = none ∧ u.mem = f.mem ∧
      u.regions = ⟨(BitVec.ofNat 10 d.toNat).toInt, r.pas.map fun p => (p, Acc256.zero)⟩ :: f.regions) ∧
  (∀ c r v scaled, AtCore (.daccEntryPerform c) c (fun f => Ready f r ∧ r.op = .add v scaled ∧ f.daccCheck r = none)
    fun f u => let sc := if scaled then (scaleExp (BitVec.ofNat 32 (v.toNat / 2 ^ 32))).getD 0 else 0
      u.core.dacc = none ∧ u.mem = f.mem ∧ u.regions = f.regions.map fun (g : Region) =>
        { g with words := g.words.map fun w => if w.1 = r.pas.headD 0 then (w.1, addContribution w.2 (v.setWidth 32) sc g.e) else w }) ∧
  (∀ c r d, AtCore (.daccEntryPerform c) c
    (fun f => Ready f r ∧ r.op = .read d ∧ f.daccCheck r = none ∧
      f.canIntern (Label.join r.lab (r.tag.getD (f.frameLab (r.pas.headD 0)))) = true)
    fun f u => let w := f.wordAt (r.pas.headD 0)
      u.core.dacc = none ∧ u.mem = f.mem ∧ u.regions = f.regions ∧
      u.core.readX d = if d = 0 then ⟨0, 0⟩ else ⟨w.1.readout w.2, Label.join r.lab (r.tag.getD (f.frameLab (r.pas.headD 0)))⟩) ∧
  (∀ c r (g : Region), AtCore (.daccEntryPerform c) c
    (fun f => Sound f ∧ Ready f r ∧ r.op = .close ∧ f.daccCheck r = none ∧ f.regionAt (r.pas.headD 0) = some g ∧
      (∀ w ∈ g.words, ∀ i < 4, paClass (w.1 + i) = 0))
    fun f u => let bs := g.words.flatMap fun w => ((List.range 4).map fun i => w.1 + i).zip (natLe 4 (w.2.rounded g.e).toNat)
      u.core.dacc = none ∧ (∀ a, memGet u.mem a = written bs a (memGet f.mem a)) ∧
      u.regions = f.regions.filter fun h => (h.words.head?.map (·.1)) != some (r.pas.headD 0)) ∧
  (∀ c r x, AtCore (.daccEntryPerform c) c (fun f => Ready f r ∧ f.daccCheck r = some x)
    fun f u => let b := State.unissue { f with core := { f.core with dacc := none } } .c r.id
      u = b.trapAt .c x r.va (b.pc .c) r.lab false)

/-- Copies, translations, ring messages, accumulators. -/
def Obligations.CopiesMessagesAndAccumulators : Prop :=
  CopiesComeAndGo ∧ AdUpdatesTouchTablesAlone ∧ RingMessagesReachThePeer ∧ DaccEntriesPerform

/-! ### The array -/

/-- The state from which the tile of command `cm` starts: its MGO has come into progress and NSTCUR names the tile (R116, R330). -/
def Sys2Proof.Claims.startOf (f : State) (cm : Cmd) : State :=
  match cm.cmd with
  | .mgo ns .. => f.loadMgo.setNst ns cm.tile
  | _ => f.loadMgo
/-- The next tile is that of `cm`: nothing runs, and every drain has made its checks (R324, R325). -/
abbrev Sys2Proof.Claims.NextTile (f : State) (cm : Cmd) : Prop :=
  f.core.run = none ∧ (∀ d ∈ f.core.drains, d.began = true) ∧ (∀ d ∈ f.loadMgo.core.drains, d.began = true) ∧ f.loadMgo.core.nextCmd = some cm
/-- Its checks have passed, no drain reads its plane, and its format word is `w` (R119, R126, R325). -/
abbrev Sys2Proof.Claims.TileReady (f : State) (cm : Cmd) (w : LW) : Prop :=
  let g := startOf f cm
  let t := g.tileFor cm
  NextTile f cm ∧ g.tileCheck cm t = none ∧ (∀ d ∈ g.core.drains, d.plane ≠ t.plane) ∧
    (match cm.again with | some a => some (⟨a.fmt, a.lab⟩ : LW) | none => g.core.headWord) = some w
/-- The slots that a tile takes are filled (R117). -/
abbrev Sys2Proof.Claims.SlotsThere (f : State) (r : Run) : Prop :=
  ∀ x ∈ r.fresh (r.wants f.core), x.2.2 < (f.core.ring x.2.1).freed.toNat + (f.core.ring x.2.1).ready
/-- The plane of a tile starts (R110, R129, R332): it takes the tile's shape and output format, is dirty, has no final row, is zero where Z is set and no counts go on, and takes the label of the tile; the other plane may come to hold ring slots that this
one let go, and nothing else of it changes. The tile counts from its entry on, up to its first failing element. -/
def Sys2Proof.Claims.PlaneStarts (f : State) (r : Run) (u : State) : Prop :=
  let p := r.t.plane
  let ws := r.wants f.core
  let x := r.firstFault r.entered
  let old := f.core.plane p
  let o := u.core.plane p
  let slab := Label.joins (ws.map fun x => (f.core.ring x.2.1).slotLabel x.2.2)
  u.core.run = some { r with
    slots := ws, began := true, due := x, stopA := r.stops r.entered 0 r.t.m x, stopB := r.stops r.entered 1 r.t.n x } ∧
  o.acc = (if r.t.z ∧ (r.cmd.again.bind (·.counts)) = none then Vector.replicate 12288 0 else old.acc) ∧ o.wm = 0 ∧ o.dirty = true ∧ o.fin = none ∧
  o.m = r.t.m ∧ o.n = r.t.n ∧ o.int = (mClass (fwA r.fmt) == 2) ∧ o.oty = fwOty r.fmt ∧ o.ornd = fwOrnd r.fmt ∧ o.osat = fwOsat r.fmt ∧
  o.lab = Label.joins [if r.t.z ∧ r.cmd.again = none then 0 else old.lab, Label.join (f.clab .m) slab, r.cmd.lab, r.lab, r.t.lab, slab] ∧
  ∃ l, u.core.plane (!p) = { f.core.plane (!p) with held := (f.core.plane (!p)).held ++ l }

/-- TILE_START (R110, R116, R117, R119, R126, R325, R330, R332): the tile of the next command makes its checks and traps where one fails, or where the format queue is empty, with cause 0x0030; it waits while a drain reads its plane. Else it pops its format word and fetches
its operands, and its plane starts as soon as the ring slots that it takes are filled; until then the tile waits with the planes as they were. -/
def Sys2Proof.Claims.TilesStart : Prop :=
  (∀ c cm x, AtCore (.tileStart c) c (fun f => NextTile f cm ∧ (startOf f cm).tileCheck cm ((startOf f cm).tileFor cm) = some x)
    fun f u => u = (startOf f cm).tileTrap cm false x.1 x.2 ((startOf f cm).tileFor cm).lab) ∧
  (∀ c cm, AtCore (.tileStart c) c
    (fun f => let g := startOf f cm
      NextTile f cm ∧ g.tileCheck cm (g.tileFor cm) = none ∧ (∀ d ∈ g.core.drains, d.plane ≠ (g.tileFor cm).plane) ∧ cm.again = none ∧
        g.core.headWord = none)
    fun f u => u = (startOf f cm).tileTrap cm false 0x30 0 ((startOf f cm).tileFor cm).lab) ∧
  (∀ c cm w x, AtCore (.tileStart c) c
    (fun f => TileReady f cm w ∧ (startOf f cm).core.tileFault ((startOf f cm).tileFor cm) w.val = some x)
    fun f u => u = (startOf f cm).tileTrap cm false x.1 x.2 (Label.join ((startOf f cm).tileFor cm).lab w.lab)) ∧
  (∀ c cm w s1 ops lab,
    let Fetched := fun (f : State) => let g := startOf f cm
      TileReady f cm w ∧ g.core.tileFault (g.tileFor cm) w.val = none ∧
      g.fetchOps cm.id (g.keptRows cm w.val) (opShapes (g.tileFor cm) w.val) w.lab = .ok (s1, ops, lab)
    let Consumed := fun (f u : State) => let g := startOf f cm
      u.core.fifo = (s1.consume cm).core.fifo ∧ u.core.mgo = (s1.consume cm).core.mgo ∧
        (if cm.again.isSome then u.core.fmtq = g.core.fmtq ∧ u.core.popped = g.core.popped
          else u.core.fmtq = g.core.popWord.fmtq ∧ u.core.popped = none)
    let run := fun (f : State) => newRun cm ((startOf f cm).tileFor cm) w ops lab
    AtCore (.tileStart c) c (fun f => Fetched f ∧ SlotsThere s1 (run f) ∧ s1.labels.length + 2 < 4096)
      (fun f u => PlaneStarts s1 (run f) u ∧ Consumed f u) ∧
    AtCore (.tileStart c) c (fun f => Fetched f ∧ ¬SlotsThere s1 (run f))
      fun f u => u.core.run = some (run f) ∧ Consumed f u ∧ ∀ p, u.core.plane p = f.core.plane p) ∧
  (∀ c cm w pa, AtCore (.tileStart c) c
    (fun f => let g := startOf f cm
      TileReady f cm w ∧ g.core.tileFault (g.tileFor cm) w.val = none ∧
        g.fetchOps cm.id (g.keptRows cm w.val) (opShapes (g.tileFor cm) w.val) w.lab = .error pa)
    fun f u => u = (startOf f cm).ptePoison pa) ∧
  (∀ c r, AtCore (.tileStart c) c (fun f => f.core.run = some r ∧ r.began = false ∧ SlotsThere f r ∧ f.labels.length + 2 < 4096)
    fun f u => PlaneStarts f r u) ∧
  (∀ c r, AtCore (.tileStart c) c (fun f => f.core.run = some r ∧ (r.began = true ∨ ¬SlotsThere f r)) fun f u => u = f) ∧
  (∀ c cm, AtCore (.tileStart c) c
    (fun f => let g := startOf f cm
      NextTile f cm ∧ g.tileCheck cm (g.tileFor cm) = none ∧ ∃ d ∈ g.core.drains, d.plane = (g.tileFor cm).plane)
    fun f u => u = startOf f cm) ∧
  (∀ c, AtCore (.tileStart c) c (fun f => f.core.run = none ∧ ∃ d ∈ f.core.drains, d.began = false) fun f u => u = f) ∧
  ∀ c, AtCore (.tileStart c) c
    (fun f => f.core.run = none ∧ (∀ d ∈ f.core.drains, d.began = true) ∧
      ((∃ d ∈ f.loadMgo.core.drains, d.began = false) ∨ f.loadMgo.core.nextCmd = none))
    fun f u => u = f.loadMgo

/-- TILE_STEP (R82, R83, R107, R122, R130, R256): a row of a finished tile becomes final, or the tile that runs enters its next step, in which every cell that the step reaches takes in its product; with its last step the tile is
done, its rows become final from then on, and its drain follows. It waits for an element that has not come, stands where a fault has stopped its edges, and an uncorrectable element is an error of the array. An integer cell adds the product of
its two elements; a cell of a floating format of one k to a step adds the exact product and rounds once. -/
def Sys2Proof.Claims.TilesStep : Prop :=
  (∀ c id p, AtCore (.tileStep c) c (fun f => (f.core.plane p).fin = some id ∧ (p = true → f.core.plane0.fin = none))
    fun f u => let o := f.core.plane p
      let wm := if o.wm + 1 < o.m then o.wm + 1 else 96
      u.core.plane p = { o with wm := wm, fin := if wm = 96 then none else some id } ∧ u.core.plane (!p) = f.core.plane (!p) ∧
      u.core.run = f.core.run ∧ u.core.drains = f.core.drains) ∧
  (∀ c r,
    let Runs := fun (f : State) => f.core.plane0.fin = none ∧ f.core.plane1.fin = none ∧ f.core.run = some r ∧ r.began = true
    let done := r.due = none ∧ r.q ≤ r.entered
    AtCore (.tileStep c) c
      (fun f => Runs f ∧ ¬done ∧ r.entered < r.limit ∧ ∀ v ∈ r.entering r.entered, v ≠ .wait ∧ ∀ va, v ≠ .bad va)
      (fun f u => let p := r.t.plane
        let x := r.perform r.entered (f.core.plane p).acc
        let r' : Run := { r with entered := r.entered + 1 }
        let last := r.due = none ∧ r.q ≤ r.entered + 1
        u.core.plane p = { f.core.plane p with acc := x.1, fin := if last then some r.cmd.id else none } ∧
        u.core.plane (!p) = f.core.plane (!p) ∧ u.core.run = (if last then none else some r') ∧
        u.core.drains = f.core.drains ++ (if last then (drainOf r.cmd r.t).toList else []) ∧
        u.core.csr.skipspec = (f.core.csr.skipspec || x.2)) ∧
    AtCore (.tileStep c) c (fun f => Runs f ∧ done) (fun f u => u.core.run = none ∧
      (u.core.plane r.t.plane) = { f.core.plane r.t.plane with fin := some r.cmd.id } ∧
      u.core.drains = f.core.drains ++ (drainOf r.cmd r.t).toList) ∧
    AtCore (.tileStep c) c
      (fun f => Runs f ∧ ¬done ∧ (r.limit ≤ r.entered ∨ OpVal.wait ∈ r.entering r.entered)) (fun f u => u = f) ∧
    ∀ va, AtCore (.tileStep c) c
      (fun f => Runs f ∧ ¬done ∧ r.entered < r.limit ∧ OpVal.wait ∉ r.entering r.entered ∧
        ((r.entering r.entered).findSome? fun v => match v with | .bad va => some va | _ => none) = some va)
      fun f u => u = f.matrixError r va) ∧
  (∀ c r, AtCore (.tileStep c) c
    (fun f => f.core.plane0.fin = none ∧ f.core.plane1.fin = none ∧ (f.core.run = none ∨ f.core.run = some r ∧ r.began = false)) fun f u => u = f) ∧
  (∀ (r : Run) q acc i j, i < r.t.m → j < r.t.n → r.t.m ≤ 96 → r.t.n ≤ 128 →
    (r.perform q acc).1[Fin.ofNat 12288 (128 * i + j)] =
      if r.prev i j ≤ q ∧ q < r.stop i j then (r.cell i j q acc[Fin.ofNat 12288 (128 * i + j)]).1 else acc[Fin.ofNat 12288 (128 * i + j)]) ∧
  (∀ (r : Run) i j q (acc : W32), mClass (fwA r.fmt) = 2 → r.t.sparse = none →
    (r.cell i j q acc).1 =
      BitVec.ofInt 32 (acc.toInt + mInt (fwA r.fmt) (r.aElem i q).get * mInt (fwB r.fmt) (r.bElem q j).get)) ∧
  ∀ (r : Run) i j q (acc : W32), mClass (fwA r.fmt) ≤ 1 → r.t.sparse = none →
    (r.cell i j q acc).1 =
      round32 (FV.sum [v32 acc, FV.mul (mValue (fwA r.fmt) (r.aElem i q).get) (mValue (fwB r.fmt) (r.bElem q j).get)])

/-- DRAIN_ROW (R122, R125, R176, R192, R329, R331): the oldest drain makes its checks, by which it claims its ring slot or translates its rows, traps at its command, an MGO stopping with the drain pending, or waits for room; then each row that is final
puts its converted bytes into the M-stream's store queue, at the place of the row in the slot or in memory; with the last row the slot is published, the plane is clean and its output tile retires. A row that is not final yet is not read. An MDRAIN
of a plane that no tile has written retires at once. -/
def Sys2Proof.Claims.DrainsReadFinalRows : Prop :=
  (∀ c d ds,
    let Row := fun (f : State) => f.core.drains = d :: ds ∧ d.began = true ∧ d.row < (f.core.plane d.plane).wm
    let Moves := fun (f u : State) => let o := f.core.plane d.plane
      if d.row + 1 < o.m then u.core.drains = { d with row := d.row + 1 } :: ds ∧ ∀ p, u.core.plane p = f.core.plane p
      else u.core.drains = ds ∧ (u.core.plane d.plane).dirty = false ∧ (u.core.plane d.plane).win = [] ∧ (u.core.plane d.plane).acc = o.acc
    (∀ g, AtCore (.drainRow c) c (fun f => Row f ∧ d.dst = .ring g)
      fun f u => let o := f.core.plane d.plane
        let bs := o.rowBytes d.row
        let rg := f.core.ring g
        (∃ e ∈ u.core.m.sq, e.id = d.id ∧ e.lab = d.lab ∧ e.kind = .store
          (((List.range bs.length).map fun i => Loc.scr (f.ringCore rg) (rg.slotAddr d.slot + d.row * roundUp bs.length 64 + i)).zip bs)
          true false none [] ∧ e.pub = if d.row + 1 < o.m then none else some (g, d.slot, 1)) ∧ Moves f u) ∧
    ∀ base ld nl, AtCore (.drainRow c) c (fun f => Row f ∧ d.dst = .mem base ld nl)
      fun f u => let rs := d.rows.getD d.row []
        (∃ e ∈ u.core.m.sq, e.id = d.id ∧ e.lab = d.lab ∧ e.pub = none ∧ e.kind = .store
          ((rs.flatMap fun r => (List.range r.len).map fun i => Loc.mem (r.pa + i)).zip ((f.core.plane d.plane).rowBytes d.row)) true false none [] ∧
          ((∀ r ∈ rs, paClass r.pa = 0) → e.far = [])) ∧ Moves f u) ∧
  (∀ c d ds, AtCore (.drainRow c) c (fun f => f.core.drains = d :: ds ∧ d.began = true ∧ (f.core.plane d.plane).wm ≤ d.row) fun f u => u = f) ∧
  (∀ c d ds,
    let New := fun (f : State) => f.core.drains = d :: ds ∧ d.began = false
    (∀ s1 d', AtCore (.drainRow c) c (fun f => New f ∧ f.beginDrain d = .ok (s1, d'))
      fun _ u => u = s1.modCore fun k => { k with drains := d' :: k.drains.drop 1 }) ∧
    (∀ x v l, AtCore (.drainRow c) c (fun f => New f ∧ f.beginDrain d = .error (.trap x v l))
      fun f u => u = (match d.tile with
        | some (ns, t) => f.modCore fun k => { k with stopAt := some (ns, t, true) }
        | none => f).arrayTrap d.id d.pc x v l) ∧
    (∀ pa, AtCore (.drainRow c) c (fun f => New f ∧ f.beginDrain d = .error (.viral pa)) fun f u => u = f.ptePoison pa) ∧
    AtCore (.drainRow c) c (fun f => New f ∧ f.beginDrain d = .error .stall) fun f u => u = f) ∧
  (∀ (f : State) d g, d.dst = .ring g → let rg := f.core.ring g
    let o := f.core.plane d.plane
    let lab := Label.join o.lab (f.clab .m)
    rg.claimable = true → o.m * roundUp (o.n * o.oty.bytes) 64 ≤ rg.slotSize → f.bindingOk g = true → f.publishOk g rg.claimed.toNat 1 lab = true →
    rg.used < rg.count → f.canIntern lab = true → (rg.mode = 2 → f.launchCore rg.peerCore ≠ some f.core.id) → ∃ s1, f.beginDrain d = .ok (s1, { d with began := true, slot := rg.claimed.toNat, lab := lab }) ∧
      (s1.core.ring g).claimed = rg.claimed + 1) ∧
  ∀ c cm rest p dst, AtCore (.drainRow c) c
    (fun f => f.core.drains = [] ∧ f.core.mgo = none ∧ f.core.run = none ∧ f.core.fifo = cm :: rest ∧ cm.cmd = .drain p dst)
    fun f u => let g := f.modCore fun k => { k with fifo := rest }
      let d : Drain := ⟨cm.id, cm.pc, none, p, dst, false, 0, [], 0, 0⟩
      u = if (f.core.plane p).m = 0 then g.settleWord .m cm.id else (g.modCore fun k => { k with drains := [d] }).tryDrain d

/-- RAGGED_WELT (R118, R129, R135, R136, R141, R143): when the edges of a faulting tile have stopped, its image goes to the save area, the array is empty, the plane is zero, and WELTSTAT tells of it; a save area that may not be written makes the cut a lost one, whose
trap is that of the save area. Once the image has been performed the M-stream takes the trap; until then it waits. -/
def Sys2Proof.Claims.FaultingTilesAreCut : Prop :=
  (∀ c r x,
    let Cut := fun (f : State) => f.core.ragged = none ∧ f.core.run = some r ∧ r.due = some x ∧ r.began = true ∧ r.limit ≤ r.entered
    let mark := fun (f : State) => f.modCore fun k => k.setRowProg r true
    let image := fun (f : State) => (mark f).weltOf r true (some x)
    let save := fun (f : State) => (mark f).imagePieces (Label.join (image f).plab (image f).xlab) (pageRuns r.t.save.toNat (weltSize r.t.m r.t.n))
    let Empty := fun (f u : State) (lost : Bool) (cause : Nat) (va : W64) =>
      u.core.ragged = some ⟨r.cmd.id, cause, va, Label.joins [f.core.cmdLab r.cmd, r.flab, r.lab]⟩ ∧ u.core.run = none ∧ u.core.fifo = [] ∧
      u.core.mgo = none ∧ u.core.fmtq = [] ∧ u.core.csr.mrowprog = r.rowProg true ∧ u.core.csr.weltstat = (image f).stat lost ∧
      (u.core.plane r.t.plane).acc = Vector.replicate 12288 0 ∧ u.core.m.blocked = some r.cmd.id
    (∀ s1 ps, AtCore (.raggedWelt c) c (fun f => Cut f ∧ save f = .ok (s1, ps)) fun f u => Empty f u false x.cause x.va) ∧
    (∀ cause va l, AtCore (.raggedWelt c) c (fun f => Cut f ∧ save f = .error (.trap cause va l)) fun f u => Empty f u true cause va)) ∧
  (∀ c r, AtCore (.raggedWelt c) c
    (fun f => f.core.ragged = none ∧ (f.core.run = none ∨ f.core.run = some r ∧ (r.due = none ∨ r.began = false ∨ r.entered < r.limit))) fun f u => u = f) ∧
  ∀ c w, let out := fun (f : State) => State.settleWord (f.modCore fun k => { k with ragged := none }) .m w.id
    let Open := fun (f : State) => State.wordOpen (f.modCore fun k => { k with ragged := none }) .m w.id
    AtCore (.raggedWelt c) c (fun f => f.core.ragged = some w ∧ Open f = false ∧ (out f).core.m.infl = [])
      (fun f u => u = ((out f).modCore fun k => { k with m := { k.m with blocked := none } }).trapAt .m w.cause w.va ((out f).pc .m) w.lab false) ∧
    AtCore (.raggedWelt c) c (fun f => f.core.ragged = some w ∧ (Open f = true ∨ (out f).core.m.infl ≠ [])) fun f u => u = f

/-- MATRIX_REPLAY (R140, R254, R256, R257): an error in the running tile's operands zeroes its plane and puts the commands of the window before the FIFO, from the replay point on, with record 0x0107; the plane goes on from the image or context that the window's
first tile was resumed from. When the window has been replayed already, is empty, or begins at no replay point, it is the machine check, cause 0x0015, at that command, with record 0x0108 and the plane clean. Each names the address of the first element that
the tile would have entered, 0 for a ring or the scratchpad. -/
def Sys2Proof.Claims.TilesReplayOrCheck : Prop :=
  let Hit := fun (f : State) (r : Run) (ks : List Kept) => f.core.run = some r ∧ r.began = true ∧ (f.core.plane r.t.plane).win = ks
  let Replays := fun (f u : State) (r : Run) (win : List Kept) (counts : Option (Nat × List Nat)) => let o := u.core.plane r.t.plane
    o.wm = 0 ∧ o.used = true ∧ u.core.run = none ∧ u.core.fifo = redoCmds win counts ++ f.core.fifo ∧
      Recorded f u 0x0107 0 f.core.func 0 f.core.csr.nstcur r.entryVa
  (∀ c r k ks, AtCore (.matrixReplay c) c
    (fun f => Hit f r (k :: ks) ∧ (f.core.plane r.t.plane).used = false ∧ k.image = none ∧ k.ctx = none ∧ k.point = true)
    fun f u => let o := u.core.plane r.t.plane
      Replays f u r (k :: ks) none ∧ o.acc = Vector.replicate 12288 0 ∧ o.lab = (f.core.plane r.t.plane).lab) ∧
  (∀ c r k ks x, AtCore (.matrixReplay c) c
    (fun f => Hit f r (k :: ks) ∧ (f.core.plane r.t.plane).used = false ∧ k.image = none ∧ k.ctx = some x)
    fun f u => let o := u.core.plane r.t.plane
      Replays f u r (k :: ks) (some x.2) ∧ o.acc = x.1 ∧ o.lab = (f.core.plane r.t.plane).lab) ∧
  (∀ c r k ks sv s1 hd l s2 bs lab, AtCore (.matrixReplay c) c
    (fun f => Hit f r (k :: ks) ∧ (f.core.plane r.t.plane).used = false ∧ k.image = some sv ∧ f.readImage 0 sv 0x800 = .ok (s1, hd, l) ∧
      weltHeadOk hd = true ∧ s1.readImage 0 sv (weltSize (fieldAt hd 6 1) (fieldAt hd 7 1)) = .ok (s2, bs, lab) ∧ (Welt.read bs).mapOk = true)
    fun f u => let w := Welt.read bs
      let o := u.core.plane r.t.plane
      Replays f u r (k :: ks) (some (w.kr, w.map)) ∧ o.acc = ((f.core.plane r.t.plane).zeroed.inject w).acc ∧
        o.lab = Label.join (f.core.plane r.t.plane).lab lab) ∧
  (∀ c r ks, AtCore (.matrixReplay c) c
    (fun f => let o := f.core.plane r.t.plane
      Hit f r ks ∧ (ks = [] ∨ o.used = true ∨ ∃ k, ks.head? = some k ∧ k.image = none ∧ k.ctx = none ∧ k.point = false))
    fun f u => let o := u.core.plane r.t.plane
      o.acc = Vector.replicate 12288 0 ∧ o.dirty = false ∧ u.core.run = none ∧ u.core.m.bank.cause = 0x0015 ∧ u.core.m.bank.tval = r.entryVa ∧
      u.core.m.bank.epc = ((ks.head?.map (·.cmd)).getD r.cmd).pc ∧ u.core.m.stop.stopped = true ∧
      Recorded f u 0x0108 1 f.core.func 0 f.core.csr.nstcur r.entryVa) ∧
  ∀ c r, AtCore (.matrixReplay c) c (fun f => f.core.run = none ∨ f.core.run = some r ∧ r.began = false) fun f u => u = f

/-- The steps of the array. -/
def Obligations.ArrayStepsRunTiles : Prop :=
  TilesStart ∧ TilesStep ∧ DrainsReadFinalRows ∧ FaultingTilesAreCut ∧ TilesReplayOrCheck

/-! ### Laced transactions and the beat -/

/-- LACE_SUBMISSION (R223): a submission is accepted into the batch of its beat while that is open and has room; without room target 0 moves to the next beat, and another target is the lace-state fault, which leaves the slot DECLARING. -/
def Sys2Proof.Claims.SubmissionsEnterTheirBatch : Prop :=
  (∀ c n b, AtCore (.laceSubmission c) c
    (fun f => f.core.lace.sub = .sent n b ∧ f.tstep ≤ b ∧ (f.batchOf (coreDie f.core.id) b).length < 64)
    fun f u => u.core.lace = { f.core.lace with sub := .accepted b, beat := b } ∧
      u.batches = f.batches ++ [⟨coreDie f.core.id, b, f.core.laceKey, f.core.id, f.core.lace.tiles.map (·.pa), none, false⟩]) ∧
  (∀ c b, AtCore (.laceSubmission c) c
    (fun f => f.core.lace.sub = .sent 0 b ∧ (b < f.tstep ∨ 64 ≤ (f.batchOf (coreDie f.core.id) b).length))
    fun f u => u.core.lace = { f.core.lace with sub := .sent 0 (b + 1), beat := b + 1 } ∧ u.batches = f.batches) ∧
  (∀ c n b, AtCore (.laceSubmission c) c
    (fun f => f.core.lace.sub = .sent n b ∧ n ≠ 0 ∧ (b < f.tstep ∨ 64 ≤ (f.batchOf (coreDie f.core.id) b).length) ∧
      f.core.csr.nest = false ∧ f.core.csr.tvec ≠ 0)
    fun f u => u.core.lace.st = f.core.lace.st ∧ u.core.lace.tiles = f.core.lace.tiles ∧ u.core.c.bank.cause = 0x0028 ∧
      u.core.c.bank.tval = BitVec.ofNat 64 n ∧ u.core.c.pc = f.core.csr.tvec ∧ u.core.csr.nest = true ∧ u.batches = f.batches)

/-- The open submissions of the beat that closes. -/
def Sys2Proof.Claims.openNow (s : State) : List LaceTx := s.batches.filter fun x => x.beat == s.tstep && x.num.isNone
/-- The number of a submission as its batch closes (R222, R223). -/
def Sys2Proof.Claims.closeNum (s : State) (x : LaceTx) : W64 := laceNum s.tstep x.die (slotIn (s.batchOf x.die s.tstep) x)
/-- What the close of a beat leaves (R220, R221, R222, R223, R224, R229, R243): TSTEP is one more; where no task at a pre-emption's safe point has a submission to withdraw, the open batches of the beat are numbered in the order of their keys, and one core's LCSUB that
is open alone writes its number and its slot is SUBMITTED, where no kernel is in deterministic mode; where no submission is open, every partition has paid. -/
def Sys2Proof.Claims.BeatCloses (s t : State) : Prop :=
  t.tstep = s.tstep + 1 ∧ t.beatClk = 0 ∧ t.charged = [] ∧ t.chunks = [] ∧ t.sentTo = s.sentTo.filter (fun x => decide (s.tstep + 1 ≤ x.2 + 2)) ∧
  ((∀ k ∈ s.cores, k.lace.st = .declaring → k.atSafePoint = false) →
    let l := s.batches.map fun x => if x.beat = s.tstep ∧ x.num = none then { x with num := some (closeNum s x) } else x
    (∀ y ∈ t.batches, y ∈ l) ∧ (∀ y ∈ l, y.num ≠ none → y ∈ t.batches) ∧
    (openNow s = [] → ∀ p < 16, (t.part p).budget = (s.part p).budget - BitVec.ofNat 64 (s.charge p)) ∧
    ∀ x, openNow s = [x] → (∀ k ∈ s.kerns, s.isDet k = false) → Sound s → (s.coreOf x.core).id = x.core →
      let k := t.coreOf x.core
      let old := s.coreOf x.core
      k.lace.st = .submitted ∧ k.lace.num = closeNum s x ∧ k.lace.sub = .numbered (closeNum s x) ∧
        k.readX old.lace.rd = if old.lace.rd = 0 then ⟨0, 0⟩ else ⟨closeNum s x, old.c.clab⟩)
/-- BEAT_CLOSE (R221) and BEAT_FLIT (R259, R272): the module's own beat closes at 256 clocks, that of another module at its flit; each closes one beat. A viral module takes no flit. -/
def Sys2Proof.Claims.BeatsClose : Prop :=
  Serves .beatClose (fun s => s.ownBeat = true ∧ 256 ≤ s.beatClk) BeatCloses ∧
  Serves .beatClose (fun s => s.beatClk < 256 ∨ s.ownBeat = false) (fun s t => t = s) ∧
  Serves .beatFlit (fun s => s.ownBeat = false) BeatCloses ∧
  Serves .beatFlit (fun s => s.ownBeat = true) (fun s t => t = s) ∧
  ∀ s : State, s.viral = true → exec .beatFlit s = .next s

/-- LACE_BATCH_EXCHANGE, LACE_MERGE (R224, R225): a closed batch reaches every die; a home slice merges its next beat once all eight batches are there, and each of its tiles' queues takes in the lace numbers that declare it, in ascending order. GRANT_STEP (R225, R227): a free tile
goes to the head of its queue, not before the beat after that of its batch; an abandoned transaction takes none. LACE_TILE_RETURN (R178, R227, R228): the tiles that a transaction holds are free again, and the steps that waited for it come next. -/
def Sys2Proof.Claims.TilesAreMergedGrantedAndReturned : Prop :=
  (∀ d b (s : State), d < 8 → b < s.tstep → s.exchanged d b = false → ∃ t, exec (.laceBatchExchange d b) s = .next t ∧
    t = { s with sentTo := t.sentTo } ∧ t.exchanged d b = true) ∧
  (∀ d sl b (s : State), s.nextMerge d sl = some b → (∀ e < 8, s.exchanged e b = true) → (∀ x ∈ s.batches, x.tiles.Nodup) →
    ∃ t, exec (.laceMerge d sl) s = .next t ∧ t = { s with lqueues := t.lqueues, merged := t.merged } ∧ (d, sl, b + 1) ∈ t.merged ∧
      ∀ pa, (t.queueOf pa).holder = (s.queueOf pa).holder ∧ (t.queueOf pa).queue = (s.queueOf pa).queue ++
        if homeDie pa = d ∧ sliceOf pa = sl then
          ((sortTx (s.batches.filter fun x => x.beat == b && x.num.isSome)).filter fun x => x.tiles.contains pa).map fun x => x.num.getD 0
        else []) ∧
  (∀ d sl b (s : State), s.nextMerge d sl = none ∨ s.nextMerge d sl = some b ∧ (∃ e < 8, s.exchanged e b = false) →
    exec (.laceMerge d sl) s = .next s) ∧
  (∀ pa n r x (s : State), (s.queueOf pa).holder = none → (s.queueOf pa).queue = n :: r → s.txOf n = some x → x.beat + 2 ≤ s.tstep →
    ∃ t, exec (.grantStep pa) s = .next t ∧ t = { s with lqueues := t.lqueues } ∧
      t.queueOf pa = ⟨pa, if x.gone then none else some n, r⟩ ∧ ∀ b, b ≠ pa → t.queueOf b = s.queueOf b) ∧
  (∀ pa n r x (s : State), (s.queueOf pa).queue = n :: r → s.txOf n = some x → s.tstep < x.beat + 2 → exec (.grantStep pa) s = .next s) ∧
  (∀ pa m (s : State), (s.queueOf pa).holder = some m → exec (.grantStep pa) s = .next s) ∧
  (∀ c e tiles, AtCore (.laceTileReturn c) c
    (fun f => HeadStore f .c e ∧ e.kind = .laceReturn tiles ∧ (f.strm .c).mayRelease e.seq .dv = true)
    fun f u => StoreGone u .c e.id e.seq ∧ u.heldSteps = [] ∧ f.heldSteps <+: u.agenda ∧ ∀ pa, (u.queueOf pa).queue = (f.queueOf pa).queue ∧
      (u.queueOf pa).holder = if pa ∈ tiles ∧ (f.queueOf pa).holder = some e.va then none else (f.queueOf pa).holder) ∧
  (∀ c e tiles, AtCore (.laceTileReturn c) c
    (fun f => HeadStore f .c e ∧ e.kind = .laceReturn tiles ∧ (f.strm .c).mayRelease e.seq .dv = false) fun f u => u = f)

/-- The steps of the lacers, and the beat. -/
def Obligations.LacersAndBeats : Prop :=
  SubmissionsEnterTheirBatch ∧ BeatsClose ∧ TilesAreMergedGrantedAndReturned

/-! ### Traps of other streams, the service path, tasks -/

/-- STREAM_TRAP (R252): at a boundary of the C-stream that may take it, the first delegated stop is the stream trap, cause 0x0003, with TVAL the stream, where its delegation and a handler are still there, and goes to the service path otherwise. At no such boundary nothing happens. -/
def Sys2Proof.Claims.DelegatedStopsReachTheHandler : Prop :=
  ∀ c st,
    let May := fun (f : State) => f.core.firstStop = some st ∧ f.core.csr.nest = false ∧ f.core.c.hold = none ∧ f.core.c.blocked = none ∧
      f.core.c.ended = false ∧ f.core.c.stop.stopped = false ∧ (f.core.lace.st = .idle ∨ f.core.lace.st = .declaring)
    AtCore (.streamTrap c) c (fun f => May f ∧ f.core.csr.tvec ≠ 0 ∧ f.core.csr.deleg.toNat / 2 ^ st.num % 2 = 1)
      (fun f u => u = (f.modStrm st fun t => { t with stop := .delivered }).takeTrap .c 3 (BitVec.ofNat 64 st.num) (f.strm st).bank.lab) ∧
    AtCore (.streamTrap c) c (fun f => May f ∧ (f.core.csr.tvec = 0 ∨ f.core.csr.deleg.toNat / 2 ^ st.num % 2 = 0))
      (fun f u => u = f.modStrm st fun t => { t with stop := .held }) ∧
    AtCore (.streamTrap c) c (fun f => f.core.firstStop = none ∨ f.core.firstStop = some st ∧ ¬May f) fun f u => u = f

/-- MAILBOX_RECORD_POST (R253): the oldest record that the hub holds for a mailbox with room is posted at its tail; with none, a stop on the service path posts its record under a new ticket; EPC and TVAL are withheld where the bank's label is not within the function's origin.
A full mailbox loses nothing: the stop waits, and its record goes to the hub where its stream goes on, or its task leaves the core or ends. -/
def Sys2Proof.Claims.StopsPostTheirRecord : Prop :=
  (∀ c st, AtCore (.mailboxRecordPost c st) c
    (fun f => Sound f ∧ (∀ x ∈ f.hubRecs, f.mailFull x.1 = true) ∧ (f.strm st).stop = .held ∧ f.mailFull f.core.func = false)
    fun f u => let m := f.mailboxOf f.core.func
      let n := f.tickets % (2 ^ 32 - 1) + 1
      let r := f.mailRec st n
      (u.strm st).stop = .posted n ∧ u.tickets = n ∧ (u.mailboxOf f.core.func).tail = (m.tail + 1) % 2 ^ 32 ∧
      (u.mailboxOf f.core.func).head = m.head ∧ (m.tail % 64, r) ∈ (u.mailboxOf f.core.func).recs ∧
      r.ticket = n ∧ r.stream = st.num ∧ r.cause = (f.strm st).bank.cause.toNat % 65536 ∧
      if Label.sub (f.strm st).bank.lab (f.funcLab f.core.func) then r.withheld = false ∧ r.epc = (f.strm st).bank.epc ∧ r.tval = (f.strm st).bank.tval
      else r.withheld = true ∧ r.epc = 0 ∧ r.tval = 0) ∧
  (∀ c st x, AtCore (.mailboxRecordPost c st) c (fun f => f.hubRecs.find? (fun x => !f.mailFull x.1) = some x)
    fun f u => let m := f.mailboxOf x.1
      u.hubRecs = f.hubRecs.erase x ∧ u.tickets = f.tickets ∧ (∀ st, u.strm st = f.strm st) ∧ (u.mailboxOf x.1).tail = (m.tail + 1) % 2 ^ 32 ∧
      (u.mailboxOf x.1).head = m.head ∧ (m.tail % 64, x.2) ∈ (u.mailboxOf x.1).recs) ∧
  (∀ c st, AtCore (.mailboxRecordPost c st) c
    (fun f => (∀ x ∈ f.hubRecs, f.mailFull x.1 = true) ∧ ((f.strm st).stop ≠ .held ∨ f.mailFull f.core.func = true)) fun f u => u = f) ∧
  (∀ (f : State) func, f.mailFull func = true ↔ 64 ≤ ((f.mailboxOf func).tail + 2 ^ 32 - (f.mailboxOf func).head) % 2 ^ 32) ∧
  ∀ (f : State) st, (f.strm st).stop = .held → let n := f.tickets % (2 ^ 32 - 1) + 1
    (f.fileStop st).hubRecs = f.hubRecs ++ [(f.core.func, f.mailRec st n)] ∧ (f.fileStop st).tickets = n ∧
      ((f.fileStop st).strm st).stop = .posted n

/-- FMRESUME (R253, R268, R391): with ABORT = 0 the stream that the ticket names goes on at the word at its EPC, on its core or in its image, once no invalidation is in progress; with ABORT = 1 its task ends, with record 0x0B01. A function in the ERROR state is refused. -/
def Sys2Proof.Claims.FmresumeResumesOrEnds : Prop :=
  let Open := fun (s : State) (func : Nat) => s.tdiError func = false ∧ s.tlbiNow = none
  let on := fun (s : State) (func ticket : Nat) => s.cores.find? fun k => (k.ticketed func ticket).isSome
  (∀ func ticket st, Serves (.fmresumeResume func ticket) (fun s => Open s func ∧ s.core.ticketed func ticket = some st)
    fun s t => (t.strm st).stop = .running ∧ t.pc st = (s.strm st).bank.epc &&& ~~~3#64 ∧ ∀ u, u ≠ st → t.strm u = s.strm u) ∧
  (∀ func ticket k st, Serves (.fmresumeResume func ticket)
    (fun s => Open s func ∧ on s func ticket = some k ∧ k.ticketed func ticket = some st)
    fun s t => t = s.focusing k.id fun s => s.resumeStream st) ∧
  (∀ func ticket im st, Serves (.fmresumeResume func ticket)
    (fun s => Open s func ∧ on s func ticket = none ∧ im ∈ s.images ∧ im.live = true ∧ im.core.ticketed func ticket = some st)
    fun s t => t = { s with images := t.images } ∧
      ∃ i ∈ t.images, i = { im with core := i.core } ∧ (i.core.strm st).stop = .running ∧
        (i.core.strm st).pc = (im.core.strm st).bank.epc &&& ~~~3#64) ∧
  (∀ func ticket, Serves (.fmresumeResume func ticket) (fun s => s.tdiError func = false ∧ s.tlbiNow ≠ none)
    fun s t => t = s.holdStep (.fmresumeResume func ticket)) ∧
  (∀ func ticket k, Serves (.fmresumeAbort func ticket) (fun s => s.tdiError func = false ∧ on s func ticket = some k)
    fun s t => t = (s.abortNote func ((k.task.map (·.queue)).getD 0) ticket).focusing k.id fun s => s.killTask false) ∧
  (∀ func ticket im, Serves (.fmresumeAbort func ticket)
    (fun s => s.tdiError func = false ∧ on s func ticket = none ∧
      (s.images.find? fun i => i.live && (i.core.ticketed func ticket).isSome) = some im)
    fun s t => (∀ i ∈ t.images, ¬(i.kern = im.kern ∧ i.taskidx = im.taskidx)) ∧
      Recorded s t 0x0B01 1 func 0 (BitVec.ofNat 64 im.queue) (BitVec.ofNat 64 ticket)) ∧
  (∀ func ticket e, e = .fmresumeResume func ticket ∨ e = .fmresumeAbort func ticket → Serves e (fun s => s.tdiError func = true) fun s t => t = s) ∧
  ∀ (s : State) func queue ticket, s.isMapped queue = true → let t := s.abortNote func queue ticket
    Recorded s t 0x0B01 1 func 0 (BitVec.ofNat 64 queue) (BitVec.ofNat 64 ticket) ∧ (t.qcb queue).err = true

/-- HEEL_CHECK (R258): equal words with equal operands change nothing; on a dispatch core others turn the module viral, with record 0x0602; on a compute core they end its task, with record 0x0601 and ERR of its queue, before the word takes effect: what waits at the head of the C-stream's queues is
dropped, but for a store that has begun and the return of a transaction's tiles. The task's last image is kept for a restart. -/
def Sys2Proof.Claims.HeelDisagreementsEndTheTask : Prop :=
  (∀ c w, AtCore (.heelCheck c w ⟨w, true⟩) c (fun _ => True) fun f u => u = f) ∧
  (∀ c x y b, (x ≠ y ∨ b = false) → AtCore (.heelCheck c x ⟨y, b⟩) c (fun f => f.core.dispatch = true)
    fun f u => u.viral = true ∧
      Recorded f u 0x0602 2 0 (unitName (coreDie f.core.id) 15 31 0x13 (f.core.id % 2)) (x.setWidth 64) (y.setWidth 64)) ∧
  (∀ c x y b t, (x ≠ y ∨ b = false) → AtCore (.heelCheck c x ⟨y, b⟩) c (fun f => f.core.dispatch = false ∧ f.core.task = some t)
    fun f u => u = (((f.errRec 0x0601 1 t.func (heelUnit t.lcore) (x.setWidth 64) (y.setWidth 64)).setErr t.queue).modCore
      Core.dropUnchecked).killTask true) ∧
  ∀ k : Core, let u := k.dropUnchecked
    u.c.lq = [] ∧ u.xPend = [] ∧ u.dacc = none ∧ ∀ e, e ∈ u.c.sq ↔ e ∈ k.c.sq ∧ match e.kind with
      | .store _ _ _ _ wrote => wrote ≠ [] | .laceReturn _ => True | _ => False

/-- Nothing of a task is in flight that its image does not hold (R245). -/
abbrev Sys2Proof.Claims.AtRest (f : State) : Prop :=
  f.core.c.atRest = true ∧ f.core.v.atRest = true ∧ f.core.sideRest = true ∧ f.aRest = true ∧ f.mRest = true ∧
    ∀ x, f.flight = some x → x.2.cutReady = true
/-- PREEMPTION (R229, R245, R246, R253): a task at its safe point withdraws a submission that waits for its beat, and with nothing of it in flight leaves its core for its image, whose parts are written to the frames of its context area; with KEEP the core holds its scratchpad. -/
def Sys2Proof.Claims.TasksLeave : Prop :=
  (∀ c t, AtCore (.preemption c) c (fun f => f.core.atSafePoint = true ∧ f.core.task = some t ∧ AtRest f.withdraw)
    fun f u => let h := f.withdraw.fileStops
      u.core.task = none ∧ u.core.utlb = f.core.utlb ∧ u.core.l2tlb = f.core.l2tlb ∧ (∀ l ∈ u.core.l1, l ∈ f.core.l1) ∧
      u.mem = (h.writeCtx t (h.imageCore t.keep).1 (h.imageCut.map fun y => y.2.2)).mem ∧ u.hubRecs = h.hubRecs ∧
      (∃ im ∈ u.images, im.queue = t.queue ∧ im.kern = t.kern ∧ im.taskidx = t.idx ∧ im.magic = true ∧ im.live = true ∧ im.ended = false ∧
        im.core = (h.imageCore t.keep).1 ∧ im.hops = hopsOf (((h.kern t.kern).map h.usedClusters).getD []) id ∧
        im.core.x = f.core.x ∧ im.core.ar = f.core.ar ∧ im.core.vr = f.core.vr ∧
        (t.keep = false → im.core.scratch = f.core.scratch)) ∧
      (t.keep = true → u.core.parked = some (t.kern, t.idx) ∧ u.core.scratch = f.core.scratch) ∧
      (t.keep = false → u.core.parked = none ∧ u.core.scratch = [])) ∧
  (∀ c t, AtCore (.preemption c) c (fun f => f.core.atSafePoint = true ∧ f.core.task = some t ∧ ¬AtRest f.withdraw) fun f u => u = f.withdraw) ∧
  (∀ c, AtCore (.preemption c) c (fun f => f.core.atSafePoint = false) fun f u => u = f) ∧
  ∀ f : State, match f.core.lace.sub with
    | .sent .. | .accepted _ => f.withdraw.core.lace = { f.core.lace with sub := .none } ∧
        ∀ x ∈ f.withdraw.batches, ¬(x.core = f.core.id ∧ x.num = none)
    | _ => f.withdraw = f

/-- RESTORE (R247, R248, R318): a saved task whose image is well formed, whose core is free and whose labels its graph holds comes back with the registers of its image, its vector registers and planes as they stand in the frames, on the core that kept its scratchpad or that R32 binds at the saved distances, with
no old copy there, and its declared tiles are translated again; another changes nothing but the record and ERR, and one whose core is taken waits. -/
def Sys2Proof.Claims.TasksComeBack : Prop :=
  let hold := fun (s : State) (im : Image) => ((s.graphOf ((im.core.task.map (·.graph)).getD 0)).map (·.holds)).getD 0
  let back := fun (s : State) (im : Image) (pc : Nat) => im.coreOn (s.readCtx im) (s.coreOf pc) (hold s im)
  let Taken := fun (s : State) (im : Image) (pc : Nat) => let old := s.coreOf pc
    old.task ≠ none ∨ s.bistHolds pc = true ∨ old.parked ≠ none ∧ old.parked ≠ some (im.kern, im.taskidx)
  let Held := fun (s : State) (im : Image) (pc : Nat) =>
    (∀ l ∈ (back s im pc).labels, Label.sub l (hold s im) = true) ∧ (s.internAll (back s im pc).labels).isSome = true
  (∀ q idx im pc, Serves (.restore q idx)
    (fun s => s.imageOf q idx = some im ∧ s.headOk im = true ∧ im.core.lace.tiles = [] ∧ s.restoreCore im = some pc ∧ (s.coreOf pc).id = pc ∧
      ¬Taken s im pc ∧ Held s im pc)
    fun s t => let k := t.coreOf pc
      k.id = pc ∧ k.x = im.core.x ∧ k.ar = im.core.ar ∧ k.vr = (s.readCtx im).vr ∧ k.tok = im.core.tok ∧ k.csr = im.core.csr ∧
      (∀ p, (k.plane p).acc = ((s.readCtx im).plane p).acc) ∧
      k.scratch = (if (s.coreOf pc).parked = none then im.core.scratch else (s.coreOf pc).scratch) ∧
      k.task = im.core.task.map (fun t => { t with preempt := false, keep := false }) ∧ k.l1 = [] ∧
      ∀ i ∈ t.images, i.kern = im.kern ∧ i.taskidx = im.taskidx → i.live = false) ∧
  (∀ q idx im pc s1, Serves (.restore q idx)
    (fun s => s.imageOf q idx = some im ∧ s.headOk im = true ∧ s.restoreCore im = some pc ∧ ¬Taken s im pc ∧ Held s im pc ∧
      s.internAll (back s im pc).labels = some s1)
    fun s t => t = State.focusing { s1.setCore (back s im pc) with images := (s1.setCore (back s im pc)).images.map fun (i : Image) =>
      if i.kern = im.kern && i.taskidx = im.taskidx then { i with live := false, ended := false } else i } pc
        fun s => (s.acquire .dv).redeclare s.core.lace.tiles) ∧
  (∀ q idx im pc, Serves (.restore q idx)
    (fun s => s.imageOf q idx = some im ∧ s.headOk im = true ∧ s.restoreCore im = some pc ∧ Taken s im pc) fun s t => t = s) ∧
  (∀ q idx im code, Serves (.restore q idx)
    (fun s => s.imageOf q idx = some im ∧ s.isMapped im.queue = true ∧
      (s.headOk im = false ∧ code = 0x0C02 ∨ s.headOk im = true ∧ s.restoreCore im = none ∧ code = 0x0C01 ∨
        s.headOk im = true ∧ code = 0x0C03 ∧ ∃ pc, s.restoreCore im = some pc ∧ ¬Taken s im pc ∧ ¬Held s im pc))
    fun s t => t.core = s.core ∧ t.others = s.others ∧ t.images = s.images ∧ (t.qcb im.queue).err = true ∧
      Recorded s t code 1 im.core.func 0 (BitVec.ofNat 64 im.queue) (BitVec.ofNat 64 im.taskidx)) ∧
  (∀ q idx, Serves (.restore q idx) (fun s => s.imageOf q idx = none) fun s t => t = s) ∧
  (∀ (s : State) im pc, (∀ k ∈ s.cores, k.parked ≠ some (im.kern, im.taskidx)) → s.restoreCore im = some pc →
    ∃ k t i, s.kern im.kern = some k ∧ im.core.task = some t ∧ s.binding t.part (t.lcore / 128) (s.usedClusters k) = some i ∧
      pc = bindCore (t.lcore / 128) i (t.lcore % 128) ∧ hopsOf (s.usedClusters k) (symmetry i) = im.hops)

/-- The service path, pre-emption and restore. -/
def Obligations.ServicePathAndTasks : Prop :=
  DelegatedStopsReachTheHandler ∧ StopsPostTheirRecord ∧ FmresumeResumesOrEnds ∧ HeelDisagreementsEndTheTask ∧ TasksLeave ∧ TasksComeBack

/-! ### Queues, slots, budgets, kernels -/

/-- KICK (R33, R233, R234, R268): a legal kick of a mapped queue that runs a graph enters its FIFO; one of an unmapped queue sets the pending bit; a malformed one is dropped with record 0x0301, one at a full FIFO with record 0x0302, and both set ERR and count in KDROP. A function in the ERROR state is refused. -/
def Sys2Proof.Claims.KicksEnterTheFifo : Prop :=
  let Legal := fun (s : State) func q v => q < 4096 ∧ (s.qcb q).func = func ∧ s.kickOk (s.qcb q) v = true ∧ s.tdiError func = false
  (∀ func q v, Serves (.kick func q 0 8 v)
    (fun s => Legal s func q v ∧ s.isMapped q = true ∧ (s.qcb q).busy = true ∧ (s.qcb q).kcount < 16 ∧ (s.qcb q).kicks.length = 16)
    fun s t => (t.qcb q).kcount = (s.qcb q).kcount + 1 ∧ (t.qcb q).kicks.getD (((s.qcb q).khead + (s.qcb q).kcount) % 16) 0 = v ∧
      t.core = s.core ∧ t.kerns = s.kerns) ∧
  (∀ func q v, Serves (.kick func q 0 8 v) (fun s => Legal s func q v ∧ s.isMapped q = false ∧ (s.qcb q).kcount < 16)
    fun s t => q ∈ t.pendmap ∧ t.kerns = s.kerns ∧ t.qcbs = s.qcbs) ∧
  (∀ func q off width v, Serves (.kick func q off width v)
    (fun s => q < 4096 ∧ off < 8 ∧ (s.qcb q).func = func ∧ s.tdiError func = false ∧ s.isMapped q = true ∧
      (off ≠ 0 ∨ width ≠ 8 ∨ s.kickOk (s.qcb q) v = false))
    fun s t => (t.qcb q).err = true ∧ (t.qcb q).kdrop = (s.qcb q).kdrop + 1 ∧ (t.qcb q).kcount = (s.qcb q).kcount ∧
      Recorded s t 0x0301 1 (s.qcb q).func 0 (BitVec.ofNat 64 q) v) ∧
  (∀ func q v, Serves (.kick func q 0 8 v) (fun s => Legal s func q v ∧ s.isMapped q = true ∧ 16 ≤ (s.qcb q).kcount)
    fun s t => (t.qcb q).err = true ∧ (t.qcb q).kdrop = (s.qcb q).kdrop + 1 ∧ (t.qcb q).kcount = (s.qcb q).kcount ∧
      Recorded s t 0x0302 1 (s.qcb q).func 0 (BitVec.ofNat 64 q) v) ∧
  (∀ func q off width v, Serves (.kick func q off width v)
    (fun s => s.tdiError func = true ∨ 4096 ≤ q ∨ 8 ≤ off ∨ (s.qcb q).func ≠ func) fun s t => t = s)

/-- A slot command of die `d` (R235, R236): it is carried out as its write arrives, or as the one in progress, whose BUSY then clears so that the oldest held write follows; a write that comes behind another is held. -/
def Sys2Proof.Claims.Commands (e : Instr) (d : Nat) (v : W64) (pre : State → Prop) (post : State → State → Prop) : Prop :=
  Serves e (fun s => s.slotBusy d = false ∧ pre s) post ∧
  Serves e (fun s => (d, v) ∈ s.slotNow ∧ pre s) (fun s t => ∃ u, post s u ∧ t = u.slotNext d) ∧
  Serves e (fun s => s.slotBusy d = true ∧ (d, v) ∉ s.slotNow) fun s t => t = { s with slotHeld := s.slotHeld ++ [(d, v)] }

/-- SLOTCMD_MAP and SLOTCMD_UNMAP (R234, R235, R236): MAP gives the queue the named slot on every die of its partition; a mapped queue answers 2, a queue whose partition does not hold the window's die 3 (the model's choice, log entry 51), a taken slot 1. UNMAP takes the slots back and writes the control block to memory.
BUSY clears as a command ends, and the oldest held write is in progress next. -/
def Sys2Proof.Claims.SlotCommandsMapAndUnmap : Prop :=
  (∀ d v, d < 8 → cmdOp v = 1 → let q := cmdQueue v
    let taken := fun (s : State) => (s.dies (s.qcb q).part).any fun e => s.slots.any fun x => x.die == e && x.slot == cmdSlot v
    Commands (.slotcmdMap d v) d v (fun s => s.isMapped q = false ∧ s.offDie d v = false ∧ taken s = false)
      (fun s t => t.isMapped q = true ∧ (∀ e ∈ s.dies (s.qcb q).part, ⟨e, cmdSlot v, q⟩ ∈ t.slots) ∧ q ∉ t.pendmap ∧
        t.slotSt[Fin.ofNat 8 d] = 0) ∧
    Commands (.slotcmdMap d v) d v (fun s => s.isMapped q = true) (fun s t => t.slotSt[Fin.ofNat 8 d] = 2 ∧ t.slots = s.slots ∧ t.qcbs = s.qcbs) ∧
    Commands (.slotcmdMap d v) d v (fun s => s.isMapped q = false ∧ s.offDie d v = true)
      (fun s t => t.slotSt[Fin.ofNat 8 d] = 3 ∧ t.slots = s.slots ∧ t.qcbs = s.qcbs) ∧
    Commands (.slotcmdMap d v) d v (fun s => s.isMapped q = false ∧ s.offDie d v = false ∧ taken s = true)
      (fun s t => t.slotSt[Fin.ofNat 8 d] = 1 ∧ t.slots = s.slots ∧ t.qcbs = s.qcbs)) ∧
  (∀ d v, d < 8 → cmdOp v = 2 → let q := cmdQueue v
    Commands (.slotcmdUnmap d v) d v (fun s => Sound s ∧ s.isMapped q = true ∧ s.offDie d v = false)
      (fun s t => t.isMapped q = false ∧ (∀ x ∈ t.slots, x.q ≠ q) ∧ t.slotSt[Fin.ofNat 8 d] = 0 ∧
        memBytes t.mem (s.qcbAddr q) 256 = Qcb.bytes { s.qcb q with mapped := false } ∧ ((s.qcb q).kcount ≠ 0 → q ∈ t.pendmap)) ∧
    Commands (.slotcmdUnmap d v) d v (fun s => s.isMapped q = false)
      (fun s t => t.slotSt[Fin.ofNat 8 d] = 2 ∧ t.mem = s.mem ∧ t.slots = s.slots) ∧
    Commands (.slotcmdUnmap d v) d v (fun s => s.isMapped q = true ∧ s.offDie d v = true)
      (fun s t => t.slotSt[Fin.ofNat 8 d] = 3 ∧ t.mem = s.mem ∧ t.slots = s.slots ∧ t.qcbs = s.qcbs)) ∧
  ∀ (s : State) d, let t := s.slotNext d
    t = { s with slotNow := t.slotNow, slotHeld := t.slotHeld } ∧
      match s.slotHeld.find? fun x => x.1 == d with
      | none => t.slotBusy d = false ∧ t.slotHeld = s.slotHeld
      | some x => x ∈ t.slotNow ∧ t.slotHeld = s.slotHeld.erase x

/-- SLOTCMD_PRIO, SLOTCMD_PREEMPT, an unknown command (R229, R236, R245), PBADD (R235), COPYCMD (R235, R244), a write of a dispatch core to a scheduler window (R235, R236), and Insole's partition registers (R235, R240); a PMODE with LAG 0 changes nothing (the model's choice, log entry 103). -/
def Sys2Proof.Claims.SchedulerRegistersAct : Prop :=
  (∀ d v, d < 8 → cmdOp v = 3 → Commands (.slotcmdPrio d v) d v (fun s => s.isMapped (cmdQueue v) = true ∧ s.offDie d v = false)
    fun s t => t.qcb (cmdQueue v) = { s.qcb (cmdQueue v) with prio := cmdPrio v } ∧ t.slotSt[Fin.ofNat 8 d] = 0) ∧
  (∀ d v, d < 8 → cmdOp v = 4 → Commands (.slotcmdPreempt d v) d v (fun s => Sound s ∧ (s.cores.map (·.id)).Nodup ∧ s.offDie d v = false)
    fun _ t => t.slotSt[Fin.ofNat 8 d] = 0 ∧
      ∀ k ∈ t.cores, ∀ x, k.task = some x → x.queue = cmdQueue v → x.preempt = true ∧ x.keep = cmdKeep v ∧ k.latch = true ∧
        (k.lace.st = .declaring → ∀ n b, k.lace.sub ≠ .sent n b ∧ k.lace.sub ≠ .accepted b)) ∧
  (∀ d v e, d < 8 → (cmdOp v = 3 ∧ e = .slotcmdPrio d v ∨ cmdOp v = 4 ∧ e = .slotcmdPreempt d v) → Commands e d v (fun s => s.offDie d v = true)
    fun s t => t.slotSt[Fin.ofNat 8 d] = 3 ∧ t.qcbs = s.qcbs ∧ t.mem = s.mem) ∧
  (∀ d v, d < 8 → ¬(1 ≤ cmdOp v ∧ cmdOp v ≤ 4) → Commands (.slotcmdUnknown d v) d v (fun _ => True)
    fun s t => Recorded s t 0x0303 1 0 0 v 0 ∧ t.core = s.core ∧ t.slotSt = s.slotSt) ∧
  (∀ p v, p < 16 → Serves (.pbadd p v) (fun _ => True) fun s t => (t.part p).budget = (s.part p).budget + v ∧
    t = { s with parts := t.parts } ∧ ∀ q < 16, q ≠ p → t.part q = s.part q) ∧
  (∀ d v, d < 8 → let q := v.toNat % 4096
    Serves (.copycmd d v) (fun s => s.isMapped q = true ∧ (s.qcb q).clen ≠ 0 ∧ ∀ j ∈ s.jobs, j.queue ≠ q)
      (fun s t => t.jobs = s.jobs ++ [⟨d, q, s.kernNo⟩] ∧ (t.qcb q).cdone = 0 ∧ (t.qcb q).clen = (s.qcb q).clen) ∧
    Serves (.copycmd d v) (fun s => (s.qcb q).clen = 0 ∨ ∃ j ∈ s.jobs, j.queue = q) fun s t => t = s) ∧
  (∀ (s : State) d v, s.windowWrite d 0 v = s.slotWrite d v ∧ s.windowWrite d 0x0800 v = s.copyCmd d v ∧
    (∀ p < 16, s.windowWrite d (0x0480 + 8 * p) v = s.pbadd p v) ∧
    (∀ off, off ≠ 0 → off ≠ 0x0800 → (∀ p < 16, off ≠ 0x0480 + 8 * p) → s.windowWrite d off v = s) ∧
    (s.slotBusy d = false → s.slotWrite d v = { s with slotNow := (d, v) :: s.slotNow } ∧ (s.slotWrite d v).slotBusy d = true) ∧
    (s.slotBusy d = true → s.slotWrite d v = { s with slotHeld := s.slotHeld ++ [(d, v)] })) ∧
  (∀ off v p, p < 16 → off = 0x0500 + 8 * p → Serves (.insolePartitionWrite off v) (fun s => s.disjoint p (·.pclust) v = true)
    fun s t => t.part p = { s.part p with pclust := v }) ∧
  (∀ off v p, p < 16 → off = 0x0580 + 8 * p → Serves (.insolePartitionWrite off v) (fun s => pringOk v = true ∧ s.disjoint p (·.pring) v = true)
    fun s t => t.part p = { s.part p with pring := v }) ∧
  (∀ off v p, p < 16 → off = 0x0600 + 8 * p →
    (v.toNat / 256 % 256 ≠ 0 → Serves (.insolePartitionWrite off v) (fun _ => True) fun s t => t.part p = { s.part p with pmode := v &&& 0xFF01#64 }) ∧
    (v.toNat / 256 % 256 = 0 → Serves (.insolePartitionWrite off v) (fun _ => True) fun s t => t = s)) ∧
  ∀ off v p, p < 16 → (off = 0x0500 + 8 * p → Serves (.insolePartitionWrite off v) (fun s => s.disjoint p (·.pclust) v = false) fun s t => t = s) ∧
    (off = 0x0580 + 8 * p → Serves (.insolePartitionWrite off v) (fun s => pringOk v = false ∨ s.disjoint p (·.pring) v = false) fun s t => t = s)

/-- BULK_COPY_CHUNK (R157, R201, R206, R244): an engine goes on with the command it has in hand, or takes the eligible one of highest priority that no other engine has; its chunk moves, within device memory and to or from host and peer memory, and no other byte changes; a chunk that the subset rule forbids ends its
copy with ERR and record 0x0304. A chunk that waits for a frame to be zeroed or for accesses in flight to a poisoned unit, or at an address that no memory has (the model's choice, log entry 55), has no effect. At the chunk's end the engine takes a command anew. -/
def Sys2Proof.Claims.BulkCopiesMoveChunks : Prop :=
  let n := fun (c : Qcb) => min 65536 (c.clen.toNat - c.cdone.toNat)
  let src := fun (c : Qcb) => c.csrc.toNat + c.cdone.toNat
  let dst := fun (c : Qcb) => c.cdst.toNat + c.cdone.toNat
  let Hand := fun (s : State) (d e : Nat) (j : CopyJob) => s.engineJob d e = some j ∧ s.isMapped j.queue = true ∧ 0 < n (s.qcb j.queue)
  let Reached := fun (s : State) (c : Qcb) => s.copyRange (src c) (n c) = true ∧ s.copyRange (dst c) (n c) = true ∧ s.rangeWaits (src c) (n c) = false ∧
    s.rangeWaits (dst c) (n c) = false ∧ ∀ u ∈ s.badUnits (src c) (dst c) (n c), s.unitInUse u = false
  (∀ d e j, e < 4 → Serves (.bulkCopyChunk d e)
    (fun s => Sound s ∧ Hand s d e j ∧ Reached s (s.qcb j.queue) ∧ s.chunkOk (src (s.qcb j.queue)) (dst (s.qcb j.queue)) (n (s.qcb j.queue)) = true)
    fun s t => let c := s.qcb j.queue
      (paClass (src c) = 0 ∧ paClass (dst c) = 0 → t.host = s.host ∧ t.peers = s.peers ∧
        ∀ a, memGet t.mem a = if dst c ≤ a ∧ a < dst c + n c then memGet s.mem (src c + (a - dst c)) else memGet s.mem a) ∧
      (∀ i < n c, t.homeByte (.mem (dst c + i)) = s.homeByte (.mem (src c + i))) ∧
      (t.qcb j.queue).cdone = c.cdone + BitVec.ofNat 64 (n c) ∧
      ((t.qcb j.queue).cdone.toNat < c.clen.toNat → t.jobs = s.jobs) ∧
      (c.clen.toNat ≤ (t.qcb j.queue).cdone.toNat → (∀ x ∈ t.jobs, x.queue ≠ j.queue) ∧ (t.qcb j.queue).clen = 0)) ∧
  (∀ d e j, e < 4 → Serves (.bulkCopyChunk d e)
    (fun s => Hand s d e j ∧ Reached s (s.qcb j.queue) ∧ s.chunkOk (src (s.qcb j.queue)) (dst (s.qcb j.queue)) (n (s.qcb j.queue)) = false)
    fun s t => t.mem = s.mem ∧ t.host = s.host ∧ t.peers = s.peers ∧ (∀ x ∈ t.jobs, x.queue ≠ j.queue) ∧ (t.qcb j.queue).err = true ∧
      Recorded s t 0x0304 1 (s.qcb j.queue).func 0 (BitVec.ofNat 64 j.queue) (s.qcb j.queue).cdone) ∧
  (∀ d e j, e < 4 → Serves (.bulkCopyChunk d e) (fun s => Hand s d e j ∧ ¬Reached s (s.qcb j.queue))
    fun s t => t = { s with engines := t.engines }) ∧
  (∀ d e, Serves (.bulkCopyChunk d e) (fun s => 4 ≤ e ∨ s.engineJob d e = none) fun s t => t = s) ∧
  (∀ (s : State) d e j x, s.engines.find? (fun x => x.1 == d && x.2.1 == e) = some x → s.jobs.find? (fun j => j.queue == x.2.2) = some j →
    s.engineJob d e = some j) ∧
  ∀ (s : State) d j, s.nextJob d = some j → j ∈ s.jobs ∧ j.die = d ∧ s.funded (s.qcb j.queue).part = true ∧ (∀ x ∈ s.engines, x.2.2 ≠ j.queue) ∧
    ∀ y ∈ s.jobs, y.die = d → s.funded (s.qcb y.queue).part = true → (∀ x ∈ s.engines, x.2.2 ≠ y.queue) →
      (s.qcb y.queue).prio ≤ (s.qcb j.queue).prio

/-- WAVE_ISSUE (R27, R29, R32, R237, R239): the next tasks of a ready kernel start on the free cores of the die that no earlier kernel takes, and count as issued; where R32 finds no binding for tasks that are left the wave is refused with record 0x0C04. KERNEL_COMPLETE (R238): a kernel whose tasks have all been issued and have ended is complete in this beat, and no image of it stays. -/
def Sys2Proof.Claims.KernelsIssueAndComplete : Prop :=
  (∀ id d k g i, let ts := fun (s : State) => (s.nextTasks k d i).filter fun x => !(s.takenFirst k d).contains x.2
    Serves (.waveIssue id d)
      (fun s => Sound s ∧ s.kern id = some k ∧ s.kernReg k = some g ∧ s.mayIssue k d = true ∧ s.binding g.part d (s.usedClusters k) = some i ∧
        ts s ≠ [])
      fun s t => t.kern id = some { k with waves := k.waves ++ (ts s).map (fun x => (d, x.1)), tstep0 := some (k.tstep0.getD s.tstep) } ∧
        ∀ x ∈ ts s, (t.coreOf x.2).task.map (·.kern) = some id ∧ (t.coreOf x.2).id = x.2) ∧
  (∀ id d k g, Serves (.waveIssue id d)
    (fun s => s.kern id = some k ∧ s.kernReg k = some g ∧ s.mayIssue k d = true ∧ s.binding g.part d (s.usedClusters k) = none ∧
      s.tasksLeft k d ≠ [] ∧ s.isMapped k.queue = true)
    fun s t => (t.qcb k.queue).err = true ∧
      Recorded s t 0x0C04 1 g.func 0 (BitVec.ofNat 64 k.queue) (BitVec.ofNat 64 (k.node * 65536 + k.graph))) ∧
  (∀ id d k g i, Serves (.waveIssue id d)
    (fun s => s.kern id = some k ∧ s.kernReg k = some g ∧ (s.mayIssue k d = false ∨ s.binding g.part d (s.usedClusters k) = none ∧ s.tasksLeft k d = [] ∨
      s.binding g.part d (s.usedClusters k) = some i ∧ ∀ x ∈ s.nextTasks k d i, x.2 ∈ s.takenFirst k d))
    fun s t => t = s) ∧
  (∀ id k, Serves (.kernelComplete id)
    (fun s => s.kern id = some k ∧ k.done = false ∧ k.refused = false ∧ (s.kernImg k).tasks 1 * (s.kernImg k).tasks 2 ≤ k.waves.length ∧
      s.kernLive id = false ∧ id ≤ s.kernNo)
    fun s t => (∀ x, t.kern id = some x → x.done = true ∧ x.ready = some s.tstep) ∧ ∀ im ∈ t.images, im.kern ≠ id) ∧
  (∀ id k, Serves (.kernelComplete id)
    (fun s => s.kern id = some k ∧ (k.waves.length < (s.kernImg k).tasks 1 * (s.kernImg k).tasks 2 ∨ s.kernLive id = true)) fun s t => t = s)

/-- The steps of the hardware scheduler. -/
def Obligations.TheSchedulerActs : Prop :=
  KicksEnterTheFifo ∧ SlotCommandsMapAndUnmap ∧ SchedulerRegistersAct ∧ BulkCopiesMoveChunks ∧ KernelsIssueAndComplete

/-! ### What Insole does -/

/-- Every byte of a frame is zero. -/
def Sys2Proof.Claims.FrameZero (t : State) (f : Nat) : Prop := ∀ i < 4096, memGet t.mem (4096 * f + i) = 0
/-- OWNER_ZEROING (R157, R200, R206): a freed frame reads as zeros, no unit of it stays poisoned, and it may be given again, with the empty label where it has no owner; the state of a core without a task is zero. TLBI commands (R191, R391): the command starts, or waits behind the one in progress; it is done when no access that
a dropped entry translated is left, and then no such entry is cached anywhere and what waited goes on. -/
def Sys2Proof.Claims.ZeroingAndInvalidation : Prop :=
  (∀ pa, Serves (.ownerZeroing (.frame pa)) (fun s => Sound s ∧ (s.tagOf pa).zeroing = true ∧ deviceOk pa = true)
    fun s t => FrameZero t (frameOf pa) ∧
      t.tagOf pa = { s.tagOf pa with zeroing := false, lab := if (s.tagOf pa).owner = none then 0 else (s.tagOf pa).lab } ∧
      (∀ u ∈ t.poison, u / 64 ≠ frameOf pa) ∧ ∀ a, frameOf a ≠ frameOf pa → memGet t.mem a = memGet s.mem a) ∧
  (∀ pa, Serves (.ownerZeroing (.frame pa)) (fun s => (s.tagOf pa).zeroing = false) fun s t => t = s) ∧
  (∀ c, Serves (.ownerZeroing (.core c))
    (fun s => (s.coreOf c).id = c ∧ (s.coreOf c).dispatch = false ∧ (s.coreOf c).task = none ∧ (s.coreOf c).parked = none)
    fun s t => t.mem = s.mem ∧ t.coreOf c = { Core.reset c with
      l1 := (s.coreOf c).l1, pref := (s.coreOf c).pref, utlb := (s.coreOf c).utlb, l2tlb := (s.coreOf c).l2tlb, walks := (s.coreOf c).walks }) ∧
  (∀ e mode v, (e, mode) = (.tlbiAll v, 0) ∨ (e, mode) = (.tlbiSpace v, 1) ∨ (e, mode) = (.tlbiPage v, 2) → v.toNat / 2 ^ 20 % 4 = mode →
    Serves e (fun _ => True) fun s t => let c : Tlbi := ⟨mode, v.toNat % 2 ^ 20, s.tlbiVa.toNat / 4096 % 2 ^ 45, false⟩
      (s.tlbiNow = none → t.tlbiNow = some c ∧ t.tlbiHeld = s.tlbiHeld ∧ t.tlbiCtl = BitVec.ofNat 64 (mode * 2 ^ 20 + v.toNat % 2 ^ 20)) ∧
      (∀ x, s.tlbiNow = some x → t.tlbiNow = some x ∧ t.tlbiHeld = s.tlbiHeld ++ [c] ∧ t.tlbiCtl = s.tlbiCtl)) ∧
  (∀ c, Serves .tlbInvalidationDone (fun s => s.tlbiNow = some c ∧ ∀ k ∈ s.cores, k.usesPage c = false)
    fun s t => t.tlbiNow = s.tlbiHeld.head? ∧ t.tlbiHeld = s.tlbiHeld.drop 1 ∧ t.mem = s.mem ∧ (∀ e ∈ t.dtlb, c.hits e.2 = false) ∧
      t.agenda = s.heldSteps ++ s.agenda ∧ t.heldSteps = [] ∧
      ∀ k ∈ t.cores, (∀ e ∈ k.utlb, c.hits e.2 = false) ∧ (∀ l ∈ k.l2tlb, c.hits l = false) ∧ ∀ w ∈ k.walks, c.hitsWalk w = false) ∧
  (∀ c, Serves .tlbInvalidationDone (fun s => s.tlbiNow = some c ∧ ∃ k ∈ s.cores, k.usesPage c = true) fun s t => t = s)

/-- INSOLE_MAPPING_CHANGE (R204, R391): an entry that maps, by itself or through the tables below it, only frames that the registration may hold is written, and an invalidation that covers it starts or waits; another changes nothing. FRAME_TAG_WRITE (R10, R200, R203, R204, R205, R206, R228, R391): Insole assigns a frame to a
registration that holds its label, tags a joint frame with the exact set of the request that named it, or frees one; the bytes do not stay under a tag of another owner or of fewer origins; a change to a held tile, or during an invalidation, waits. JOINT_REGION_REQUEST (R204, R205). -/
def Sys2Proof.Claims.FramesGetTheirTags : Prop :=
  (∀ h va lvl pte g pa, Serves (.insoleMappingChange h va lvl pte)
    (fun s => Sound s ∧ s.graphOf h = some g ∧ s.entryAt va.toNat lvl 5 4 g.reg.root = some pa ∧ s.tableFrame pa = true ∧
      (pteV pte.toNat = false ∨ (pteLeaf pte.toNat = false ∨ lvl < 2) ∧ s.mapsOnly (s.mayMap g) lvl pte.toNat = true))
    fun s t => memBytes t.mem pa 8 = natLe 8 pte.toNat ∧ (∀ a, a < pa ∨ pa + 8 ≤ a → memGet t.mem a = memGet s.mem a) ∧
      let c : Tlbi := if lvl = 0 then ⟨2, g.reg.space, va.toNat / 4096 % 2 ^ 45, true⟩ else ⟨1, g.reg.space, 0, true⟩
      t.tlbiNow = some c ∨ c ∈ t.tlbiHeld) ∧
  (∀ h va lvl pte g, Serves (.insoleMappingChange h va lvl pte)
    (fun s => s.graphOf h = some g ∧ pteV pte.toNat = true ∧ (pteLeaf pte.toNat = true ∧ 2 ≤ lvl ∨ s.mapsOnly (s.mayMap g) lvl pte.toNat = false))
    fun s t => t = s) ∧
  (∀ (s : State) g f, s.mayMap g f = true ↔ Label.sub (s.readLab (4096 * f)) g.holds = true ∧
    ∀ x, s.jointFrames.find? (fun x => x.1 == f) = some x → (g.reg.handle, x.2) ∈ s.grants) ∧
  (∀ (s : State) ok e, pteV e = true → pteLeaf e = true → ∀ lvl, s.mapsOnly ok lvl e = true ↔ ∀ i < levelPages lvl, ok (ptePFN e + i) = true) ∧
  (∀ (s : State) ok e l, pteV e = true → pteLeaf e = false →
    (s.mapsOnly ok (l + 1) e = true ↔ ∀ i < 512, s.mapsOnly ok l (s.readPte (ptePFN e * 4096 + 8 * i)) = true)) ∧
  (∀ pa lab,
    let f := frameOf pa
    let l := Label.clear0 lab
    let Free := fun (s : State) => Sound s ∧ deviceOk (4096 * f) = true ∧ s.outOfService f = false ∧ s.frameHeld f = false ∧ s.tlbiNow = none ∧
      s.canIntern l = true
    let Given := fun (s t : State) (owner : Option Nat) => t.tagOf pa = ⟨f, l, owner, false⟩ ∧ (t.handle? l).isSome = true ∧
      (if (s.tagOf pa).stays l owner then t.mem = s.mem else FrameZero t f) ∧ ∀ a, frameOf a ≠ f → memGet t.mem a = memGet s.mem a
    (∀ h g, Serves (.frameTagWrite pa lab (.assign h)) (fun s => Free s ∧ s.graphOf h = some g ∧ Label.sub l g.holds = true) fun s t => Given s t (some h)) ∧
    (∀ h g, Serves (.frameTagWrite pa lab (.assign h)) (fun s => s.graphOf h = some g ∧ Free s ∧ Label.sub l g.holds = false) fun s t => t = s) ∧
    Serves (.frameTagWrite pa lab .joint) (fun s => Free s ∧ (f, l) ∈ s.jointFrames) (fun s t => Given s t none) ∧
    Serves (.frameTagWrite pa lab .joint) (fun s => Free s ∧ (f, l) ∉ s.jointFrames) (fun s t => t = s) ∧
    Serves (.frameTagWrite pa lab .free) Free
      (fun s t => t.tagOf pa = ⟨f, (s.tagOf pa).lab, none, true⟩ ∧ t.mem = s.mem ∧ ∀ x ∈ t.jointFrames, x.1 ≠ f) ∧
    ∀ why, Serves (.frameTagWrite pa lab why) (fun s => s.frameHeld f = false ∧ s.tlbiNow = none ∧ s.outOfService f = true) (fun s t => t = s) ∧
      Serves (.frameTagWrite pa lab why) (fun s => s.frameHeld f = true ∨ s.tlbiNow ≠ none) fun s t => t = s.holdStep (.frameTagWrite pa lab why)) ∧
  (∀ (t : Tag) l o, t.stays l o = true ↔ t.zeroing = false ∧ t.owner = o ∧ (t.lab = l ∨ o ≠ none ∧ Label.sub t.lab l = true)) ∧
  (∀ r : JointReq, Serves (.jointRegionRequest r)
    (fun s => Sound s ∧ s.tlbiNow = none ∧ 2 ≤ Label.count r.lset ∧ Label.clear0 r.lset = r.lset ∧ s.signedBy r.lset r.sigs r.body = true ∧
      s.canIntern r.lset = true ∧
      ∀ f ∈ r.frames, deviceOk (4096 * f) = true ∧ s.outOfService f = false ∧ s.frameHeld f = false ∧ (s.tagOf (4096 * f)).owner = none)
    fun s t => (∀ f ∈ r.frames, (t.tagOf (4096 * f)).lab = r.lset ∧ (t.tagOf (4096 * f)).owner = none ∧ (f, r.lset) ∈ t.jointFrames ∧
        ((s.tagOf (4096 * f)).stays r.lset none = false → FrameZero t f)) ∧
      (∀ h ∈ r.handles, t.grantOf h = Label.join (s.grantOf h) r.lset) ∧
      t.graphs = s.graphs.map fun (g : Graph) => if r.handles.contains g.reg.handle then { g with holds := Label.join g.holds r.lset } else g) ∧
  (∀ r : JointReq, Serves (.jointRegionRequest r) (fun s => s.tlbiNow ≠ none) fun s t => t = s.holdStep (.jointRegionRequest r)) ∧
  (∀ r : JointReq, Serves (.jointRegionRequest r)
    (fun s => s.tlbiNow = none ∧ (Label.count (Label.clear0 r.lset) < 2 ∨ s.signedBy (Label.clear0 r.lset) r.sigs r.body = false)) fun s t => t = s)

/-- POLICY_INSTALL and POLICY_REMOVE (R210, R211): a policy whose fields are in range, that every origin of its set has signed and that has not expired takes a free entry (which one is not fixed, log entry 3); a signer removes it, and anyone once it has expired. GRAPH_REGISTRATION (R61, R67, R204, R386, R391): a bundle that passes
the checks is registered, its relocations resolved, with the origins it holds; during an invalidation it waits. LABEL_TABLE_RECLAIM (R194, R196): entries that no holder names leave the table. TENANT_ENROLMENT (R193, R208), LABEL_DOMAIN_ENROLMENT (R271). -/
def Sys2Proof.Claims.PoliciesGraphsAndTenants : Prop :=
  (∀ bs, Serves (.policyInstall bs)
    (fun s => policyFieldsOk bs = true ∧ s.signedBy (policyLset bs) (policySigs bs) (bs.take 128) = true ∧ s.tstep < fieldAt bs 0x48 8 ∧
      ∃ i < 256, ∀ p ∈ s.policies, p.idx ≠ i)
    fun s t => ∃ p, t.policies = p :: s.policies ∧ p.idx < 256 ∧ (∀ q ∈ s.policies, q.idx ≠ p.idx) ∧ p.lset = policyLset bs ∧
      p.dest = fieldAt bs 0x28 8 ∧ p.dlo = fieldAt bs 0x30 8 ∧ p.dhi = fieldAt bs 0x38 8 ∧ p.remaining = fieldAt bs 0x40 8 ∧
      p.expiry = fieldAt bs 0x48 8) ∧
  (∀ bs, Serves (.policyInstall bs)
    (fun s => policyFieldsOk bs = false ∨ s.signedBy (policyLset bs) (policySigs bs) (bs.take 128) = false ∨ fieldAt bs 0x48 8 ≤ s.tstep ∨
      ∀ i < 256, ∃ p ∈ s.policies, p.idx = i) fun s t => t = s) ∧
  (∀ i g, Serves (.policyRemove i g) (fun _ => True) fun s t => t = { s with policies := t.policies } ∧
    ∀ p, p ∈ t.policies ↔ p ∈ s.policies ∧ ¬(p.idx = i ∧ (g ∈ p.signers ∨ p.expiry ≤ s.tstep))) ∧
  (∀ g : GraphReg, Serves (.graphRegistration g)
    (fun s => let holds := Label.join (Label.ofSlot g.slot) (s.grantOf g.handle)
      s.tlbiNow = none ∧ s.regOk g holds = true ∧
      ∃ s1 x, ((s.internRelocs g).bind fun s => s.internAll (holds :: g.nodes.map (·.clab))) = some s1 ∧ s1.handlesFit g = true ∧
        (g.tables.foldl State.zeroFrame s1).mapPages g.root ((g.allPages.map fun p => (4096 * p.1, p.2.2)).dedup)
          (g.tables.filter (· != g.root / 4096)) = some x)
    fun s t => t.graphs = s.graphs ++ [⟨g.resolve, Label.join (Label.ofSlot g.slot) (s.grantOf g.handle)⟩]) ∧
  (∀ g : GraphReg, Serves (.graphRegistration g)
    (fun s => s.tlbiNow = none ∧ s.regOk g (Label.join (Label.ofSlot g.slot) (s.grantOf g.handle)) = false) fun s t => t = s) ∧
  (∀ g : GraphReg, Serves (.graphRegistration g) (fun s => s.tlbiNow ≠ none) fun s t => t = s.holdStep (.graphRegistration g)) ∧
  (∀ hs, Serves (.labelTableReclaim hs) (fun _ => True) fun s t => t = { s with labels := t.labels } ∧
    ∀ e, e ∈ t.labels ↔ e ∈ s.labels ∧ ¬(e.1 ∈ hs ∧ e.2 ∉ s.heldLabels)) ∧
  (∀ e : Enrol, Serves (.tenantEnrolment e)
    (fun s => 0 < e.slot ∧ e.slot < 256 ∧ (s.tenantKey e.slot = none ∨ s.slotNamed e.slot = false))
    fun _ t => t.tenantKey e.slot = some e.key ∧ ∀ f, e.func = some f → t.funcLab f = Label.ofSlot e.slot) ∧
  (∀ e : Enrol, Serves (.tenantEnrolment e) (fun s => (s.tenantKey e.slot).isSome = true ∧ s.slotNamed e.slot = true) fun s t => t = s) ∧
  (∀ i ms, ms.Nodup → (∀ m ∈ ms, m < 32) → i ∈ ms → Serves (.labelDomainEnrolment i ms) (fun _ => True)
    fun s t => t = { s with domain := some i, members := ms })

/-! ### The board -/

/-- CSR_VIEW_WRITE (R154, R191, R253, R267, R268, R389): a write of eight aligned bytes to a register of the view; ELHEAD_WRITE (R262, R268) moves the reading end of a log and clears its overflow bit. -/
def Sys2Proof.Claims.ViewWritesReachTheirRegister : Prop :=
  (∀ func v, Serves (.csrViewWrite func 0x5008 8 v) (fun s => s.tdiError func = false)
    fun s t => (t.mailboxOf func).head = v.toNat % 2 ^ 32 ∧ (t.mailboxOf func).tail = (s.mailboxOf func).tail ∧
      (t.mailboxOf func).recs = (s.mailboxOf func).recs) ∧
  (∀ func v, Serves (.csrViewWrite func 0x5010 8 v) (fun s => s.tdiError func = false)
    fun s t => t = if v.getLsbD 63 then s.fmAbort func (v.toNat % 2 ^ 32)
      else if s.tlbiNow = none then s.fmResume func (v.toNat % 2 ^ 32) else s.holdStep (.fmresumeResume func (v.toNat % 2 ^ 32))) ∧
  (∀ f v, f < 256 → Serves (.csrViewWrite 0 (0x2000 + 8 * f) 8 v) (fun s => s.tdiError 0 = false)
    fun s t => t = { s with l2mask := t.l2mask } ∧ t.maskOf f = v.toNat % 2 ^ 16 ∧ ∀ g, g ≠ f → t.maskOf g = s.maskOf g) ∧
  (∀ v, Serves (.csrViewWrite 0 0x3000 8 v) (fun s => s.tdiError 0 = false)
    fun s t => t = { s with tlbiVa := v &&& 0x01FFFFFFFFFFF000#64 }) ∧
  (∀ w v, w < 256 → Serves (.csrViewWrite 0 (0x7800 + 8 * w) 8 v) (fun s => s.tdiError 0 = false)
    fun s t => t = { s with hwin := t.hwin } ∧ t.hwinOf w = ⟨w, v.toNat / 2 ^ 32, v.getLsbD 31, v.toNat % 256⟩ ∧
      ∀ x, x ≠ w → t.hwinOf x = s.hwinOf x) ∧
  (∀ func off width v, Serves (.csrViewWrite func off width v) (fun s => width ≠ 8 ∨ off % 8 ≠ 0 ∨ s.tdiError func = true) fun s t => t = s) ∧
  (∀ func v, Serves (.elheadWrite func v) (fun s => s.tdiError func = false)
    fun s t => t = { s with logs := t.logs } ∧ (t.logOf func).head = v.toNat ∧ (t.logOf func).overflow = false ∧
      (t.logOf func).recs = (s.logOf func).recs ∧ (t.logOf func).tail = (s.logOf func).tail ∧ ∀ g, g ≠ func → t.logOf g = s.logOf g) ∧
  (∀ func v, Serves (.elheadWrite func v) (fun s => s.tdiError func = true) fun s t => t = s)

/-- BIST_REQUEST and BIST_DONE (R260, R261), MODULE_RESET (R10, R11, R274), KEY_SLOT_FILL and KEY_SLOT_REVOKE (R273), GOLDEN_IMAGE_REPLACE (R274), MCTP_REQUEST (R275). A self-test names units of the table alone. What a reset keeps is the model's choice (log entry 60). -/
def Sys2Proof.Claims.SelfTestResetAndKeys : Prop :=
  (∀ v, Serves (.bistRequest v) (fun s => v.getLsbD 63 = true ∧ s.bistSel = none) fun s t => t = { s with bistSel := some (v.toNat % 128) }) ∧
  (∀ sel fail, Serves (.bistDone fail)
    (fun s => s.bistSel = some sel ∧ (∀ k ∈ s.cores, k.task = none ∨ inBist sel k.id = false) ∧ ∀ u, fail = some u → unitOk u = true)
    fun s t => t.bistSel = none ∧ t.bistFail = fail ∧ (fail = none → t.logs = s.logs) ∧
      ∀ u, fail = some u → Recorded s t 0x0802 1 0 (u % 2 ^ 32) (BitVec.ofNat 64 u) 0) ∧
  (∀ sel fail, Serves (.bistDone fail)
    (fun s => s.bistSel = none ∨ s.bistSel = some sel ∧ ((∃ k ∈ s.cores, k.task ≠ none ∧ inBist sel k.id = true) ∨ ∃ u, fail = some u ∧ unitOk u = false))
    fun s t => t = s) ∧
  (∀ (r : ResetIn) (s : State), let fs := r.fails.filter unitOk
    bistPasses fs = true → r.fwrec = true ∨ s.imageOk r.insole = true ∧ s.imageOk r.upper = true →
    ∃ t, exec (.moduleReset r) s = .next t ∧ t.inReset = false ∧ t.viral = false ∧ t.tstep = 0 ∧ t.mem = [] ∧ t.graphs = [] ∧ t.kerns = [] ∧
      t.core.task = none ∧ t.keys = s.keys ∧ t.golden = s.golden ∧ t.flash = (r.insole, r.upper) ∧ t.fwrec = r.fwrec ∧ t.host = s.host ∧
      t.peers = s.peers ∧ t.domain = s.domain ∧ t.members = s.members ∧ t.tenants = s.tenants ∧ t.bistFail = fs.head? ∧
      (∀ p : Fin 18, t.lanes[p] = lanesAfter fs p.val) ∧ (∀ u ∈ fs, isChannel u = true → (unitDie u, unitIndex u) ∈ t.fenced) ∧
      ∀ d < 8, t.clen[Fin.ofNat 8 d] = clenAfter fs d) ∧
  (∀ (r : ResetIn) (s : State), let fs := r.fails.filter unitOk
    bistPasses fs = false ∨ r.fwrec = false ∧ (s.imageOk r.insole = false ∨ s.imageOk r.upper = false) →
    ∃ t, exec (.moduleReset r) s = .next t ∧ t.inReset = true) ∧
  (∀ slot key signer sig (s : State), slot < 4 → (s.keySlot slot).filled = false → s.signedByOther slot signer (natLe 1 slot ++ key) sig = true →
    ∃ t, exec (.keySlotFill slot key signer sig) s = .next t ∧ t = { s with keys := t.keys } ∧ t.keySlot slot = ⟨key, true, false⟩ ∧
      ∀ i < 4, i ≠ slot → t.keySlot i = s.keySlot i) ∧
  (∀ slot signer sig (s : State), slot < 4 → (s.keySlot slot).usable = true → s.signedByOther slot signer (natLe 1 slot) sig = true →
    (∃ i < 4, i ≠ slot ∧ (s.keySlot i).usable = true) →
    ∃ t, exec (.keySlotRevoke slot signer sig) s = .next t ∧ t = { s with keys := t.keys } ∧ (t.keySlot slot).usable = false ∧
      ∀ i < 4, i ≠ slot → t.keySlot i = s.keySlot i) ∧
  (∀ img sig (s : State), s.fwrec = true → s.imageOk (img, sig) = true →
    exec (.goldenImageReplace img sig) s = .next { s with golden := (img, sig) }) ∧
  (∀ img sig (s : State), s.fwrec = false ∨ s.imageOk (img, sig) = false → exec (.goldenImageReplace img sig) s = .next s) ∧
  (∀ s : State, exec (.mctpRequest .spdm) s = .next { s with reply := .mctp s.measurements }) ∧
  (∀ s : State, exec (.mctpRequest .readBist) s = .next { s with reply := .mctp (natLe 8 s.bistRes.toNat) }) ∧
  (∀ n x r (s : State), ((s.logOf 0).recs.find? fun r => r.1 == n % 64) = some (x, r) →
    exec (.mctpRequest (.readLog n)) s = .next { s with reply := .mctp r.bytes })

/-- The errors that memories find, as they stand at LOAD_PERFORM on an empty queue (R157, R256, R259, R260, R263): each writes its record, an uncorrectable unit that no access in flight needs is poisoned from then on, an uncorrectable scratchpad line is marked, and an error in the label table, in Insole's state or in a frame tag turns
the module viral. -/
def Sys2Proof.Claims.MemoryErrorsAreRecorded : Prop :=
  ∀ c st page install,
    let Finds := fun (e : Ecc) (pre : State → Prop) (post : State → State → Prop) =>
      AtCore (.loadPerform c st page ⟨install, some e⟩) c (fun f => (f.strm st).lqHead = none ∧ pre f) post
    (∀ pa n, deviceOk pa = true → Finds (.hbmCorrected pa n) (fun _ => True)
      fun f u => u = { f with logs := u.logs } ∧ Recorded f u 0x0101 0 0 (channelUnit pa) (BitVec.ofNat 64 pa) (BitVec.ofNat 64 n)) ∧
    (∀ pa, deviceOk pa = true → Finds (.hbmUncorrectable pa) (fun f => f.unitInUse (lineOf pa) = false)
      fun f u => lineOf pa ∈ u.poison ∧ (∀ l ∈ u.core.l1, l.line ≠ lineOf pa) ∧ (∀ x ∈ u.rdc, x.2.line ≠ lineOf pa) ∧
        Recorded f u 0x0102 1 0 (channelUnit pa) (BitVec.ofNat 64 pa) 0) ∧
    (∀ n, Finds (.sramCorrected n) (fun _ => True)
      fun f u => u = { f with logs := u.logs } ∧ Recorded f u 0x0105 0 0 n (BitVec.ofNat 64 (n % 2 ^ 12)) 0) ∧
    (∀ d l, d < 1024 → l < 6144 → Finds (.scratchLine d l) (fun f => (f.coreOf d).id = d) fun _ u => l ∈ (u.coreOf d).scrBad) ∧
    (∀ h, Finds (.labelEntry h) (fun f => ∃ e ∈ f.labels, e.1 = h)
      fun f u => u.viral = true ∧ Recorded f u 0x0701 2 0 0 (BitVec.ofNat 64 h) 0) ∧
    (∀ n, Finds (.insoleState n) (fun _ => True) fun f u => u.viral = true ∧ Recorded f u 0x0703 2 0 0 (BitVec.ofNat 64 n) 0) ∧
    ∀ pa, deviceOk pa = true → Finds (.frameTag pa) (fun _ => True) fun f u => u.viral = true ∧ Recorded f u 0x0704 2 0 0 (BitVec.ofNat 64 pa) 0

/-- FRAME_RETIRE (R10, R12, R247), PSEUDO_CHANNEL_FENCE (R10, R156), STRAP_LANE_DOWN (R10, R272), THERMAL_THROTTLE and OVER_TEMP_SHUTDOWN (R276; which sensor has which number is the model's choice, log entry 75), TDISP_REQUEST (R268), HOST_LINK_ERROR_CORRECTED (R263). -/
def Sys2Proof.Claims.PartsLeaveService : Prop :=
  (∀ old new s', Serves (.frameRetire old new) (fun s => s.migrate old new = some s')
    fun _ t => old ∈ t.retired ∧ t.mem = s'.mem ∧ t.tags = s'.tags ∧ t.graphs = s'.graphs ∧
      Recorded s' t 0x0103 1 0 0 (BitVec.ofNat 64 (4096 * old)) (BitVec.ofNat 64 (4096 * new))) ∧
  (∀ old new, Serves (.frameRetire old new) (fun s => s.migrate old new = none) fun s t => t = s) ∧
  (∀ (s : State) old new s', s.migrate old new = some s' → s.tlbiNow = none ∧ s.frameBusy old = false ∧ s.freeFrame new = true ∧
    s'.dtlb = [] ∧ (∀ k ∈ s'.cores, k.utlb = [] ∧ k.l2tlb = []) ∧
    (old ≠ new → (∀ x ∈ s'.poison, x / 64 ≠ old) ∧ s'.tagOf (4096 * old) = ⟨old, 0, none, true⟩ ∧ s'.tagOf (4096 * new) = { s.tagOf (4096 * old) with frame := new })) ∧
  (∀ d ch moves s',
    let on := fun (f : Nat) => homeDie (4096 * f) == d && channelOf (4096 * f) == ch
    let Used := fun (s : State) (f : Nat) => f ∉ s.retired ∧ ((∃ t ∈ s.tags, t.frame = f ∧ (t.owner ≠ none ∨ t.lab ≠ 0)) ∨
      (∃ g ∈ s.graphs, f ∈ g.reg.tables) ∨ (∃ x ∈ s.mem, frameOf x.1 = f) ∨ (∃ x ∈ s.qcbMoved, x.2 = f) ∨ s.qcbBase / 4096 ≤ f ∧ f < s.qcbBase / 4096 + 256)
    d < 8 → ch < 128 → (∀ m ∈ moves, on m.1 = true ∧ on m.2 = false) → Serves (.pseudoChannelFence d ch moves)
      (fun s => s.fenced.contains (d, ch) = false ∧ s.migrateAll moves = some s' ∧ ∀ f, on f = true → Used s f → ∃ m ∈ moves, m.1 = f)
      fun _ t => (d, ch) ∈ t.fenced ∧ t.mem = s'.mem ∧
        Recorded s' t 0x0104 1 0 (unitName d 15 31 0x12 ch) (BitVec.ofNat 64 ch) (BitVec.ofNat 64 (channelFrames ch))) ∧
  (∀ (p : Fin 18) lane, lane < 4 → Serves (.strapLaneDown p lane) (fun s => s.lanes[p] / 2 ^ lane % 2 = 1 ∧ s.lanes[p] ≠ 2 ^ lane)
    fun s t => t.lanes = s.lanes.set p (s.lanes[p] - 2 ^ lane) ∧
      Recorded s t 0x0201 1 0 (unitName 8 15 31 0x21 (4 * p.val + lane)) (BitVec.ofNat 64 p) (BitVec.ofNat 64 lane)) ∧
  (∀ (p : Fin 18) lane, lane < 4 → Serves (.strapLaneDown p lane) (fun s => s.lanes[p] = 2 ^ lane)
    fun s t => t.lanes = s.lanes.set p 0 ∧ t.logOf 0 = ((s.logOf 0).post
      ⟨0x0201, 1, 0, unitName 8 15 31 0x21 (4 * p.val + lane), s.tstep, BitVec.ofNat 64 p, BitVec.ofNat 64 lane⟩).post
      ⟨0x0202, 1, 0, 0, s.tstep, BitVec.ofNat 64 p, 0⟩) ∧
  (∀ x y, let Hot := fun (s : State) => x = 0 ∧ s.powerCap < y ∨ 1 ≤ x ∧ x ≤ 24 ∧ 95 ≤ y
    Serves (.thermalThrottle x y) Hot
      (fun s t => t = { s with throttle := true, logs := t.logs } ∧ Recorded s t 0x0A01 0 0 0 (BitVec.ofNat 64 x) (BitVec.ofNat 64 y)) ∧
    Serves (.thermalThrottle x y) (fun s => ¬Hot s) fun s t => t = { s with throttle := false }) ∧
  (∀ x y, let Melts := 1 ≤ x ∧ x ≤ 8 ∧ 110 ≤ y ∨ 9 ≤ x ∧ x ≤ 24 ∧ 105 ≤ y
    (Melts → Serves (.overTempShutdown x y) (fun _ => True)
      fun s t => t = { s with viral := true, logs := t.logs } ∧ Recorded s t 0x0A02 2 0 0 (BitVec.ofNat 64 x) (BitVec.ofNat 64 y)) ∧
    (¬Melts → Serves (.overTempShutdown x y) (fun _ => True) fun s t => t = s)) ∧
  (∀ f op, 0 < f → f < 256 → Serves (.tdispRequest f op) (fun _ => True)
    fun s t => t = { s with tdi := t.tdi } ∧ t.tdiOf f = tdiNext (s.tdiOf f) op ∧ ∀ g, g ≠ f → t.tdiOf g = s.tdiOf g) ∧
  (∀ v, Serves (.hostLinkErrorCorrected v) (fun _ => True)
    fun s t => t = { s with logs := t.logs } ∧ Recorded s t 0x0203 0 0 0 v 0)


/-- The steps of firmware, of the management path and of the board. -/
def Obligations.InsoleAndTheBoardAct : Prop :=
  ZeroingAndInvalidation ∧ FramesGetTheirTags ∧ PoliciesGraphsAndTenants ∧ ViewWritesReachTheirRegister ∧ SelfTestResetAndKeys ∧
    MemoryErrorsAreRecorded ∧ PartsLeaveService
end

