-- ==== Sys2Proof/Laws/Memory.lean ====
section
/-! SUPPORT. The laws of a memory: a byte reads as it was last written, every other byte is left alone, and every write keeps the
canonical form. -/

namespace Sys2Proof.Machine
open Sys2Proof

/-- Below its first entry a canonical memory reads as an unlisted byte. -/
theorem memGet_below (m : List Host.Cell) (k a : Nat) (h : memWfFrom k m = true) (ha : a < k) : memGet m a = 0 := by
  cases m with
  | nil => rfl
  | cons e t =>
    obtain ⟨j, b⟩ := e
    simp only [memWfFrom, Bool.and_eq_true, decide_eq_true_eq] at h
    simp only [memGet]
    rw [if_neg (by omega), if_pos (by omega)]

theorem memWfFrom_mono (m : List Host.Cell) (j k : Nat) (h : memWfFrom k m = true) (hj : j ≤ k) : memWfFrom j m = true := by
  cases m with
  | nil => rfl
  | cons e t =>
    obtain ⟨i, b⟩ := e
    simp only [memWfFrom, Bool.and_eq_true, decide_eq_true_eq] at h ⊢
    exact ⟨⟨by omega, h.1.2⟩, h.2⟩

theorem memSet_wfFrom (m : List Host.Cell) (k a : Nat) (b : Byte) (h : memWfFrom k m = true) (ha : k ≤ a) :
    memWfFrom k (memSet m a b) = true := by
  induction m generalizing k with
  | nil =>
    rw [memSet]
    by_cases hb : b = 0
    · rw [if_pos hb]; rfl
    · rw [if_neg hb]
      simp only [memWfFrom, Bool.and_eq_true, decide_eq_true_eq]
      exact ⟨⟨ha, by simpa using hb⟩, trivial⟩
  | cons e t ih =>
    obtain ⟨j, c⟩ := e
    have h' := h
    simp only [memWfFrom, Bool.and_eq_true, decide_eq_true_eq] at h
    obtain ⟨⟨hkj, hc⟩, ht⟩ := h
    simp only [memSet]
    by_cases h1 : a < j
    · rw [if_pos h1]
      by_cases hb : b = 0
      · rw [if_pos hb]; exact h'
      · rw [if_neg hb]
        simp only [memWfFrom, Bool.and_eq_true, decide_eq_true_eq]
        exact ⟨⟨ha, by simpa using hb⟩, ⟨by omega, hc⟩, ht⟩
    · rw [if_neg h1]
      by_cases h2 : a = j
      · rw [if_pos h2]
        by_cases hb : b = 0
        · rw [if_pos hb]; exact memWfFrom_mono t k (j + 1) ht (by omega)
        · rw [if_neg hb]
          subst h2
          simp only [memWfFrom, Bool.and_eq_true, decide_eq_true_eq]
          exact ⟨⟨ha, by simpa using hb⟩, ht⟩
      · rw [if_neg h2]
        simp only [memWfFrom, Bool.and_eq_true, decide_eq_true_eq]
        exact ⟨⟨hkj, hc⟩, ih (j + 1) ht (by omega)⟩

/-- A write of one byte keeps the canonical form. -/
theorem memSet_wf (m : List Host.Cell) (a : Nat) (b : Byte) (h : Memory.wf m = true) : Memory.wf (memSet m a b) = true :=
  memSet_wfFrom m 0 a b h (Nat.zero_le a)

/-- A write of bytes keeps the canonical form. -/
theorem memPut_wf (bs : List Byte) (m : List Host.Cell) (a : Nat) (h : Memory.wf m = true) : Memory.wf (memPut m a bs) = true := by
  induction bs generalizing m a with
  | nil => exact h
  | cons b r ih => exact ih _ _ (memSet_wf m a b h)

theorem memGet_memSet_from (m : List Host.Cell) (k a c : Nat) (b : Byte) (h : memWfFrom k m = true) :
    memGet (memSet m a b) c = if c = a then b else memGet m c := by
  induction m generalizing k with
  | nil =>
    rw [memSet]
    by_cases hb : b = 0
    · rw [if_pos hb, hb]; simp [memGet]
    · rw [if_neg hb]
      by_cases hc : c = a
      · subst hc; simp [memGet]
      · simp [memGet, hc, Ne.symm hc]
  | cons e t ih =>
    obtain ⟨j, d⟩ := e
    simp only [memWfFrom, Bool.and_eq_true, decide_eq_true_eq] at h
    obtain ⟨⟨hkj, hd⟩, ht⟩ := h
    simp only [memSet]
    by_cases h1 : a < j
    · rw [if_pos h1]
      by_cases hb : b = 0
      · rw [if_pos hb]
        by_cases hc : c = a
        · subst hc
          rw [if_pos rfl, hb]
          simp only [memGet]
          rw [if_neg (by omega), if_pos h1]
        · rw [if_neg hc]
      · rw [if_neg hb]
        by_cases hc : c = a
        · subst hc; simp [memGet]
        · rw [if_neg hc]
          simp only [memGet]
          rw [if_neg (Ne.symm hc)]
          by_cases hca : c < a
          · rw [if_pos hca, if_neg (by omega), if_pos (by omega)]
          · rw [if_neg hca]
    · rw [if_neg h1]
      by_cases h2 : a = j
      · subst h2
        rw [if_pos rfl]
        by_cases hb : b = 0
        · rw [if_pos hb]
          by_cases hc : c = a
          · subst hc
            rw [if_pos rfl, hb]
            exact memGet_below t (c + 1) c ht (by omega)
          · rw [if_neg hc]
            simp only [memGet]
            rw [if_neg (Ne.symm hc)]
            by_cases hca : c < a
            · rw [if_pos hca]; exact memGet_below t (a + 1) c ht (by omega)
            · rw [if_neg hca]
        · rw [if_neg hb]
          by_cases hc : c = a
          · subst hc; simp [memGet]
          · rw [if_neg hc]
            simp only [memGet]
            rw [if_neg (Ne.symm hc), if_neg (Ne.symm hc)]
      · rw [if_neg h2]
        simp only [memGet]
        by_cases hjc : j = c
        · rw [if_pos hjc, if_neg (by omega), if_pos hjc]
        · rw [if_neg hjc, if_neg hjc]
          by_cases hcj : c < j
          · rw [if_pos hcj, if_neg (by omega), if_pos hcj]
          · rw [if_neg hcj, if_neg hcj]; exact ih (j + 1) ht

/-- A read after a write: the byte written, and every other byte as before. -/
theorem memGet_memSet (m : List Host.Cell) (a c : Nat) (b : Byte) (h : Memory.wf m = true) :
    memGet (memSet m a b) c = if c = a then b else memGet m c :=
  memGet_memSet_from m 0 a c b h

/-- Bytes written from an address leave every byte outside their run alone. -/
theorem memGet_memPut_outside (bs : List Byte) (m : List Host.Cell) (a c : Nat) (h : Memory.wf m = true)
    (hc : c < a ∨ a + bs.length ≤ c) : memGet (memPut m a bs) c = memGet m c := by
  induction bs generalizing m a with
  | nil => rfl
  | cons b r ih =>
    simp only [List.length_cons] at hc
    simp only [memPut]
    rw [ih _ _ (memSet_wf m a b h) (by omega), memGet_memSet m a c b h, if_neg (by omega)]

/-- Bytes written from an address read back. -/
theorem memGet_memPut_inside (bs : List Byte) (m : List Host.Cell) (a i : Nat) (h : Memory.wf m = true) (hi : i < bs.length) :
    memGet (memPut m a bs) (a + i) = bs[i] := by
  induction bs generalizing m a i with
  | nil => simp at hi
  | cons b r ih =>
    simp only [memPut]
    cases i with
    | zero =>
      rw [memGet_memPut_outside r _ _ _ (memSet_wf m a b h) (by omega), Nat.add_zero, memGet_memSet m a a b h, if_pos rfl]
      rfl
    | succ i =>
      have := ih (memSet m a b) (a + 1) i (memSet_wf m a b h) (by simpa using hi)
      simpa [Nat.add_assoc, Nat.add_comm 1 i] using this

/-- Canonical memories that read alike are equal. -/
theorem memory_ext_from (m n : List Host.Cell) (k : Nat) (hm : memWfFrom k m = true) (hn : memWfFrom k n = true)
    (h : ∀ a, memGet m a = memGet n a) : m = n := by
  induction m generalizing n k with
  | nil =>
    cases n with
    | nil => rfl
    | cons e t =>
      obtain ⟨j, b⟩ := e
      simp only [memWfFrom, Bool.and_eq_true, decide_eq_true_eq] at hn
      have := h j
      simp [memGet] at this
      simp [← this] at hn
  | cons e t ih =>
    obtain ⟨j, b⟩ := e
    have hm' := hm
    simp only [memWfFrom, Bool.and_eq_true, decide_eq_true_eq] at hm
    cases n with
    | nil =>
      have := h j
      simp [memGet] at this
      simp [this] at hm
    | cons f u =>
      obtain ⟨i, c⟩ := f
      have hn' := hn
      simp only [memWfFrom, Bool.and_eq_true, decide_eq_true_eq] at hn
      have hij : i = j := by
        rcases Nat.lt_trichotomy i j with hlt | heq | hgt
        · have := h i
          rw [memGet, if_neg (Nat.ne_of_gt hlt), if_pos hlt, memGet, if_pos rfl] at this
          rw [← this] at hn
          exact absurd hn.1.2 (by decide)
        · exact heq
        · have := h j
          rw [memGet, if_pos rfl, memGet, if_neg (Nat.ne_of_gt hgt), if_pos hgt] at this
          rw [this] at hm
          exact absurd hm.1.2 (by decide)
      subst hij
      have hbc : b = c := by simpa [memGet] using h i
      subst hbc
      have htu : ∀ a, memGet t a = memGet u a := by
        intro a
        by_cases ha : a ≤ i
        · rw [memGet_below t (i + 1) a hm.2 (by omega), memGet_below u (i + 1) a hn.2 (by omega)]
        · have := h a
          simpa [memGet, if_neg (by omega : ¬ i = a), if_neg (by omega : ¬ a < i)] using this
      rw [ih u (i + 1) hm.2 hn.2 htu]

/-- Equal memories are equal data. -/
theorem memory_ext (m n : List Host.Cell) (hm : Memory.wf m = true) (hn : Memory.wf n = true)
    (h : ∀ a, memGet m a = memGet n a) : m = n := memory_ext_from m n 0 hm hn h

/-- Device memory is empty, and so canonical, after reset. -/
theorem reset_mem_wf : Memory.wf State.reset.mem = true := rfl

end Sys2Proof.Machine
end

