-- ==== Sys2Proof/Laws/Events.lean ====
section
/-! SUPPORT. The forms in which a step that is no instruction word is claimed, error records, and what a translation changes. -/

namespace Sys2Proof.Machine
open Sys2Proof

/-! ### The forms -/

theorem State.focus_viral (s : State) (c : Nat) : (s.focus c).viral = s.viral := by unfold State.focus; split <;> rfl
theorem State.focus_inReset (s : State) (c : Nat) : (s.focus c).inReset = s.inReset := by unfold State.focus; split <;> rfl

/-- A step of the hub, of a device or of firmware. -/
theorem serves_of {e : Instr} {f : State → State} {pre : State → Prop} {post : State → State → Prop}
    (hx : ∀ s, exec e s = s.service f) (h : ∀ s, s.viral = false → pre s → post s (f s)) : Serves e pre post := by
  intro s hv hr hp
  exact ⟨f s, by rw [hx]; simp [State.service, hr], h s hv hp⟩

/-- A step of a core's queues. -/
theorem atCore_queue {e : Instr} {c : Nat} {f : State → State} {pre : State → Prop} {post : State → State → Prop}
    (hx : ∀ s, exec e s = s.queueStep c f) (h : ∀ s, s.viral = false → pre s → post s (f s)) : AtCore e c pre post := by
  intro s hv hr hp
  refine ⟨f (s.focus c), ?_, h _ ((s.focus_viral c).trans hv) hp⟩
  rw [hx]; simp [State.queueStep, hr, State.focusing]

/-- A step of a core's streams and engines. -/
theorem atCore_step {e : Instr} {c : Nat} {f : State → State} {pre : State → Prop} {post : State → State → Prop}
    (hx : ∀ s, exec e s = s.coreStep c f) (h : ∀ s, s.viral = false → pre s → post s (f s)) : AtCore e c pre post := by
  intro s hv hr hp
  refine ⟨f (s.focus c), ?_, h _ ((s.focus_viral c).trans hv) hp⟩
  rw [hx]; simp [State.coreStep, hv, hr, State.focusing]

/-! ### Lists by key, error records (R262) -/

/-- The first entry of a kind, where entries of another kind have gone. -/
theorem find_filter_of {α : Type} (l : List α) (p q : α → Bool) (h : ∀ x, p x = true → q x = true) : (l.filter q).find? p = l.find? p := by
  induction l with
  | nil => rfl
  | cons a t ih =>
    by_cases hq : q a = true
    · simp [hq, ih, List.find?_cons]
    · have : p a = false := by
        by_contra hc
        simp only [Bool.not_eq_false] at hc
        exact hq (h _ hc)
      simp [hq, ih, this]

theorem State.logOf_func (s : State) (f : Nat) : (s.logOf f).func = f := by
  unfold State.logOf
  cases h : s.logs.find? fun l => l.func == f with
  | none => rfl
  | some l => simpa using List.find?_some h

theorem State.logOf_setLog (s : State) (l : ErrLog) (g : Nat) : (s.setLog l).logOf g = if g = l.func then l else s.logOf g := by
  unfold State.logOf State.setLog
  by_cases h : g = l.func
  · simp [h]
  · have hb : (l.func == g) = false := by simpa using fun h' => h h'.symm
    simp only [List.find?_cons, hb, h, if_false]
    rw [find_filter_of]
    intro x hx
    simp only [beq_iff_eq, bne_iff_ne, ne_eq] at hx ⊢
    rw [hx]; exact h

/-- A record reaches the logs of R262. -/
theorem recorded_errRec (s : State) (code sev func unit : Nat) (d0 d1 : W64) :
    Recorded s (s.errRec code sev func unit d0 d1) code sev func unit d0 d1 := by
  unfold Recorded State.errRec
  constructor
  · by_cases hs : sev = 2 <;> by_cases hf : func = 0 <;> simp only [hs, hf, if_true, if_false]
    all_goals first
      | (show State.logOf (State.setLog _ _) 0 = _
         rw [State.logOf_setLog]
         simp [ErrLog.post, State.logOf_func]
         done)
      | (show State.logOf (State.setLog (State.setLog _ _) _) 0 = _
         rw [State.logOf_setLog, if_neg, State.logOf_setLog]
         · simp [ErrLog.post, State.logOf_func]
         · simpa [ErrLog.post, State.logOf_func] using fun h => hf h.symm)
  · intro hf
    by_cases hs : sev = 2 <;> simp only [hs, hf, if_true, if_false]
    all_goals
      show State.logOf (State.setLog (State.setLog _ _) _) func = _
      rw [State.logOf_setLog, State.logOf_setLog]
      simp [ErrLog.post, State.logOf_func, hf]

/-- A record changes the logs, and one of severity 2 the viral state (R259). -/
theorem State.errRec_rest (s : State) (code sev func unit : Nat) (d0 d1 : W64) :
    s.errRec code sev func unit d0 d1 =
      { s with logs := (s.errRec code sev func unit d0 d1).logs, viral := if sev = 2 then true else s.viral } := by
  unfold State.errRec
  by_cases hs : sev = 2 <;> by_cases hf : func = 0 <;> simp only [hs, hf, if_true, if_false] <;> rfl

/-! ### What a translation changes (R186, R187, R189) -/

/-- Only memory, with the copies of its lines, and cached translations differ. -/
def State.Walked (s t : State) : Prop :=
  t = { s with
    mem := t.mem, rdc := t.rdc, dtlb := t.dtlb
    core := { s.core with l1 := t.core.l1, utlb := t.core.utlb, l2tlb := t.core.l2tlb, walks := t.core.walks } }

theorem State.Walked.refl (s : State) : s.Walked s := rfl
theorem State.Walked.trans {s t u : State} (h : s.Walked t) (g : t.Walked u) : s.Walked u := by
  unfold State.Walked at *
  rw [g, h]

theorem walked_walk (space va : Nat) (n : Nat) : ∀ (s : State) (lvl table : Nat) (t : State) (l : Leaf),
    s.walk space va n lvl table = .ok (t, l) → s.Walked t := by
  induction n with
  | zero => intro s lvl table t l h; simp [State.walk] at h
  | succ n ih =>
    intro s lvl table t l h
    unfold State.walk at h
    simp only at h
    split at h
    · cases h
    · split at h
      · cases h
      · split at h
        · cases h
        · split at h
          · split at h
            · cases h
            · refine State.Walked.trans ?_ (ih _ _ _ _ _ h)
              split
              · rfl
              · rfl
          · split at h
            · cases h
            · simp only [Except.ok.injEq, Prod.mk.injEq] at h
              rw [← h.1]; rfl

theorem walked_updateAD {s t : State} {l m : Leaf} {va : Nat} {k : Acc} (h : s.updateAD l va k = some (t, m)) : s.Walked t := by
  have key : ∀ (new old : Nat) (a b : State × Leaf), s.Walked a.1 → s.Walked b.1 →
      (if new = old then some a else if s.readPte (l.pte + 8 * l.member va) = old then some b else none) = some (t, m) → s.Walked t := by
    intro new old a b ha hb h
    split at h
    · cases h; exact ha
    · split at h
      · cases h; exact hb
      · cases h
  unfold State.updateAD at h
  refine key _ _ _ _ ?_ ?_ h
  · exact State.Walked.refl s
  · rfl

theorem walked_finishLeaf {s t : State} {p : Pipe} {va : Nat} {k : Acc} {l : Leaf} {x : Nat × Bool}
    (h : s.finishLeaf p va k l = .ok (some (t, x))) : s.Walked t := by
  unfold State.finishLeaf at h
  split at h
  · cases h
  · split at h
    · cases h
    · split at h
      · cases h
      · rename_i u m hu
        simp only [Except.ok.injEq, Option.some.injEq, Prod.mk.injEq] at h
        rw [← h.1]
        exact (walked_updateAD hu).trans rfl

/-- A translation changes memory, in the A and D bits, with the copies of those lines, and cached translations. -/
theorem walked_translate {s t : State} {p : Pipe} {va : W64} {k : Acc} {x : Nat × Bool} (h : s.translate p va k = .ok (t, x)) :
    s.Walked t := by
  have hf : ∀ (s t : State) (l : Leaf) (x : Nat × Bool) (e : Except TErr (State × Nat × Bool)),
      (match s.finishLeaf p va.toNat k l with
        | .error x => (.error x : Except TErr (State × Nat × Bool))
        | .ok (some r) => .ok r
        | .ok none => e) = .ok (t, x) → s.Walked t ∨ e = .ok (t, x) := by
    intro s t l x e h
    split at h
    · cases h
    · rename_i r hr
      simp only [Except.ok.injEq] at h
      subst h
      exact .inl (walked_finishLeaf hr)
    · exact .inr h
  unfold State.translate at h
  split at h
  · rename_i tk _
    unfold State.translateIn at h
    split at h
    · cases h
    · have fresh : ∀ (a b : Nat), (match s.walk tk.space va.toNat 5 a b with
          | .error x => (.error x : Except TErr (State × Nat × Bool))
          | .ok (s, l) =>
            match s.finishLeaf p va.toNat k l with
            | .error x => .error x
            | .ok (some r) => .ok r
            | .ok none => .error (.fault (cNotPresent l.lvl))) = .ok (t, x) → s.Walked t := by
        intro a b h
        split at h
        · cases h
        · rename_i u l hu
          rcases hf _ _ _ _ _ h with hh | hh
          · exact (walked_walk _ _ _ _ _ _ _ _ hu).trans hh
          · cases hh
      simp only at h
      split at h
      · exact fresh _ _ h
      · rcases hf _ _ _ _ _ h with hh | hh
        · exact hh
        · exact fresh _ _ hh
  · split at h
    · cases h
    · split at h
      · simp only [Except.ok.injEq, Prod.mk.injEq] at h
        rw [← h.1]; rfl
      · cases h

end Sys2Proof.Machine
end

