-- ==== Sys2Proof/Laws/State.lean ====
section
/-! SUPPORT. One lemma for each field of the state after each of its updates, so that no later proof unfolds a record update. -/

namespace Sys2Proof.Machine
open Sys2Proof

/-! ### The module after an update of the core, of a stream, and after a clock -/

section
variable (s : State) (f : Core → Core) (st : Stream) (t : Strm) (g : Strm → Strm)
@[simp] theorem modCore_core : (s.modCore f).core = f s.core := rfl
@[simp] theorem setStrm_core : (s.setStrm st t).core = s.core.setStrm st t := rfl
@[simp] theorem modStrm_core : (s.modStrm st g).core = s.core.setStrm st (g (s.strm st)) := rfl
@[simp] theorem modCore_agenda : (s.modCore f).agenda = s.agenda := rfl
@[simp] theorem setStrm_agenda : (s.setStrm st t).agenda = s.agenda := rfl
@[simp] theorem modStrm_agenda : (s.modStrm st g).agenda = s.agenda := rfl
@[simp] theorem modCore_ir : (s.modCore f).ir = s.ir := rfl
@[simp] theorem setStrm_ir : (s.setStrm st t).ir = s.ir := rfl
@[simp] theorem modStrm_ir : (s.modStrm st g).ir = s.ir := rfl
@[simp] theorem modCore_freeNo : (s.modCore f).freeNo = s.freeNo := rfl
@[simp] theorem setStrm_freeNo : (s.setStrm st t).freeNo = s.freeNo := rfl
@[simp] theorem modStrm_freeNo : (s.modStrm st g).freeNo = s.freeNo := rfl
@[simp] theorem modCore_others : (s.modCore f).others = s.others := rfl
@[simp] theorem setStrm_others : (s.setStrm st t).others = s.others := rfl
@[simp] theorem modStrm_others : (s.modStrm st g).others = s.others := rfl
@[simp] theorem modCore_clk : (s.modCore f).clk = s.clk := rfl
@[simp] theorem setStrm_clk : (s.setStrm st t).clk = s.clk := rfl
@[simp] theorem modStrm_clk : (s.modStrm st g).clk = s.clk := rfl
@[simp] theorem modCore_beatClk : (s.modCore f).beatClk = s.beatClk := rfl
@[simp] theorem setStrm_beatClk : (s.setStrm st t).beatClk = s.beatClk := rfl
@[simp] theorem modStrm_beatClk : (s.modStrm st g).beatClk = s.beatClk := rfl
@[simp] theorem modCore_tstep : (s.modCore f).tstep = s.tstep := rfl
@[simp] theorem setStrm_tstep : (s.setStrm st t).tstep = s.tstep := rfl
@[simp] theorem modStrm_tstep : (s.modStrm st g).tstep = s.tstep := rfl
@[simp] theorem modCore_viral : (s.modCore f).viral = s.viral := rfl
@[simp] theorem setStrm_viral : (s.setStrm st t).viral = s.viral := rfl
@[simp] theorem modStrm_viral : (s.modStrm st g).viral = s.viral := rfl
@[simp] theorem modCore_inReset : (s.modCore f).inReset = s.inReset := rfl
@[simp] theorem setStrm_inReset : (s.setStrm st t).inReset = s.inReset := rfl
@[simp] theorem modStrm_inReset : (s.modStrm st g).inReset = s.inReset := rfl
@[simp] theorem modCore_mem : (s.modCore f).mem = s.mem := rfl
@[simp] theorem setStrm_mem : (s.setStrm st t).mem = s.mem := rfl
@[simp] theorem modStrm_mem : (s.modStrm st g).mem = s.mem := rfl
@[simp] theorem modCore_host : (s.modCore f).host = s.host := rfl
@[simp] theorem setStrm_host : (s.setStrm st t).host = s.host := rfl
@[simp] theorem modStrm_host : (s.modStrm st g).host = s.host := rfl
@[simp] theorem modCore_peers : (s.modCore f).peers = s.peers := rfl
@[simp] theorem setStrm_peers : (s.setStrm st t).peers = s.peers := rfl
@[simp] theorem modStrm_peers : (s.modStrm st g).peers = s.peers := rfl
@[simp] theorem modCore_poison : (s.modCore f).poison = s.poison := rfl
@[simp] theorem setStrm_poison : (s.setStrm st t).poison = s.poison := rfl
@[simp] theorem modStrm_poison : (s.modStrm st g).poison = s.poison := rfl
@[simp] theorem modCore_tags : (s.modCore f).tags = s.tags := rfl
@[simp] theorem setStrm_tags : (s.setStrm st t).tags = s.tags := rfl
@[simp] theorem modStrm_tags : (s.modStrm st g).tags = s.tags := rfl
@[simp] theorem modCore_labels : (s.modCore f).labels = s.labels := rfl
@[simp] theorem setStrm_labels : (s.setStrm st t).labels = s.labels := rfl
@[simp] theorem modStrm_labels : (s.modStrm st g).labels = s.labels := rfl
@[simp] theorem modCore_tenants : (s.modCore f).tenants = s.tenants := rfl
@[simp] theorem setStrm_tenants : (s.setStrm st t).tenants = s.tenants := rfl
@[simp] theorem modStrm_tenants : (s.modStrm st g).tenants = s.tenants := rfl
@[simp] theorem modCore_origins : (s.modCore f).origins = s.origins := rfl
@[simp] theorem setStrm_origins : (s.setStrm st t).origins = s.origins := rfl
@[simp] theorem modStrm_origins : (s.modStrm st g).origins = s.origins := rfl
@[simp] theorem modCore_grants : (s.modCore f).grants = s.grants := rfl
@[simp] theorem setStrm_grants : (s.setStrm st t).grants = s.grants := rfl
@[simp] theorem modStrm_grants : (s.modStrm st g).grants = s.grants := rfl
@[simp] theorem modCore_policies : (s.modCore f).policies = s.policies := rfl
@[simp] theorem setStrm_policies : (s.setStrm st t).policies = s.policies := rfl
@[simp] theorem modStrm_policies : (s.modStrm st g).policies = s.policies := rfl
@[simp] theorem modCore_logs : (s.modCore f).logs = s.logs := rfl
@[simp] theorem setStrm_logs : (s.setStrm st t).logs = s.logs := rfl
@[simp] theorem modStrm_logs : (s.modStrm st g).logs = s.logs := rfl
@[simp] theorem modCore_mailboxes : (s.modCore f).mailboxes = s.mailboxes := rfl
@[simp] theorem setStrm_mailboxes : (s.setStrm st t).mailboxes = s.mailboxes := rfl
@[simp] theorem modStrm_mailboxes : (s.modStrm st g).mailboxes = s.mailboxes := rfl
@[simp] theorem modCore_tickets : (s.modCore f).tickets = s.tickets := rfl
@[simp] theorem setStrm_tickets : (s.setStrm st t).tickets = s.tickets := rfl
@[simp] theorem modStrm_tickets : (s.modStrm st g).tickets = s.tickets := rfl
@[simp] theorem modCore_qcbBase : (s.modCore f).qcbBase = s.qcbBase := rfl
@[simp] theorem setStrm_qcbBase : (s.setStrm st t).qcbBase = s.qcbBase := rfl
@[simp] theorem modStrm_qcbBase : (s.modStrm st g).qcbBase = s.qcbBase := rfl
@[simp] theorem modCore_qcbs : (s.modCore f).qcbs = s.qcbs := rfl
@[simp] theorem setStrm_qcbs : (s.setStrm st t).qcbs = s.qcbs := rfl
@[simp] theorem modStrm_qcbs : (s.modStrm st g).qcbs = s.qcbs := rfl
@[simp] theorem modCore_slots : (s.modCore f).slots = s.slots := rfl
@[simp] theorem setStrm_slots : (s.setStrm st t).slots = s.slots := rfl
@[simp] theorem modStrm_slots : (s.modStrm st g).slots = s.slots := rfl
@[simp] theorem modCore_slotSt : (s.modCore f).slotSt = s.slotSt := rfl
@[simp] theorem setStrm_slotSt : (s.setStrm st t).slotSt = s.slotSt := rfl
@[simp] theorem modStrm_slotSt : (s.modStrm st g).slotSt = s.slotSt := rfl
@[simp] theorem modCore_pendmap : (s.modCore f).pendmap = s.pendmap := rfl
@[simp] theorem setStrm_pendmap : (s.setStrm st t).pendmap = s.pendmap := rfl
@[simp] theorem modStrm_pendmap : (s.modStrm st g).pendmap = s.pendmap := rfl
@[simp] theorem modCore_parts : (s.modCore f).parts = s.parts := rfl
@[simp] theorem setStrm_parts : (s.setStrm st t).parts = s.parts := rfl
@[simp] theorem modStrm_parts : (s.modStrm st g).parts = s.parts := rfl
@[simp] theorem modCore_graphs : (s.modCore f).graphs = s.graphs := rfl
@[simp] theorem setStrm_graphs : (s.setStrm st t).graphs = s.graphs := rfl
@[simp] theorem modStrm_graphs : (s.modStrm st g).graphs = s.graphs := rfl
@[simp] theorem modCore_kerns : (s.modCore f).kerns = s.kerns := rfl
@[simp] theorem setStrm_kerns : (s.setStrm st t).kerns = s.kerns := rfl
@[simp] theorem modStrm_kerns : (s.modStrm st g).kerns = s.kerns := rfl
@[simp] theorem modCore_kernNo : (s.modCore f).kernNo = s.kernNo := rfl
@[simp] theorem setStrm_kernNo : (s.setStrm st t).kernNo = s.kernNo := rfl
@[simp] theorem modStrm_kernNo : (s.modStrm st g).kernNo = s.kernNo := rfl
@[simp] theorem modCore_images : (s.modCore f).images = s.images := rfl
@[simp] theorem setStrm_images : (s.setStrm st t).images = s.images := rfl
@[simp] theorem modStrm_images : (s.modStrm st g).images = s.images := rfl
@[simp] theorem modCore_jobs : (s.modCore f).jobs = s.jobs := rfl
@[simp] theorem setStrm_jobs : (s.setStrm st t).jobs = s.jobs := rfl
@[simp] theorem modStrm_jobs : (s.modStrm st g).jobs = s.jobs := rfl
@[simp] theorem modCore_chunks : (s.modCore f).chunks = s.chunks := rfl
@[simp] theorem setStrm_chunks : (s.setStrm st t).chunks = s.chunks := rfl
@[simp] theorem modStrm_chunks : (s.modStrm st g).chunks = s.chunks := rfl
@[simp] theorem modCore_charged : (s.modCore f).charged = s.charged := rfl
@[simp] theorem setStrm_charged : (s.setStrm st t).charged = s.charged := rfl
@[simp] theorem modStrm_charged : (s.modStrm st g).charged = s.charged := rfl
@[simp] theorem modCore_arrivals : (s.modCore f).arrivals = s.arrivals := rfl
@[simp] theorem setStrm_arrivals : (s.setStrm st t).arrivals = s.arrivals := rfl
@[simp] theorem modStrm_arrivals : (s.modStrm st g).arrivals = s.arrivals := rfl
@[simp] theorem modCore_regions : (s.modCore f).regions = s.regions := rfl
@[simp] theorem setStrm_regions : (s.setStrm st t).regions = s.regions := rfl
@[simp] theorem modStrm_regions : (s.modStrm st g).regions = s.regions := rfl
@[simp] theorem modCore_daccWays : (s.modCore f).daccWays = s.daccWays := rfl
@[simp] theorem setStrm_daccWays : (s.setStrm st t).daccWays = s.daccWays := rfl
@[simp] theorem modStrm_daccWays : (s.modStrm st g).daccWays = s.daccWays := rfl
@[simp] theorem modCore_batches : (s.modCore f).batches = s.batches := rfl
@[simp] theorem setStrm_batches : (s.setStrm st t).batches = s.batches := rfl
@[simp] theorem modStrm_batches : (s.modStrm st g).batches = s.batches := rfl
@[simp] theorem modCore_sentTo : (s.modCore f).sentTo = s.sentTo := rfl
@[simp] theorem setStrm_sentTo : (s.setStrm st t).sentTo = s.sentTo := rfl
@[simp] theorem modStrm_sentTo : (s.modStrm st g).sentTo = s.sentTo := rfl
@[simp] theorem modCore_merged : (s.modCore f).merged = s.merged := rfl
@[simp] theorem setStrm_merged : (s.setStrm st t).merged = s.merged := rfl
@[simp] theorem modStrm_merged : (s.modStrm st g).merged = s.merged := rfl
@[simp] theorem modCore_lqueues : (s.modCore f).lqueues = s.lqueues := rfl
@[simp] theorem setStrm_lqueues : (s.setStrm st t).lqueues = s.lqueues := rfl
@[simp] theorem modStrm_lqueues : (s.modStrm st g).lqueues = s.lqueues := rfl
@[simp] theorem modCore_rdc : (s.modCore f).rdc = s.rdc := rfl
@[simp] theorem setStrm_rdc : (s.setStrm st t).rdc = s.rdc := rfl
@[simp] theorem modStrm_rdc : (s.modStrm st g).rdc = s.rdc := rfl
@[simp] theorem modCore_dtlb : (s.modCore f).dtlb = s.dtlb := rfl
@[simp] theorem setStrm_dtlb : (s.setStrm st t).dtlb = s.dtlb := rfl
@[simp] theorem modStrm_dtlb : (s.modStrm st g).dtlb = s.dtlb := rfl
@[simp] theorem modCore_hwin : (s.modCore f).hwin = s.hwin := rfl
@[simp] theorem setStrm_hwin : (s.setStrm st t).hwin = s.hwin := rfl
@[simp] theorem modStrm_hwin : (s.modStrm st g).hwin = s.hwin := rfl
@[simp] theorem modCore_l2mask : (s.modCore f).l2mask = s.l2mask := rfl
@[simp] theorem setStrm_l2mask : (s.setStrm st t).l2mask = s.l2mask := rfl
@[simp] theorem modStrm_l2mask : (s.modStrm st g).l2mask = s.l2mask := rfl
@[simp] theorem modCore_zscount : (s.modCore f).zscount = s.zscount := rfl
@[simp] theorem setStrm_zscount : (s.setStrm st t).zscount = s.zscount := rfl
@[simp] theorem modStrm_zscount : (s.modStrm st g).zscount = s.zscount := rfl
@[simp] theorem modCore_clen : (s.modCore f).clen = s.clen := rfl
@[simp] theorem setStrm_clen : (s.setStrm st t).clen = s.clen := rfl
@[simp] theorem modStrm_clen : (s.modStrm st g).clen = s.clen := rfl
@[simp] theorem modCore_retired : (s.modCore f).retired = s.retired := rfl
@[simp] theorem setStrm_retired : (s.setStrm st t).retired = s.retired := rfl
@[simp] theorem modStrm_retired : (s.modStrm st g).retired = s.retired := rfl
@[simp] theorem modCore_fenced : (s.modCore f).fenced = s.fenced := rfl
@[simp] theorem setStrm_fenced : (s.setStrm st t).fenced = s.fenced := rfl
@[simp] theorem modStrm_fenced : (s.modStrm st g).fenced = s.fenced := rfl
@[simp] theorem modCore_lanes : (s.modCore f).lanes = s.lanes := rfl
@[simp] theorem setStrm_lanes : (s.setStrm st t).lanes = s.lanes := rfl
@[simp] theorem modStrm_lanes : (s.modStrm st g).lanes = s.lanes := rfl
@[simp] theorem modCore_tlbiVa : (s.modCore f).tlbiVa = s.tlbiVa := rfl
@[simp] theorem setStrm_tlbiVa : (s.setStrm st t).tlbiVa = s.tlbiVa := rfl
@[simp] theorem modStrm_tlbiVa : (s.modStrm st g).tlbiVa = s.tlbiVa := rfl
@[simp] theorem modCore_tlbiCtl : (s.modCore f).tlbiCtl = s.tlbiCtl := rfl
@[simp] theorem setStrm_tlbiCtl : (s.setStrm st t).tlbiCtl = s.tlbiCtl := rfl
@[simp] theorem modStrm_tlbiCtl : (s.modStrm st g).tlbiCtl = s.tlbiCtl := rfl
@[simp] theorem modCore_tlbiNow : (s.modCore f).tlbiNow = s.tlbiNow := rfl
@[simp] theorem setStrm_tlbiNow : (s.setStrm st t).tlbiNow = s.tlbiNow := rfl
@[simp] theorem modStrm_tlbiNow : (s.modStrm st g).tlbiNow = s.tlbiNow := rfl
@[simp] theorem modCore_tlbiHeld : (s.modCore f).tlbiHeld = s.tlbiHeld := rfl
@[simp] theorem setStrm_tlbiHeld : (s.setStrm st t).tlbiHeld = s.tlbiHeld := rfl
@[simp] theorem modStrm_tlbiHeld : (s.modStrm st g).tlbiHeld = s.tlbiHeld := rfl
@[simp] theorem modCore_bistSel : (s.modCore f).bistSel = s.bistSel := rfl
@[simp] theorem setStrm_bistSel : (s.setStrm st t).bistSel = s.bistSel := rfl
@[simp] theorem modStrm_bistSel : (s.modStrm st g).bistSel = s.bistSel := rfl
@[simp] theorem modCore_bistFail : (s.modCore f).bistFail = s.bistFail := rfl
@[simp] theorem setStrm_bistFail : (s.setStrm st t).bistFail = s.bistFail := rfl
@[simp] theorem modStrm_bistFail : (s.modStrm st g).bistFail = s.bistFail := rfl
@[simp] theorem modCore_keys : (s.modCore f).keys = s.keys := rfl
@[simp] theorem setStrm_keys : (s.setStrm st t).keys = s.keys := rfl
@[simp] theorem modStrm_keys : (s.modStrm st g).keys = s.keys := rfl
@[simp] theorem modCore_golden : (s.modCore f).golden = s.golden := rfl
@[simp] theorem setStrm_golden : (s.setStrm st t).golden = s.golden := rfl
@[simp] theorem modStrm_golden : (s.modStrm st g).golden = s.golden := rfl
@[simp] theorem modCore_flash : (s.modCore f).flash = s.flash := rfl
@[simp] theorem setStrm_flash : (s.setStrm st t).flash = s.flash := rfl
@[simp] theorem modStrm_flash : (s.modStrm st g).flash = s.flash := rfl
@[simp] theorem modCore_fwrec : (s.modCore f).fwrec = s.fwrec := rfl
@[simp] theorem setStrm_fwrec : (s.setStrm st t).fwrec = s.fwrec := rfl
@[simp] theorem modStrm_fwrec : (s.modStrm st g).fwrec = s.fwrec := rfl
@[simp] theorem modCore_domain : (s.modCore f).domain = s.domain := rfl
@[simp] theorem setStrm_domain : (s.setStrm st t).domain = s.domain := rfl
@[simp] theorem modStrm_domain : (s.modStrm st g).domain = s.domain := rfl
@[simp] theorem modCore_members : (s.modCore f).members = s.members := rfl
@[simp] theorem setStrm_members : (s.setStrm st t).members = s.members := rfl
@[simp] theorem modStrm_members : (s.modStrm st g).members = s.members := rfl
@[simp] theorem modCore_tdi : (s.modCore f).tdi = s.tdi := rfl
@[simp] theorem setStrm_tdi : (s.setStrm st t).tdi = s.tdi := rfl
@[simp] theorem modStrm_tdi : (s.modStrm st g).tdi = s.tdi := rfl
@[simp] theorem modCore_powerCap : (s.modCore f).powerCap = s.powerCap := rfl
@[simp] theorem setStrm_powerCap : (s.setStrm st t).powerCap = s.powerCap := rfl
@[simp] theorem modStrm_powerCap : (s.modStrm st g).powerCap = s.powerCap := rfl
@[simp] theorem modCore_throttle : (s.modCore f).throttle = s.throttle := rfl
@[simp] theorem setStrm_throttle : (s.setStrm st t).throttle = s.throttle := rfl
@[simp] theorem modStrm_throttle : (s.modStrm st g).throttle = s.throttle := rfl
@[simp] theorem modCore_reply : (s.modCore f).reply = s.reply := rfl
@[simp] theorem setStrm_reply : (s.setStrm st t).reply = s.reply := rfl
@[simp] theorem modStrm_reply : (s.modStrm st g).reply = s.reply := rfl
@[simp] theorem modCore_peerTags : (s.modCore f).peerTags = s.peerTags := rfl
@[simp] theorem setStrm_peerTags : (s.setStrm st t).peerTags = s.peerTags := rfl
@[simp] theorem modStrm_peerTags : (s.modStrm st g).peerTags = s.peerTags := rfl
@[simp] theorem modCore_jointFrames : (s.modCore f).jointFrames = s.jointFrames := rfl
@[simp] theorem setStrm_jointFrames : (s.setStrm st t).jointFrames = s.jointFrames := rfl
@[simp] theorem modStrm_jointFrames : (s.modStrm st g).jointFrames = s.jointFrames := rfl
@[simp] theorem modCore_hubLog : (s.modCore f).hubLog = s.hubLog := rfl
@[simp] theorem setStrm_hubLog : (s.setStrm st t).hubLog = s.hubLog := rfl
@[simp] theorem modStrm_hubLog : (s.modStrm st g).hubLog = s.hubLog := rfl
@[simp] theorem modCore_hubRecs : (s.modCore f).hubRecs = s.hubRecs := rfl
@[simp] theorem setStrm_hubRecs : (s.setStrm st t).hubRecs = s.hubRecs := rfl
@[simp] theorem modStrm_hubRecs : (s.modStrm st g).hubRecs = s.hubRecs := rfl
@[simp] theorem modCore_qcbMoved : (s.modCore f).qcbMoved = s.qcbMoved := rfl
@[simp] theorem setStrm_qcbMoved : (s.setStrm st t).qcbMoved = s.qcbMoved := rfl
@[simp] theorem modStrm_qcbMoved : (s.modStrm st g).qcbMoved = s.qcbMoved := rfl
@[simp] theorem modCore_slotNow : (s.modCore f).slotNow = s.slotNow := rfl
@[simp] theorem setStrm_slotNow : (s.setStrm st t).slotNow = s.slotNow := rfl
@[simp] theorem modStrm_slotNow : (s.modStrm st g).slotNow = s.slotNow := rfl
@[simp] theorem modCore_slotHeld : (s.modCore f).slotHeld = s.slotHeld := rfl
@[simp] theorem setStrm_slotHeld : (s.setStrm st t).slotHeld = s.slotHeld := rfl
@[simp] theorem modStrm_slotHeld : (s.modStrm st g).slotHeld = s.slotHeld := rfl
@[simp] theorem modCore_engines : (s.modCore f).engines = s.engines := rfl
@[simp] theorem setStrm_engines : (s.setStrm st t).engines = s.engines := rfl
@[simp] theorem modStrm_engines : (s.modStrm st g).engines = s.engines := rfl
@[simp] theorem modCore_heldSteps : (s.modCore f).heldSteps = s.heldSteps := rfl
@[simp] theorem setStrm_heldSteps : (s.setStrm st t).heldSteps = s.heldSteps := rfl
@[simp] theorem modStrm_heldSteps : (s.modStrm st g).heldSteps = s.heldSteps := rfl
@[simp] theorem tick_agenda : s.tick.agenda = s.agenda := rfl
@[simp] theorem tick_ir : s.tick.ir = s.ir := rfl
@[simp] theorem tick_freeNo : s.tick.freeNo = s.freeNo := rfl
@[simp] theorem tick_core : s.tick.core = s.core := rfl
@[simp] theorem tick_others : s.tick.others = s.others := rfl
@[simp] theorem tick_clk : s.tick.clk = s.clk + 1 := rfl
@[simp] theorem tick_beatClk : s.tick.beatClk = s.beatClk + 1 := rfl
@[simp] theorem tick_tstep : s.tick.tstep = s.tstep := rfl
@[simp] theorem tick_viral : s.tick.viral = s.viral := rfl
@[simp] theorem tick_inReset : s.tick.inReset = s.inReset := rfl
@[simp] theorem tick_mem : s.tick.mem = s.mem := rfl
@[simp] theorem tick_host : s.tick.host = s.host := rfl
@[simp] theorem tick_peers : s.tick.peers = s.peers := rfl
@[simp] theorem tick_poison : s.tick.poison = s.poison := rfl
@[simp] theorem tick_tags : s.tick.tags = s.tags := rfl
@[simp] theorem tick_labels : s.tick.labels = s.labels := rfl
@[simp] theorem tick_tenants : s.tick.tenants = s.tenants := rfl
@[simp] theorem tick_origins : s.tick.origins = s.origins := rfl
@[simp] theorem tick_grants : s.tick.grants = s.grants := rfl
@[simp] theorem tick_policies : s.tick.policies = s.policies := rfl
@[simp] theorem tick_logs : s.tick.logs = s.logs := rfl
@[simp] theorem tick_mailboxes : s.tick.mailboxes = s.mailboxes := rfl
@[simp] theorem tick_tickets : s.tick.tickets = s.tickets := rfl
@[simp] theorem tick_qcbBase : s.tick.qcbBase = s.qcbBase := rfl
@[simp] theorem tick_qcbs : s.tick.qcbs = s.qcbs := rfl
@[simp] theorem tick_slots : s.tick.slots = s.slots := rfl
@[simp] theorem tick_slotSt : s.tick.slotSt = s.slotSt := rfl
@[simp] theorem tick_pendmap : s.tick.pendmap = s.pendmap := rfl
@[simp] theorem tick_parts : s.tick.parts = s.parts := rfl
@[simp] theorem tick_graphs : s.tick.graphs = s.graphs := rfl
@[simp] theorem tick_kerns : s.tick.kerns = s.kerns := rfl
@[simp] theorem tick_kernNo : s.tick.kernNo = s.kernNo := rfl
@[simp] theorem tick_images : s.tick.images = s.images := rfl
@[simp] theorem tick_jobs : s.tick.jobs = s.jobs := rfl
@[simp] theorem tick_chunks : s.tick.chunks = s.chunks := rfl
@[simp] theorem tick_charged : s.tick.charged = s.charged := rfl
@[simp] theorem tick_arrivals : s.tick.arrivals = s.arrivals := rfl
@[simp] theorem tick_regions : s.tick.regions = s.regions := rfl
@[simp] theorem tick_daccWays : s.tick.daccWays = s.daccWays := rfl
@[simp] theorem tick_batches : s.tick.batches = s.batches := rfl
@[simp] theorem tick_sentTo : s.tick.sentTo = s.sentTo := rfl
@[simp] theorem tick_merged : s.tick.merged = s.merged := rfl
@[simp] theorem tick_lqueues : s.tick.lqueues = s.lqueues := rfl
@[simp] theorem tick_rdc : s.tick.rdc = s.rdc := rfl
@[simp] theorem tick_dtlb : s.tick.dtlb = s.dtlb := rfl
@[simp] theorem tick_hwin : s.tick.hwin = s.hwin := rfl
@[simp] theorem tick_l2mask : s.tick.l2mask = s.l2mask := rfl
@[simp] theorem tick_zscount : s.tick.zscount = s.zscount := rfl
@[simp] theorem tick_clen : s.tick.clen = s.clen := rfl
@[simp] theorem tick_retired : s.tick.retired = s.retired := rfl
@[simp] theorem tick_fenced : s.tick.fenced = s.fenced := rfl
@[simp] theorem tick_lanes : s.tick.lanes = s.lanes := rfl
@[simp] theorem tick_tlbiVa : s.tick.tlbiVa = s.tlbiVa := rfl
@[simp] theorem tick_tlbiCtl : s.tick.tlbiCtl = s.tlbiCtl := rfl
@[simp] theorem tick_tlbiNow : s.tick.tlbiNow = s.tlbiNow := rfl
@[simp] theorem tick_tlbiHeld : s.tick.tlbiHeld = s.tlbiHeld := rfl
@[simp] theorem tick_bistSel : s.tick.bistSel = s.bistSel := rfl
@[simp] theorem tick_bistFail : s.tick.bistFail = s.bistFail := rfl
@[simp] theorem tick_keys : s.tick.keys = s.keys := rfl
@[simp] theorem tick_golden : s.tick.golden = s.golden := rfl
@[simp] theorem tick_flash : s.tick.flash = s.flash := rfl
@[simp] theorem tick_fwrec : s.tick.fwrec = s.fwrec := rfl
@[simp] theorem tick_domain : s.tick.domain = s.domain := rfl
@[simp] theorem tick_members : s.tick.members = s.members := rfl
@[simp] theorem tick_tdi : s.tick.tdi = s.tdi := rfl
@[simp] theorem tick_powerCap : s.tick.powerCap = s.powerCap := rfl
@[simp] theorem tick_throttle : s.tick.throttle = s.throttle := rfl
@[simp] theorem tick_reply : s.tick.reply = s.reply := rfl
@[simp] theorem tick_peerTags : s.tick.peerTags = s.peerTags := rfl
@[simp] theorem tick_jointFrames : s.tick.jointFrames = s.jointFrames := rfl
@[simp] theorem tick_hubLog : s.tick.hubLog = s.hubLog := rfl
@[simp] theorem tick_hubRecs : s.tick.hubRecs = s.hubRecs := rfl
@[simp] theorem tick_qcbMoved : s.tick.qcbMoved = s.qcbMoved := rfl
@[simp] theorem tick_slotNow : s.tick.slotNow = s.slotNow := rfl
@[simp] theorem tick_slotHeld : s.tick.slotHeld = s.slotHeld := rfl
@[simp] theorem tick_engines : s.tick.engines = s.engines := rfl
@[simp] theorem tick_heldSteps : s.tick.heldSteps = s.heldSteps := rfl
variable (n : Nat)
@[simp] theorem ticks_agenda : (s.ticks n).agenda = s.agenda := rfl
@[simp] theorem ticks_ir : (s.ticks n).ir = s.ir := rfl
@[simp] theorem ticks_freeNo : (s.ticks n).freeNo = s.freeNo := rfl
@[simp] theorem ticks_core : (s.ticks n).core = s.core := rfl
@[simp] theorem ticks_others : (s.ticks n).others = s.others := rfl
@[simp] theorem ticks_clk : (s.ticks n).clk = s.clk + n := rfl
@[simp] theorem ticks_beatClk : (s.ticks n).beatClk = s.beatClk + n := rfl
@[simp] theorem ticks_tstep : (s.ticks n).tstep = s.tstep := rfl
@[simp] theorem ticks_viral : (s.ticks n).viral = s.viral := rfl
@[simp] theorem ticks_inReset : (s.ticks n).inReset = s.inReset := rfl
@[simp] theorem ticks_mem : (s.ticks n).mem = s.mem := rfl
@[simp] theorem ticks_host : (s.ticks n).host = s.host := rfl
@[simp] theorem ticks_peers : (s.ticks n).peers = s.peers := rfl
@[simp] theorem ticks_peerTags : (s.ticks n).peerTags = s.peerTags := rfl
@[simp] theorem ticks_poison : (s.ticks n).poison = s.poison := rfl
@[simp] theorem ticks_tags : (s.ticks n).tags = s.tags := rfl
@[simp] theorem ticks_labels : (s.ticks n).labels = s.labels := rfl
@[simp] theorem ticks_tenants : (s.ticks n).tenants = s.tenants := rfl
@[simp] theorem ticks_origins : (s.ticks n).origins = s.origins := rfl
@[simp] theorem ticks_grants : (s.ticks n).grants = s.grants := rfl
@[simp] theorem ticks_jointFrames : (s.ticks n).jointFrames = s.jointFrames := rfl
@[simp] theorem ticks_policies : (s.ticks n).policies = s.policies := rfl
@[simp] theorem ticks_logs : (s.ticks n).logs = s.logs := rfl
@[simp] theorem ticks_hubLog : (s.ticks n).hubLog = s.hubLog := rfl
@[simp] theorem ticks_mailboxes : (s.ticks n).mailboxes = s.mailboxes := rfl
@[simp] theorem ticks_hubRecs : (s.ticks n).hubRecs = s.hubRecs := rfl
@[simp] theorem ticks_tickets : (s.ticks n).tickets = s.tickets := rfl
@[simp] theorem ticks_qcbBase : (s.ticks n).qcbBase = s.qcbBase := rfl
@[simp] theorem ticks_qcbMoved : (s.ticks n).qcbMoved = s.qcbMoved := rfl
@[simp] theorem ticks_qcbs : (s.ticks n).qcbs = s.qcbs := rfl
@[simp] theorem ticks_slots : (s.ticks n).slots = s.slots := rfl
@[simp] theorem ticks_slotSt : (s.ticks n).slotSt = s.slotSt := rfl
@[simp] theorem ticks_slotNow : (s.ticks n).slotNow = s.slotNow := rfl
@[simp] theorem ticks_slotHeld : (s.ticks n).slotHeld = s.slotHeld := rfl
@[simp] theorem ticks_pendmap : (s.ticks n).pendmap = s.pendmap := rfl
@[simp] theorem ticks_parts : (s.ticks n).parts = s.parts := rfl
@[simp] theorem ticks_graphs : (s.ticks n).graphs = s.graphs := rfl
@[simp] theorem ticks_kerns : (s.ticks n).kerns = s.kerns := rfl
@[simp] theorem ticks_kernNo : (s.ticks n).kernNo = s.kernNo := rfl
@[simp] theorem ticks_images : (s.ticks n).images = s.images := rfl
@[simp] theorem ticks_jobs : (s.ticks n).jobs = s.jobs := rfl
@[simp] theorem ticks_engines : (s.ticks n).engines = s.engines := rfl
@[simp] theorem ticks_chunks : (s.ticks n).chunks = s.chunks := rfl
@[simp] theorem ticks_charged : (s.ticks n).charged = s.charged := rfl
@[simp] theorem ticks_arrivals : (s.ticks n).arrivals = s.arrivals := rfl
@[simp] theorem ticks_regions : (s.ticks n).regions = s.regions := rfl
@[simp] theorem ticks_daccWays : (s.ticks n).daccWays = s.daccWays := rfl
@[simp] theorem ticks_batches : (s.ticks n).batches = s.batches := rfl
@[simp] theorem ticks_sentTo : (s.ticks n).sentTo = s.sentTo := rfl
@[simp] theorem ticks_merged : (s.ticks n).merged = s.merged := rfl
@[simp] theorem ticks_lqueues : (s.ticks n).lqueues = s.lqueues := rfl
@[simp] theorem ticks_rdc : (s.ticks n).rdc = s.rdc := rfl
@[simp] theorem ticks_dtlb : (s.ticks n).dtlb = s.dtlb := rfl
@[simp] theorem ticks_hwin : (s.ticks n).hwin = s.hwin := rfl
@[simp] theorem ticks_l2mask : (s.ticks n).l2mask = s.l2mask := rfl
@[simp] theorem ticks_zscount : (s.ticks n).zscount = s.zscount := rfl
@[simp] theorem ticks_clen : (s.ticks n).clen = s.clen := rfl
@[simp] theorem ticks_retired : (s.ticks n).retired = s.retired := rfl
@[simp] theorem ticks_fenced : (s.ticks n).fenced = s.fenced := rfl
@[simp] theorem ticks_lanes : (s.ticks n).lanes = s.lanes := rfl
@[simp] theorem ticks_tlbiVa : (s.ticks n).tlbiVa = s.tlbiVa := rfl
@[simp] theorem ticks_tlbiCtl : (s.ticks n).tlbiCtl = s.tlbiCtl := rfl
@[simp] theorem ticks_tlbiNow : (s.ticks n).tlbiNow = s.tlbiNow := rfl
@[simp] theorem ticks_tlbiHeld : (s.ticks n).tlbiHeld = s.tlbiHeld := rfl
@[simp] theorem ticks_heldSteps : (s.ticks n).heldSteps = s.heldSteps := rfl
@[simp] theorem ticks_bistSel : (s.ticks n).bistSel = s.bistSel := rfl
@[simp] theorem ticks_bistFail : (s.ticks n).bistFail = s.bistFail := rfl
@[simp] theorem ticks_keys : (s.ticks n).keys = s.keys := rfl
@[simp] theorem ticks_golden : (s.ticks n).golden = s.golden := rfl
@[simp] theorem ticks_flash : (s.ticks n).flash = s.flash := rfl
@[simp] theorem ticks_fwrec : (s.ticks n).fwrec = s.fwrec := rfl
@[simp] theorem ticks_domain : (s.ticks n).domain = s.domain := rfl
@[simp] theorem ticks_members : (s.ticks n).members = s.members := rfl
@[simp] theorem ticks_tdi : (s.ticks n).tdi = s.tdi := rfl
@[simp] theorem ticks_powerCap : (s.ticks n).powerCap = s.powerCap := rfl
@[simp] theorem ticks_throttle : (s.ticks n).throttle = s.throttle := rfl
@[simp] theorem ticks_reply : (s.ticks n).reply = s.reply := rfl
end

/-! ### The core after an update of a stream -/

section
variable (k : Core) (st : Stream) (t : Strm)
@[simp] theorem setStrm_core_id : (k.setStrm st t).id = k.id := by cases st <;> rfl
@[simp] theorem setStrm_core_dispatch : (k.setStrm st t).dispatch = k.dispatch := by cases st <;> rfl
@[simp] theorem setStrm_core_cur : (k.setStrm st t).cur = k.cur := by cases st <;> rfl
@[simp] theorem setStrm_core_task : (k.setStrm st t).task = k.task := by cases st <;> rfl
@[simp] theorem setStrm_core_parked : (k.setStrm st t).parked = k.parked := by cases st <;> rfl
@[simp] theorem setStrm_core_next : (k.setStrm st t).next = k.next := by cases st <;> rfl
@[simp] theorem setStrm_core_tok : (k.setStrm st t).tok = k.tok := by cases st <;> rfl
@[simp] theorem setStrm_core_tokLab : (k.setStrm st t).tokLab = k.tokLab := by cases st <;> rfl
@[simp] theorem setStrm_core_cqA : (k.setStrm st t).cqA = k.cqA := by cases st <;> rfl
@[simp] theorem setStrm_core_cqV : (k.setStrm st t).cqV = k.cqV := by cases st <;> rfl
@[simp] theorem setStrm_core_x : (k.setStrm st t).x = k.x := by cases st <;> rfl
@[simp] theorem setStrm_core_xPend : (k.setStrm st t).xPend = k.xPend := by cases st <;> rfl
@[simp] theorem setStrm_core_ar : (k.setStrm st t).ar = k.ar := by cases st <;> rfl
@[simp] theorem setStrm_core_vr : (k.setStrm st t).vr = k.vr := by cases st <;> rfl
@[simp] theorem setStrm_core_ix : (k.setStrm st t).ix = k.ix := by cases st <;> rfl
@[simp] theorem setStrm_core_p : (k.setStrm st t).p = k.p := by cases st <;> rfl
@[simp] theorem setStrm_core_em : (k.setStrm st t).em = k.em := by cases st <;> rfl
@[simp] theorem setStrm_core_cm : (k.setStrm st t).cm = k.cm := by cases st <;> rfl
@[simp] theorem setStrm_core_mstack : (k.setStrm st t).mstack = k.mstack := by cases st <;> rfl
@[simp] theorem setStrm_core_csr : (k.setStrm st t).csr = k.csr := by cases st <;> rfl
@[simp] theorem setStrm_core_vpend : (k.setStrm st t).vpend = k.vpend := by cases st <;> rfl
@[simp] theorem setStrm_core_lt : (k.setStrm st t).lt = k.lt := by cases st <;> rfl
@[simp] theorem setStrm_core_landings : (k.setStrm st t).landings = k.landings := by cases st <;> rfl
@[simp] theorem setStrm_core_landPend : (k.setStrm st t).landPend = k.landPend := by cases st <;> rfl
@[simp] theorem setStrm_core_loop : (k.setStrm st t).loop = k.loop := by cases st <;> rfl
@[simp] theorem setStrm_core_again : (k.setStrm st t).again = k.again := by cases st <;> rfl
@[simp] theorem setStrm_core_vrows : (k.setStrm st t).vrows = k.vrows := by cases st <;> rfl
@[simp] theorem setStrm_core_rings : (k.setStrm st t).rings = k.rings := by cases st <;> rfl
@[simp] theorem setStrm_core_scratch : (k.setStrm st t).scratch = k.scratch := by cases st <;> rfl
@[simp] theorem setStrm_core_segLab : (k.setStrm st t).segLab = k.segLab := by cases st <;> rfl
@[simp] theorem setStrm_core_scrBad : (k.setStrm st t).scrBad = k.scrBad := by cases st <;> rfl
@[simp] theorem setStrm_core_shadow : (k.setStrm st t).shadow = k.shadow := by cases st <;> rfl
@[simp] theorem setStrm_core_active : (k.setStrm st t).active = k.active := by cases st <;> rfl
@[simp] theorem setStrm_core_cfg : (k.setStrm st t).cfg = k.cfg := by cases st <;> rfl
@[simp] theorem setStrm_core_fmtq : (k.setStrm st t).fmtq = k.fmtq := by cases st <;> rfl
@[simp] theorem setStrm_core_fifo : (k.setStrm st t).fifo = k.fifo := by cases st <;> rfl
@[simp] theorem setStrm_core_mgo : (k.setStrm st t).mgo = k.mgo := by cases st <;> rfl
@[simp] theorem setStrm_core_stopAt : (k.setStrm st t).stopAt = k.stopAt := by cases st <;> rfl
@[simp] theorem setStrm_core_owner : (k.setStrm st t).owner = k.owner := by cases st <;> rfl
@[simp] theorem setStrm_core_run : (k.setStrm st t).run = k.run := by cases st <;> rfl
@[simp] theorem setStrm_core_drains : (k.setStrm st t).drains = k.drains := by cases st <;> rfl
@[simp] theorem setStrm_core_ragged : (k.setStrm st t).ragged = k.ragged := by cases st <;> rfl
@[simp] theorem setStrm_core_cuts : (k.setStrm st t).cuts = k.cuts := by cases st <;> rfl
@[simp] theorem setStrm_core_plane0 : (k.setStrm st t).plane0 = k.plane0 := by cases st <;> rfl
@[simp] theorem setStrm_core_plane1 : (k.setStrm st t).plane1 = k.plane1 := by cases st <;> rfl
@[simp] theorem setStrm_core_lace : (k.setStrm st t).lace = k.lace := by cases st <;> rfl
@[simp] theorem setStrm_core_dacc : (k.setStrm st t).dacc = k.dacc := by cases st <;> rfl
@[simp] theorem setStrm_core_latch : (k.setStrm st t).latch = k.latch := by cases st <;> rfl
@[simp] theorem setStrm_core_ending : (k.setStrm st t).ending = k.ending := by cases st <;> rfl
@[simp] theorem setStrm_core_killed : (k.setStrm st t).killed = k.killed := by cases st <;> rfl
@[simp] theorem setStrm_core_l1 : (k.setStrm st t).l1 = k.l1 := by cases st <;> rfl
@[simp] theorem setStrm_core_pref : (k.setStrm st t).pref = k.pref := by cases st <;> rfl
@[simp] theorem setStrm_core_utlb : (k.setStrm st t).utlb = k.utlb := by cases st <;> rfl
@[simp] theorem setStrm_core_l2tlb : (k.setStrm st t).l2tlb = k.l2tlb := by cases st <;> rfl
@[simp] theorem setStrm_core_walks : (k.setStrm st t).walks = k.walks := by cases st <;> rfl
@[simp] theorem setStrm_core_owed : (k.setStrm st t).owed = k.owed := by cases st <;> rfl
@[simp] theorem setStrm_core_popped : (k.setStrm st t).popped = k.popped := by cases st <;> rfl
@[simp] theorem strm_setStrm_same : (k.setStrm st t).strm st = t := by cases st <;> rfl
theorem strm_setStrm_ne (u : Stream) (h : u ≠ st) : (k.setStrm st t).strm u = k.strm u := by
  cases st <;> cases u <;> first | rfl | exact absurd rfl h
theorem setStrm_self : k.setStrm st (k.strm st) = k := by cases st <;> rfl
end

/-! ### The core after a scalar register or a ring is written, and after a token moves -/

section
variable (k : Core)
@[simp] theorem writeX_id (r : Fin 64) (w : LW) : (k.writeX r w).id = k.id := by unfold Core.writeX; split <;> rfl
@[simp] theorem writeA_id (r : Fin 32) (w : LW) : (k.writeA r w).id = k.id := by unfold Core.writeA; split <;> rfl
@[simp] theorem setRing_id (r : Nat) (g : Ring) : (k.setRing r g).id = k.id := rfl
@[simp] theorem takeTok_id (q : Fin 16) : (k.takeTok q).id = k.id := by unfold Core.takeTok; split <;> rfl
@[simp] theorem writeX_dispatch (r : Fin 64) (w : LW) : (k.writeX r w).dispatch = k.dispatch := by unfold Core.writeX; split <;> rfl
@[simp] theorem writeA_dispatch (r : Fin 32) (w : LW) : (k.writeA r w).dispatch = k.dispatch := by unfold Core.writeA; split <;> rfl
@[simp] theorem setRing_dispatch (r : Nat) (g : Ring) : (k.setRing r g).dispatch = k.dispatch := rfl
@[simp] theorem takeTok_dispatch (q : Fin 16) : (k.takeTok q).dispatch = k.dispatch := by unfold Core.takeTok; split <;> rfl
@[simp] theorem writeX_cur (r : Fin 64) (w : LW) : (k.writeX r w).cur = k.cur := by unfold Core.writeX; split <;> rfl
@[simp] theorem writeA_cur (r : Fin 32) (w : LW) : (k.writeA r w).cur = k.cur := by unfold Core.writeA; split <;> rfl
@[simp] theorem setRing_cur (r : Nat) (g : Ring) : (k.setRing r g).cur = k.cur := rfl
@[simp] theorem takeTok_cur (q : Fin 16) : (k.takeTok q).cur = k.cur := by unfold Core.takeTok; split <;> rfl
@[simp] theorem writeX_task (r : Fin 64) (w : LW) : (k.writeX r w).task = k.task := by unfold Core.writeX; split <;> rfl
@[simp] theorem writeA_task (r : Fin 32) (w : LW) : (k.writeA r w).task = k.task := by unfold Core.writeA; split <;> rfl
@[simp] theorem setRing_task (r : Nat) (g : Ring) : (k.setRing r g).task = k.task := rfl
@[simp] theorem takeTok_task (q : Fin 16) : (k.takeTok q).task = k.task := by unfold Core.takeTok; split <;> rfl
@[simp] theorem writeX_parked (r : Fin 64) (w : LW) : (k.writeX r w).parked = k.parked := by unfold Core.writeX; split <;> rfl
@[simp] theorem writeA_parked (r : Fin 32) (w : LW) : (k.writeA r w).parked = k.parked := by unfold Core.writeA; split <;> rfl
@[simp] theorem setRing_parked (r : Nat) (g : Ring) : (k.setRing r g).parked = k.parked := rfl
@[simp] theorem takeTok_parked (q : Fin 16) : (k.takeTok q).parked = k.parked := by unfold Core.takeTok; split <;> rfl
@[simp] theorem writeX_c (r : Fin 64) (w : LW) : (k.writeX r w).c = k.c := by unfold Core.writeX; split <;> rfl
@[simp] theorem writeA_c (r : Fin 32) (w : LW) : (k.writeA r w).c = k.c := by unfold Core.writeA; split <;> rfl
@[simp] theorem setRing_c (r : Nat) (g : Ring) : (k.setRing r g).c = k.c := rfl
@[simp] theorem takeTok_c (q : Fin 16) : (k.takeTok q).c = k.c := by unfold Core.takeTok; split <;> rfl
@[simp] theorem writeX_a (r : Fin 64) (w : LW) : (k.writeX r w).a = k.a := by unfold Core.writeX; split <;> rfl
@[simp] theorem writeA_a (r : Fin 32) (w : LW) : (k.writeA r w).a = k.a := by unfold Core.writeA; split <;> rfl
@[simp] theorem setRing_a (r : Nat) (g : Ring) : (k.setRing r g).a = k.a := rfl
@[simp] theorem takeTok_a (q : Fin 16) : (k.takeTok q).a = k.a := by unfold Core.takeTok; split <;> rfl
@[simp] theorem writeX_v (r : Fin 64) (w : LW) : (k.writeX r w).v = k.v := by unfold Core.writeX; split <;> rfl
@[simp] theorem writeA_v (r : Fin 32) (w : LW) : (k.writeA r w).v = k.v := by unfold Core.writeA; split <;> rfl
@[simp] theorem setRing_v (r : Nat) (g : Ring) : (k.setRing r g).v = k.v := rfl
@[simp] theorem takeTok_v (q : Fin 16) : (k.takeTok q).v = k.v := by unfold Core.takeTok; split <;> rfl
@[simp] theorem writeX_m (r : Fin 64) (w : LW) : (k.writeX r w).m = k.m := by unfold Core.writeX; split <;> rfl
@[simp] theorem writeA_m (r : Fin 32) (w : LW) : (k.writeA r w).m = k.m := by unfold Core.writeA; split <;> rfl
@[simp] theorem setRing_m (r : Nat) (g : Ring) : (k.setRing r g).m = k.m := rfl
@[simp] theorem takeTok_m (q : Fin 16) : (k.takeTok q).m = k.m := by unfold Core.takeTok; split <;> rfl
@[simp] theorem writeX_next (r : Fin 64) (w : LW) : (k.writeX r w).next = k.next := by unfold Core.writeX; split <;> rfl
@[simp] theorem writeA_next (r : Fin 32) (w : LW) : (k.writeA r w).next = k.next := by unfold Core.writeA; split <;> rfl
@[simp] theorem setRing_next (r : Nat) (g : Ring) : (k.setRing r g).next = k.next := rfl
@[simp] theorem takeTok_next (q : Fin 16) : (k.takeTok q).next = k.next := by unfold Core.takeTok; split <;> rfl
@[simp] theorem writeX_tok (r : Fin 64) (w : LW) : (k.writeX r w).tok = k.tok := by unfold Core.writeX; split <;> rfl
@[simp] theorem writeA_tok (r : Fin 32) (w : LW) : (k.writeA r w).tok = k.tok := by unfold Core.writeA; split <;> rfl
@[simp] theorem setRing_tok (r : Nat) (g : Ring) : (k.setRing r g).tok = k.tok := rfl
@[simp] theorem writeX_tokLab (r : Fin 64) (w : LW) : (k.writeX r w).tokLab = k.tokLab := by unfold Core.writeX; split <;> rfl
@[simp] theorem writeA_tokLab (r : Fin 32) (w : LW) : (k.writeA r w).tokLab = k.tokLab := by unfold Core.writeA; split <;> rfl
@[simp] theorem setRing_tokLab (r : Nat) (g : Ring) : (k.setRing r g).tokLab = k.tokLab := rfl
@[simp] theorem takeTok_tokLab (q : Fin 16) : (k.takeTok q).tokLab = k.tokLab := by unfold Core.takeTok; split <;> rfl
@[simp] theorem writeX_cqA (r : Fin 64) (w : LW) : (k.writeX r w).cqA = k.cqA := by unfold Core.writeX; split <;> rfl
@[simp] theorem writeA_cqA (r : Fin 32) (w : LW) : (k.writeA r w).cqA = k.cqA := by unfold Core.writeA; split <;> rfl
@[simp] theorem setRing_cqA (r : Nat) (g : Ring) : (k.setRing r g).cqA = k.cqA := rfl
@[simp] theorem takeTok_cqA (q : Fin 16) : (k.takeTok q).cqA = k.cqA := by unfold Core.takeTok; split <;> rfl
@[simp] theorem writeX_cqV (r : Fin 64) (w : LW) : (k.writeX r w).cqV = k.cqV := by unfold Core.writeX; split <;> rfl
@[simp] theorem writeA_cqV (r : Fin 32) (w : LW) : (k.writeA r w).cqV = k.cqV := by unfold Core.writeA; split <;> rfl
@[simp] theorem setRing_cqV (r : Nat) (g : Ring) : (k.setRing r g).cqV = k.cqV := rfl
@[simp] theorem takeTok_cqV (q : Fin 16) : (k.takeTok q).cqV = k.cqV := by unfold Core.takeTok; split <;> rfl
@[simp] theorem writeA_x (r : Fin 32) (w : LW) : (k.writeA r w).x = k.x := by unfold Core.writeA; split <;> rfl
@[simp] theorem setRing_x (r : Nat) (g : Ring) : (k.setRing r g).x = k.x := rfl
@[simp] theorem takeTok_x (q : Fin 16) : (k.takeTok q).x = k.x := by unfold Core.takeTok; split <;> rfl
@[simp] theorem writeX_xPend (r : Fin 64) (w : LW) : (k.writeX r w).xPend = k.xPend := by unfold Core.writeX; split <;> rfl
@[simp] theorem writeA_xPend (r : Fin 32) (w : LW) : (k.writeA r w).xPend = k.xPend := by unfold Core.writeA; split <;> rfl
@[simp] theorem setRing_xPend (r : Nat) (g : Ring) : (k.setRing r g).xPend = k.xPend := rfl
@[simp] theorem takeTok_xPend (q : Fin 16) : (k.takeTok q).xPend = k.xPend := by unfold Core.takeTok; split <;> rfl
@[simp] theorem writeX_ar (r : Fin 64) (w : LW) : (k.writeX r w).ar = k.ar := by unfold Core.writeX; split <;> rfl
@[simp] theorem setRing_ar (r : Nat) (g : Ring) : (k.setRing r g).ar = k.ar := rfl
@[simp] theorem takeTok_ar (q : Fin 16) : (k.takeTok q).ar = k.ar := by unfold Core.takeTok; split <;> rfl
@[simp] theorem writeX_vr (r : Fin 64) (w : LW) : (k.writeX r w).vr = k.vr := by unfold Core.writeX; split <;> rfl
@[simp] theorem writeA_vr (r : Fin 32) (w : LW) : (k.writeA r w).vr = k.vr := by unfold Core.writeA; split <;> rfl
@[simp] theorem setRing_vr (r : Nat) (g : Ring) : (k.setRing r g).vr = k.vr := rfl
@[simp] theorem takeTok_vr (q : Fin 16) : (k.takeTok q).vr = k.vr := by unfold Core.takeTok; split <;> rfl
@[simp] theorem writeX_ix (r : Fin 64) (w : LW) : (k.writeX r w).ix = k.ix := by unfold Core.writeX; split <;> rfl
@[simp] theorem writeA_ix (r : Fin 32) (w : LW) : (k.writeA r w).ix = k.ix := by unfold Core.writeA; split <;> rfl
@[simp] theorem setRing_ix (r : Nat) (g : Ring) : (k.setRing r g).ix = k.ix := rfl
@[simp] theorem takeTok_ix (q : Fin 16) : (k.takeTok q).ix = k.ix := by unfold Core.takeTok; split <;> rfl
@[simp] theorem writeX_p (r : Fin 64) (w : LW) : (k.writeX r w).p = k.p := by unfold Core.writeX; split <;> rfl
@[simp] theorem writeA_p (r : Fin 32) (w : LW) : (k.writeA r w).p = k.p := by unfold Core.writeA; split <;> rfl
@[simp] theorem setRing_p (r : Nat) (g : Ring) : (k.setRing r g).p = k.p := rfl
@[simp] theorem takeTok_p (q : Fin 16) : (k.takeTok q).p = k.p := by unfold Core.takeTok; split <;> rfl
@[simp] theorem writeX_em (r : Fin 64) (w : LW) : (k.writeX r w).em = k.em := by unfold Core.writeX; split <;> rfl
@[simp] theorem writeA_em (r : Fin 32) (w : LW) : (k.writeA r w).em = k.em := by unfold Core.writeA; split <;> rfl
@[simp] theorem setRing_em (r : Nat) (g : Ring) : (k.setRing r g).em = k.em := rfl
@[simp] theorem takeTok_em (q : Fin 16) : (k.takeTok q).em = k.em := by unfold Core.takeTok; split <;> rfl
@[simp] theorem writeX_cm (r : Fin 64) (w : LW) : (k.writeX r w).cm = k.cm := by unfold Core.writeX; split <;> rfl
@[simp] theorem writeA_cm (r : Fin 32) (w : LW) : (k.writeA r w).cm = k.cm := by unfold Core.writeA; split <;> rfl
@[simp] theorem setRing_cm (r : Nat) (g : Ring) : (k.setRing r g).cm = k.cm := rfl
@[simp] theorem takeTok_cm (q : Fin 16) : (k.takeTok q).cm = k.cm := by unfold Core.takeTok; split <;> rfl
@[simp] theorem writeX_mstack (r : Fin 64) (w : LW) : (k.writeX r w).mstack = k.mstack := by unfold Core.writeX; split <;> rfl
@[simp] theorem writeA_mstack (r : Fin 32) (w : LW) : (k.writeA r w).mstack = k.mstack := by unfold Core.writeA; split <;> rfl
@[simp] theorem setRing_mstack (r : Nat) (g : Ring) : (k.setRing r g).mstack = k.mstack := rfl
@[simp] theorem takeTok_mstack (q : Fin 16) : (k.takeTok q).mstack = k.mstack := by unfold Core.takeTok; split <;> rfl
@[simp] theorem writeX_csr (r : Fin 64) (w : LW) : (k.writeX r w).csr = k.csr := by unfold Core.writeX; split <;> rfl
@[simp] theorem writeA_csr (r : Fin 32) (w : LW) : (k.writeA r w).csr = k.csr := by unfold Core.writeA; split <;> rfl
@[simp] theorem setRing_csr (r : Nat) (g : Ring) : (k.setRing r g).csr = k.csr := rfl
@[simp] theorem takeTok_csr (q : Fin 16) : (k.takeTok q).csr = k.csr := by unfold Core.takeTok; split <;> rfl
@[simp] theorem writeX_vpend (r : Fin 64) (w : LW) : (k.writeX r w).vpend = k.vpend := by unfold Core.writeX; split <;> rfl
@[simp] theorem writeA_vpend (r : Fin 32) (w : LW) : (k.writeA r w).vpend = k.vpend := by unfold Core.writeA; split <;> rfl
@[simp] theorem setRing_vpend (r : Nat) (g : Ring) : (k.setRing r g).vpend = k.vpend := rfl
@[simp] theorem takeTok_vpend (q : Fin 16) : (k.takeTok q).vpend = k.vpend := by unfold Core.takeTok; split <;> rfl
@[simp] theorem writeX_lt (r : Fin 64) (w : LW) : (k.writeX r w).lt = k.lt := by unfold Core.writeX; split <;> rfl
@[simp] theorem writeA_lt (r : Fin 32) (w : LW) : (k.writeA r w).lt = k.lt := by unfold Core.writeA; split <;> rfl
@[simp] theorem setRing_lt (r : Nat) (g : Ring) : (k.setRing r g).lt = k.lt := rfl
@[simp] theorem takeTok_lt (q : Fin 16) : (k.takeTok q).lt = k.lt := by unfold Core.takeTok; split <;> rfl
@[simp] theorem writeX_landings (r : Fin 64) (w : LW) : (k.writeX r w).landings = k.landings := by unfold Core.writeX; split <;> rfl
@[simp] theorem writeA_landings (r : Fin 32) (w : LW) : (k.writeA r w).landings = k.landings := by unfold Core.writeA; split <;> rfl
@[simp] theorem setRing_landings (r : Nat) (g : Ring) : (k.setRing r g).landings = k.landings := rfl
@[simp] theorem takeTok_landings (q : Fin 16) : (k.takeTok q).landings = k.landings := by unfold Core.takeTok; split <;> rfl
@[simp] theorem writeX_landPend (r : Fin 64) (w : LW) : (k.writeX r w).landPend = k.landPend := by unfold Core.writeX; split <;> rfl
@[simp] theorem writeA_landPend (r : Fin 32) (w : LW) : (k.writeA r w).landPend = k.landPend := by unfold Core.writeA; split <;> rfl
@[simp] theorem setRing_landPend (r : Nat) (g : Ring) : (k.setRing r g).landPend = k.landPend := rfl
@[simp] theorem takeTok_landPend (q : Fin 16) : (k.takeTok q).landPend = k.landPend := by unfold Core.takeTok; split <;> rfl
@[simp] theorem writeX_loop (r : Fin 64) (w : LW) : (k.writeX r w).loop = k.loop := by unfold Core.writeX; split <;> rfl
@[simp] theorem writeA_loop (r : Fin 32) (w : LW) : (k.writeA r w).loop = k.loop := by unfold Core.writeA; split <;> rfl
@[simp] theorem setRing_loop (r : Nat) (g : Ring) : (k.setRing r g).loop = k.loop := rfl
@[simp] theorem takeTok_loop (q : Fin 16) : (k.takeTok q).loop = k.loop := by unfold Core.takeTok; split <;> rfl
@[simp] theorem writeX_again (r : Fin 64) (w : LW) : (k.writeX r w).again = k.again := by unfold Core.writeX; split <;> rfl
@[simp] theorem writeA_again (r : Fin 32) (w : LW) : (k.writeA r w).again = k.again := by unfold Core.writeA; split <;> rfl
@[simp] theorem setRing_again (r : Nat) (g : Ring) : (k.setRing r g).again = k.again := rfl
@[simp] theorem takeTok_again (q : Fin 16) : (k.takeTok q).again = k.again := by unfold Core.takeTok; split <;> rfl
@[simp] theorem writeX_vrows (r : Fin 64) (w : LW) : (k.writeX r w).vrows = k.vrows := by unfold Core.writeX; split <;> rfl
@[simp] theorem writeA_vrows (r : Fin 32) (w : LW) : (k.writeA r w).vrows = k.vrows := by unfold Core.writeA; split <;> rfl
@[simp] theorem setRing_vrows (r : Nat) (g : Ring) : (k.setRing r g).vrows = k.vrows := rfl
@[simp] theorem takeTok_vrows (q : Fin 16) : (k.takeTok q).vrows = k.vrows := by unfold Core.takeTok; split <;> rfl
@[simp] theorem writeX_rings (r : Fin 64) (w : LW) : (k.writeX r w).rings = k.rings := by unfold Core.writeX; split <;> rfl
@[simp] theorem writeA_rings (r : Fin 32) (w : LW) : (k.writeA r w).rings = k.rings := by unfold Core.writeA; split <;> rfl
@[simp] theorem takeTok_rings (q : Fin 16) : (k.takeTok q).rings = k.rings := by unfold Core.takeTok; split <;> rfl
@[simp] theorem writeX_scratch (r : Fin 64) (w : LW) : (k.writeX r w).scratch = k.scratch := by unfold Core.writeX; split <;> rfl
@[simp] theorem writeA_scratch (r : Fin 32) (w : LW) : (k.writeA r w).scratch = k.scratch := by unfold Core.writeA; split <;> rfl
@[simp] theorem setRing_scratch (r : Nat) (g : Ring) : (k.setRing r g).scratch = k.scratch := rfl
@[simp] theorem takeTok_scratch (q : Fin 16) : (k.takeTok q).scratch = k.scratch := by unfold Core.takeTok; split <;> rfl
@[simp] theorem writeX_segLab (r : Fin 64) (w : LW) : (k.writeX r w).segLab = k.segLab := by unfold Core.writeX; split <;> rfl
@[simp] theorem writeA_segLab (r : Fin 32) (w : LW) : (k.writeA r w).segLab = k.segLab := by unfold Core.writeA; split <;> rfl
@[simp] theorem setRing_segLab (r : Nat) (g : Ring) : (k.setRing r g).segLab = k.segLab := rfl
@[simp] theorem takeTok_segLab (q : Fin 16) : (k.takeTok q).segLab = k.segLab := by unfold Core.takeTok; split <;> rfl
@[simp] theorem writeX_scrBad (r : Fin 64) (w : LW) : (k.writeX r w).scrBad = k.scrBad := by unfold Core.writeX; split <;> rfl
@[simp] theorem writeA_scrBad (r : Fin 32) (w : LW) : (k.writeA r w).scrBad = k.scrBad := by unfold Core.writeA; split <;> rfl
@[simp] theorem setRing_scrBad (r : Nat) (g : Ring) : (k.setRing r g).scrBad = k.scrBad := rfl
@[simp] theorem takeTok_scrBad (q : Fin 16) : (k.takeTok q).scrBad = k.scrBad := by unfold Core.takeTok; split <;> rfl
@[simp] theorem writeX_shadow (r : Fin 64) (w : LW) : (k.writeX r w).shadow = k.shadow := by unfold Core.writeX; split <;> rfl
@[simp] theorem writeA_shadow (r : Fin 32) (w : LW) : (k.writeA r w).shadow = k.shadow := by unfold Core.writeA; split <;> rfl
@[simp] theorem setRing_shadow (r : Nat) (g : Ring) : (k.setRing r g).shadow = k.shadow := rfl
@[simp] theorem takeTok_shadow (q : Fin 16) : (k.takeTok q).shadow = k.shadow := by unfold Core.takeTok; split <;> rfl
@[simp] theorem writeX_active (r : Fin 64) (w : LW) : (k.writeX r w).active = k.active := by unfold Core.writeX; split <;> rfl
@[simp] theorem writeA_active (r : Fin 32) (w : LW) : (k.writeA r w).active = k.active := by unfold Core.writeA; split <;> rfl
@[simp] theorem setRing_active (r : Nat) (g : Ring) : (k.setRing r g).active = k.active := rfl
@[simp] theorem takeTok_active (q : Fin 16) : (k.takeTok q).active = k.active := by unfold Core.takeTok; split <;> rfl
@[simp] theorem writeX_cfg (r : Fin 64) (w : LW) : (k.writeX r w).cfg = k.cfg := by unfold Core.writeX; split <;> rfl
@[simp] theorem writeA_cfg (r : Fin 32) (w : LW) : (k.writeA r w).cfg = k.cfg := by unfold Core.writeA; split <;> rfl
@[simp] theorem setRing_cfg (r : Nat) (g : Ring) : (k.setRing r g).cfg = k.cfg := rfl
@[simp] theorem takeTok_cfg (q : Fin 16) : (k.takeTok q).cfg = k.cfg := by unfold Core.takeTok; split <;> rfl
@[simp] theorem writeX_fmtq (r : Fin 64) (w : LW) : (k.writeX r w).fmtq = k.fmtq := by unfold Core.writeX; split <;> rfl
@[simp] theorem writeA_fmtq (r : Fin 32) (w : LW) : (k.writeA r w).fmtq = k.fmtq := by unfold Core.writeA; split <;> rfl
@[simp] theorem setRing_fmtq (r : Nat) (g : Ring) : (k.setRing r g).fmtq = k.fmtq := rfl
@[simp] theorem takeTok_fmtq (q : Fin 16) : (k.takeTok q).fmtq = k.fmtq := by unfold Core.takeTok; split <;> rfl
@[simp] theorem writeX_fifo (r : Fin 64) (w : LW) : (k.writeX r w).fifo = k.fifo := by unfold Core.writeX; split <;> rfl
@[simp] theorem writeA_fifo (r : Fin 32) (w : LW) : (k.writeA r w).fifo = k.fifo := by unfold Core.writeA; split <;> rfl
@[simp] theorem setRing_fifo (r : Nat) (g : Ring) : (k.setRing r g).fifo = k.fifo := rfl
@[simp] theorem takeTok_fifo (q : Fin 16) : (k.takeTok q).fifo = k.fifo := by unfold Core.takeTok; split <;> rfl
@[simp] theorem writeX_mgo (r : Fin 64) (w : LW) : (k.writeX r w).mgo = k.mgo := by unfold Core.writeX; split <;> rfl
@[simp] theorem writeA_mgo (r : Fin 32) (w : LW) : (k.writeA r w).mgo = k.mgo := by unfold Core.writeA; split <;> rfl
@[simp] theorem setRing_mgo (r : Nat) (g : Ring) : (k.setRing r g).mgo = k.mgo := rfl
@[simp] theorem takeTok_mgo (q : Fin 16) : (k.takeTok q).mgo = k.mgo := by unfold Core.takeTok; split <;> rfl
@[simp] theorem writeX_stopAt (r : Fin 64) (w : LW) : (k.writeX r w).stopAt = k.stopAt := by unfold Core.writeX; split <;> rfl
@[simp] theorem writeA_stopAt (r : Fin 32) (w : LW) : (k.writeA r w).stopAt = k.stopAt := by unfold Core.writeA; split <;> rfl
@[simp] theorem setRing_stopAt (r : Nat) (g : Ring) : (k.setRing r g).stopAt = k.stopAt := rfl
@[simp] theorem takeTok_stopAt (q : Fin 16) : (k.takeTok q).stopAt = k.stopAt := by unfold Core.takeTok; split <;> rfl
@[simp] theorem writeX_owner (r : Fin 64) (w : LW) : (k.writeX r w).owner = k.owner := by unfold Core.writeX; split <;> rfl
@[simp] theorem writeA_owner (r : Fin 32) (w : LW) : (k.writeA r w).owner = k.owner := by unfold Core.writeA; split <;> rfl
@[simp] theorem setRing_owner (r : Nat) (g : Ring) : (k.setRing r g).owner = k.owner := rfl
@[simp] theorem takeTok_owner (q : Fin 16) : (k.takeTok q).owner = k.owner := by unfold Core.takeTok; split <;> rfl
@[simp] theorem writeX_run (r : Fin 64) (w : LW) : (k.writeX r w).run = k.run := by unfold Core.writeX; split <;> rfl
@[simp] theorem writeA_run (r : Fin 32) (w : LW) : (k.writeA r w).run = k.run := by unfold Core.writeA; split <;> rfl
@[simp] theorem setRing_run (r : Nat) (g : Ring) : (k.setRing r g).run = k.run := rfl
@[simp] theorem takeTok_run (q : Fin 16) : (k.takeTok q).run = k.run := by unfold Core.takeTok; split <;> rfl
@[simp] theorem writeX_drains (r : Fin 64) (w : LW) : (k.writeX r w).drains = k.drains := by unfold Core.writeX; split <;> rfl
@[simp] theorem writeA_drains (r : Fin 32) (w : LW) : (k.writeA r w).drains = k.drains := by unfold Core.writeA; split <;> rfl
@[simp] theorem setRing_drains (r : Nat) (g : Ring) : (k.setRing r g).drains = k.drains := rfl
@[simp] theorem takeTok_drains (q : Fin 16) : (k.takeTok q).drains = k.drains := by unfold Core.takeTok; split <;> rfl
@[simp] theorem writeX_ragged (r : Fin 64) (w : LW) : (k.writeX r w).ragged = k.ragged := by unfold Core.writeX; split <;> rfl
@[simp] theorem writeA_ragged (r : Fin 32) (w : LW) : (k.writeA r w).ragged = k.ragged := by unfold Core.writeA; split <;> rfl
@[simp] theorem setRing_ragged (r : Nat) (g : Ring) : (k.setRing r g).ragged = k.ragged := rfl
@[simp] theorem takeTok_ragged (q : Fin 16) : (k.takeTok q).ragged = k.ragged := by unfold Core.takeTok; split <;> rfl
@[simp] theorem writeX_cuts (r : Fin 64) (w : LW) : (k.writeX r w).cuts = k.cuts := by unfold Core.writeX; split <;> rfl
@[simp] theorem writeA_cuts (r : Fin 32) (w : LW) : (k.writeA r w).cuts = k.cuts := by unfold Core.writeA; split <;> rfl
@[simp] theorem setRing_cuts (r : Nat) (g : Ring) : (k.setRing r g).cuts = k.cuts := rfl
@[simp] theorem takeTok_cuts (q : Fin 16) : (k.takeTok q).cuts = k.cuts := by unfold Core.takeTok; split <;> rfl
@[simp] theorem writeX_plane0 (r : Fin 64) (w : LW) : (k.writeX r w).plane0 = k.plane0 := by unfold Core.writeX; split <;> rfl
@[simp] theorem writeA_plane0 (r : Fin 32) (w : LW) : (k.writeA r w).plane0 = k.plane0 := by unfold Core.writeA; split <;> rfl
@[simp] theorem setRing_plane0 (r : Nat) (g : Ring) : (k.setRing r g).plane0 = k.plane0 := rfl
@[simp] theorem takeTok_plane0 (q : Fin 16) : (k.takeTok q).plane0 = k.plane0 := by unfold Core.takeTok; split <;> rfl
@[simp] theorem writeX_plane1 (r : Fin 64) (w : LW) : (k.writeX r w).plane1 = k.plane1 := by unfold Core.writeX; split <;> rfl
@[simp] theorem writeA_plane1 (r : Fin 32) (w : LW) : (k.writeA r w).plane1 = k.plane1 := by unfold Core.writeA; split <;> rfl
@[simp] theorem setRing_plane1 (r : Nat) (g : Ring) : (k.setRing r g).plane1 = k.plane1 := rfl
@[simp] theorem takeTok_plane1 (q : Fin 16) : (k.takeTok q).plane1 = k.plane1 := by unfold Core.takeTok; split <;> rfl
@[simp] theorem writeX_lace (r : Fin 64) (w : LW) : (k.writeX r w).lace = k.lace := by unfold Core.writeX; split <;> rfl
@[simp] theorem writeA_lace (r : Fin 32) (w : LW) : (k.writeA r w).lace = k.lace := by unfold Core.writeA; split <;> rfl
@[simp] theorem setRing_lace (r : Nat) (g : Ring) : (k.setRing r g).lace = k.lace := rfl
@[simp] theorem takeTok_lace (q : Fin 16) : (k.takeTok q).lace = k.lace := by unfold Core.takeTok; split <;> rfl
@[simp] theorem writeX_dacc (r : Fin 64) (w : LW) : (k.writeX r w).dacc = k.dacc := by unfold Core.writeX; split <;> rfl
@[simp] theorem writeA_dacc (r : Fin 32) (w : LW) : (k.writeA r w).dacc = k.dacc := by unfold Core.writeA; split <;> rfl
@[simp] theorem setRing_dacc (r : Nat) (g : Ring) : (k.setRing r g).dacc = k.dacc := rfl
@[simp] theorem takeTok_dacc (q : Fin 16) : (k.takeTok q).dacc = k.dacc := by unfold Core.takeTok; split <;> rfl
@[simp] theorem writeX_latch (r : Fin 64) (w : LW) : (k.writeX r w).latch = k.latch := by unfold Core.writeX; split <;> rfl
@[simp] theorem writeA_latch (r : Fin 32) (w : LW) : (k.writeA r w).latch = k.latch := by unfold Core.writeA; split <;> rfl
@[simp] theorem setRing_latch (r : Nat) (g : Ring) : (k.setRing r g).latch = k.latch := rfl
@[simp] theorem takeTok_latch (q : Fin 16) : (k.takeTok q).latch = k.latch := by unfold Core.takeTok; split <;> rfl
@[simp] theorem writeX_ending (r : Fin 64) (w : LW) : (k.writeX r w).ending = k.ending := by unfold Core.writeX; split <;> rfl
@[simp] theorem writeA_ending (r : Fin 32) (w : LW) : (k.writeA r w).ending = k.ending := by unfold Core.writeA; split <;> rfl
@[simp] theorem setRing_ending (r : Nat) (g : Ring) : (k.setRing r g).ending = k.ending := rfl
@[simp] theorem takeTok_ending (q : Fin 16) : (k.takeTok q).ending = k.ending := by unfold Core.takeTok; split <;> rfl
@[simp] theorem writeX_killed (r : Fin 64) (w : LW) : (k.writeX r w).killed = k.killed := by unfold Core.writeX; split <;> rfl
@[simp] theorem writeA_killed (r : Fin 32) (w : LW) : (k.writeA r w).killed = k.killed := by unfold Core.writeA; split <;> rfl
@[simp] theorem setRing_killed (r : Nat) (g : Ring) : (k.setRing r g).killed = k.killed := rfl
@[simp] theorem takeTok_killed (q : Fin 16) : (k.takeTok q).killed = k.killed := by unfold Core.takeTok; split <;> rfl
@[simp] theorem writeX_l1 (r : Fin 64) (w : LW) : (k.writeX r w).l1 = k.l1 := by unfold Core.writeX; split <;> rfl
@[simp] theorem writeA_l1 (r : Fin 32) (w : LW) : (k.writeA r w).l1 = k.l1 := by unfold Core.writeA; split <;> rfl
@[simp] theorem setRing_l1 (r : Nat) (g : Ring) : (k.setRing r g).l1 = k.l1 := rfl
@[simp] theorem takeTok_l1 (q : Fin 16) : (k.takeTok q).l1 = k.l1 := by unfold Core.takeTok; split <;> rfl
@[simp] theorem writeX_pref (r : Fin 64) (w : LW) : (k.writeX r w).pref = k.pref := by unfold Core.writeX; split <;> rfl
@[simp] theorem writeA_pref (r : Fin 32) (w : LW) : (k.writeA r w).pref = k.pref := by unfold Core.writeA; split <;> rfl
@[simp] theorem setRing_pref (r : Nat) (g : Ring) : (k.setRing r g).pref = k.pref := rfl
@[simp] theorem takeTok_pref (q : Fin 16) : (k.takeTok q).pref = k.pref := by unfold Core.takeTok; split <;> rfl
@[simp] theorem writeX_utlb (r : Fin 64) (w : LW) : (k.writeX r w).utlb = k.utlb := by unfold Core.writeX; split <;> rfl
@[simp] theorem writeA_utlb (r : Fin 32) (w : LW) : (k.writeA r w).utlb = k.utlb := by unfold Core.writeA; split <;> rfl
@[simp] theorem setRing_utlb (r : Nat) (g : Ring) : (k.setRing r g).utlb = k.utlb := rfl
@[simp] theorem takeTok_utlb (q : Fin 16) : (k.takeTok q).utlb = k.utlb := by unfold Core.takeTok; split <;> rfl
@[simp] theorem writeX_l2tlb (r : Fin 64) (w : LW) : (k.writeX r w).l2tlb = k.l2tlb := by unfold Core.writeX; split <;> rfl
@[simp] theorem writeA_l2tlb (r : Fin 32) (w : LW) : (k.writeA r w).l2tlb = k.l2tlb := by unfold Core.writeA; split <;> rfl
@[simp] theorem setRing_l2tlb (r : Nat) (g : Ring) : (k.setRing r g).l2tlb = k.l2tlb := rfl
@[simp] theorem takeTok_l2tlb (q : Fin 16) : (k.takeTok q).l2tlb = k.l2tlb := by unfold Core.takeTok; split <;> rfl
@[simp] theorem writeX_owed (r : Fin 64) (w : LW) : (k.writeX r w).owed = k.owed := by unfold Core.writeX; split <;> rfl
@[simp] theorem writeA_owed (r : Fin 32) (w : LW) : (k.writeA r w).owed = k.owed := by unfold Core.writeA; split <;> rfl
@[simp] theorem setRing_owed (r : Nat) (g : Ring) : (k.setRing r g).owed = k.owed := rfl
@[simp] theorem writeX_popped (r : Fin 64) (w : LW) : (k.writeX r w).popped = k.popped := by unfold Core.writeX; split <;> rfl
@[simp] theorem writeA_popped (r : Fin 32) (w : LW) : (k.writeA r w).popped = k.popped := by unfold Core.writeA; split <;> rfl
@[simp] theorem setRing_popped (r : Nat) (g : Ring) : (k.setRing r g).popped = k.popped := rfl
@[simp] theorem takeTok_popped (q : Fin 16) : (k.takeTok q).popped = k.popped := by unfold Core.takeTok; split <;> rfl
@[simp] theorem writeX_walks (r : Fin 64) (w : LW) : (k.writeX r w).walks = k.walks := by unfold Core.writeX; split <;> rfl
@[simp] theorem writeA_walks (r : Fin 32) (w : LW) : (k.writeA r w).walks = k.walks := by unfold Core.writeA; split <;> rfl
@[simp] theorem setRing_walks (r : Nat) (g : Ring) : (k.setRing r g).walks = k.walks := rfl
@[simp] theorem takeTok_walks (q : Fin 16) : (k.takeTok q).walks = k.walks := by unfold Core.takeTok; split <;> rfl
end

/-- What reads as a register after a write: x0 and a0 stay zero (R14). -/
theorem readX_writeX (k : Core) (r q : Fin 64) (w : LW) :
    (k.writeX r w).readX q = if q = 0 then ⟨0, 0⟩ else if r = q then w else k.readX q := by
  by_cases hq : q = 0
  · simp [Core.readX, hq]
  · by_cases hr : r = 0
    · subst hr
      simp [Core.readX, Core.writeX, hq, Ne.symm hq]
    · simp [Core.readX, Core.writeX, hq, hr, Vector.getElem_set, Fin.val_inj]

theorem readA_writeA (k : Core) (r q : Fin 32) (w : LW) :
    (k.writeA r w).readA q = if q = 0 then ⟨0, 0⟩ else if r = q then w else k.readA q := by
  by_cases hq : q = 0
  · simp [Core.readA, hq]
  · by_cases hr : r = 0
    · subst hr
      simp [Core.readA, Core.writeA, hq, Ne.symm hq]
    · simp [Core.readA, Core.writeA, hq, hr, Vector.getElem_set, Fin.val_inj]

end Sys2Proof.Machine
end

