-- ==== Sys2Proof/Laws/Words.lean ====
section
/-! SUPPORT. What issuing a word, retiring words and moving on from a word can do, said once; later proofs cite these and unfold neither
`issue` nor `finish`. -/

namespace Sys2Proof.Machine
open Sys2Proof

/-! ### Retiring words -/

/-- A core differs from another in the tokens that words of stream `st` have signalled and in the routes that they have set. -/
def Core.Told (st : Stream) (k k' : Core) : Prop :=
  k' = { k with c := k'.c, a := k'.a, v := k'.v, m := k'.m, tok := k'.tok, tokLab := k'.tokLab, latch := k'.latch } ∧
  (∀ u, u ≠ st → k'.strm u = k.strm u) ∧
  k'.strm st = { k.strm st with routeIn := (k'.strm st).routeIn, routeOut := (k'.strm st).routeOut }

theorem Core.Told.refl (st : Stream) (k : Core) : Core.Told st k k := ⟨rfl, fun _ _ => rfl, rfl⟩
theorem Core.Told.trans {st : Stream} {k k' k'' : Core} (h : Core.Told st k k') (g : Core.Told st k' k'') : Core.Told st k k'' := by
  obtain ⟨h1, h2, h3⟩ := h
  obtain ⟨g1, g2, g3⟩ := g
  have e1 := congrArg (fun z : Core => ({ z with
    c := k''.c, a := k''.a, v := k''.v, m := k''.m, tok := k''.tok, tokLab := k''.tokLab, latch := k''.latch } : Core)) h1
  have e3 := congrArg (fun z : Strm => ({ z with
    routeIn := (k''.strm st).routeIn, routeOut := (k''.strm st).routeOut } : Strm)) h3
  exact ⟨g1.trans e1, fun u hu => (g2 u hu).trans (h2 u hu), g3.trans e3⟩

theorem Core.signal_strm (k : Core) (q : Fin 16) (l : Label) (u : Stream) : (k.signal q l).strm u = k.strm u := by
  unfold Core.signal
  split
  · rfl
  · cases u <;> rfl

theorem Core.told_signal (st : Stream) (k : Core) (q : Fin 16) (l : Label) : Core.Told st k (k.signal q l) := by
  refine ⟨?_, fun u _ => Core.signal_strm k q l u, ?_⟩
  · unfold Core.signal
    split <;> rfl
  · rw [Core.signal_strm]

theorem Core.signalAll_spec (st : Stream) (l : Label) (qs : List Nat) (k k' : Core) (h : k.signalAll l qs = some k') :
    Core.Told st k k' ∧ ∀ u, k'.strm u = k.strm u := by
  induction qs generalizing k with
  | nil => simp only [Core.signalAll, Option.some.injEq] at h; subst h; exact ⟨.refl st k, fun _ => rfl⟩
  | cons q r ih =>
    cases r with
    | nil =>
      simp only [Core.signalAll] at h
      split at h
      · simp only [Option.some.injEq] at h; subst h; exact ⟨told_signal st k _ l, signal_strm k _ l⟩
      · exact absurd h (by simp)
    | cons p r =>
      simp only [Core.signalAll] at h
      split at h
      · obtain ⟨a, b⟩ := ih _ h
        exact ⟨(told_signal st k _ l).trans a, fun u => (b u).trans (signal_strm k _ l u)⟩
      · exact absurd h (by simp)

theorem Core.told_setRoute (st : Stream) (k : Core) (r : Option (Fin 16 × Fin 16)) :
    Core.Told st k (k.setStrm st ((k.strm st).setRoute r)) := by
  refine ⟨by cases st <;> rfl, fun u hu => strm_setStrm_ne k st _ u hu, ?_⟩
  rw [strm_setStrm_same]
  cases r <;> rfl

/-- With no TROUTE among its words in flight a stream keeps its routes, and has none then (R16, R355). -/
def Strm.steady (a b : Strm) : Prop :=
  (∀ e ∈ a.infl, e.route = none) → (∀ e ∈ b.infl, e.route = none) ∧ b.routeIn = a.routeIn ∧ b.routeOut = a.routeOut
theorem Strm.steady_refl (a : Strm) : Strm.steady a a := fun h => ⟨h, rfl, rfl⟩
theorem Strm.steady_trans {a b c : Strm} (h : Strm.steady a b) (g : Strm.steady b c) : Strm.steady a c := fun x => by
  obtain ⟨h1, h2, h3⟩ := h x
  obtain ⟨g1, g2, g3⟩ := g h1
  exact ⟨g1, g2.trans h2, g3.trans h3⟩
theorem Strm.steady_of {a b : Strm} (h : b.infl = a.infl) (h1 : b.routeIn = a.routeIn) (h2 : b.routeOut = a.routeOut) : Strm.steady a b :=
  fun x => ⟨by rw [h]; exact x, h1, h2⟩

/-- Retiring words of stream `st`: what has been signalled and routed; the words that stay are among them, a word whose condition does not hold
stays, and with no TROUTE among the words the stream is as it was. -/
theorem Core.retire_spec (st : Stream) (l : List Infl) : ∀ (k : Core) (past : Bool),
    Core.Told st k (k.retire st past l).1 ∧ (∀ e ∈ l, e.done = false → e ∈ (k.retire st past l).2) ∧
      (∀ e ∈ (k.retire st past l).2, e ∈ l) ∧ ((∀ e ∈ l, e.route = none) → (k.retire st past l).1.strm st = k.strm st) := by
  induction l with
  | nil => intro k past; exact ⟨.refl st k, fun e he => absurd he (by simp), fun e he => he, fun _ => rfl⟩
  | cons i r ih =>
    intro k past
    have stay : Core.Told st k (k.retire st true r).1 ∧ (∀ e ∈ i :: r, e.done = false → e ∈ i :: (k.retire st true r).2) ∧
        (∀ e ∈ i :: (k.retire st true r).2, e ∈ i :: r) ∧ ((∀ e ∈ i :: r, e.route = none) → (k.retire st true r).1.strm st = k.strm st) := by
      obtain ⟨a, b, d, c⟩ := ih k true
      refine ⟨a, fun e he hd => ?_, fun e he => ?_, fun he => c fun e hm => he e (List.mem_cons_of_mem _ hm)⟩
      rcases List.mem_cons.1 he with rfl | hm
      · exact List.mem_cons_self
      · exact List.mem_cons_of_mem _ (b e hm hd)
      · rcases List.mem_cons.1 he with rfl | hm
        · exact List.mem_cons_self
        · exact List.mem_cons_of_mem _ (d e hm)
    simp only [Core.retire]
    split
    · rename_i hd
      split
      · rename_i k' hk
        obtain ⟨t1, t2⟩ := Core.signalAll_spec st _ _ _ _ hk
        obtain ⟨a, b, d, c⟩ := ih (k'.setStrm st ((k'.strm st).setRoute i.route)) past
        refine ⟨(t1.trans (told_setRoute st k' i.route)).trans a, fun e he hf => ?_, fun e he => List.mem_cons_of_mem _ (d e he), fun he => ?_⟩
        · rcases List.mem_cons.1 he with rfl | hm
          · exact absurd hd (by simp [hf])
          · exact b e hm hf
        · rw [c fun e hm => he e (List.mem_cons_of_mem _ hm), strm_setStrm_same, he i List.mem_cons_self]
          exact t2 st
      · exact stay
    · exact stay

/-- The words of stream `st` that may retire do. -/
theorem Core.retireAll_spec (st : Stream) (k : Core) :
    k.retireAll st = { k with
      c := (k.retireAll st).c, a := (k.retireAll st).a, v := (k.retireAll st).v, m := (k.retireAll st).m
      tok := (k.retireAll st).tok, tokLab := (k.retireAll st).tokLab, latch := (k.retireAll st).latch } ∧
    (∀ u, u ≠ st → (k.retireAll st).strm u = k.strm u) ∧
    (k.retireAll st).strm st = { k.strm st with
      infl := ((k.retireAll st).strm st).infl, routeIn := ((k.retireAll st).strm st).routeIn
      routeOut := ((k.retireAll st).strm st).routeOut } ∧
    (∀ e ∈ (k.strm st).infl, e.done = false → e ∈ ((k.retireAll st).strm st).infl) ∧
    Strm.steady (k.strm st) ((k.retireAll st).strm st) := by
  obtain ⟨⟨a1, a2, a3⟩, b, d, c⟩ := Core.retire_spec st (k.strm st).infl k false
  have e : k.retireAll st = (k.retire st false (k.strm st).infl).1.setStrm st
      { (k.retire st false (k.strm st).infl).1.strm st with infl := (k.retire st false (k.strm st).infl).2 } := rfl
  generalize k.retire st false (k.strm st).infl = x at *
  have es : (k.retireAll st).strm st = { x.1.strm st with infl := x.2 } := by rw [e, strm_setStrm_same]
  refine ⟨?_, ?_, ?_, ?_, ?_⟩
  · rw [e]
    generalize { x.1.strm st with infl := x.2 } = w
    have f := congrArg (fun z : Core => (z.setStrm st w : Core)) a1
    refine f.trans ?_
    cases st <;> rfl
  · intro u hu
    rw [e, strm_setStrm_ne _ _ _ _ hu]
    exact a2 u hu
  · rw [es]
    have f := congrArg (fun z : Strm => ({ z with infl := x.2 } : Strm)) a3
    exact f
  · rw [es]; exact b
  · intro h
    rw [es]
    have f := c h
    refine ⟨fun e he => h e (d e he), ?_, ?_⟩
    · have g := congrArg Strm.routeIn f
      exact g
    · have g := congrArg Strm.routeOut f
      exact g


/-! ### The bookkeeping of a core -/

/-- A core differs from another in the bookkeeping of a stream alone. -/
def Core.Book (st : Stream) (k k' : Core) : Prop :=
  k' = { k with
    c := k'.c, a := k'.a, v := k'.v, m := k'.m, tok := k'.tok, tokLab := k'.tokLab, latch := k'.latch
    csr := { k.csr with holdPeak := k'.csr.holdPeak } } ∧
  (∀ u, u ≠ st → k'.strm u = k.strm u) ∧ Strm.moved (k.strm st) (k'.strm st)

theorem Strm.moved_refl (a : Strm) : Strm.moved a a := rfl
theorem Strm.moved_of {a b : Strm} {i : List Infl} {x y : Fin 16} (h : b = { a with infl := i, routeIn := x, routeOut := y }) :
    Strm.moved a b := by subst h; rfl
theorem Strm.moved_trans {a b c : Strm} (h : Strm.moved a b) (g : Strm.moved b c) : Strm.moved a c := by
  unfold Strm.moved at *
  rw [g, h]

theorem Core.Book.refl (st : Stream) (k : Core) : Core.Book st k k := ⟨rfl, fun _ _ => rfl, rfl⟩
theorem Core.Book.trans {st : Stream} {k k' k'' : Core} (h : Core.Book st k k') (g : Core.Book st k' k'') : Core.Book st k k'' := by
  obtain ⟨h1, h2, h3⟩ := h
  obtain ⟨g1, g2, g3⟩ := g
  refine ⟨g1.trans ?_, fun u hu => (g2 u hu).trans (h2 u hu), Strm.moved_trans h3 g3⟩
  have e := congrArg (fun z : Core => ({ z with
    c := k''.c, a := k''.a, v := k''.v, m := k''.m, tok := k''.tok, tokLab := k''.tokLab, latch := k''.latch
    csr := { z.csr with holdPeak := k''.csr.holdPeak } } : Core)) h1
  exact e

theorem Core.book_setStrm (k : Core) (st : Stream) (t : Strm) (h : Strm.moved (k.strm st) t) : Core.Book st k (k.setStrm st t) := by
  refine ⟨by cases st <;> rfl, fun u hu => strm_setStrm_ne k st t u hu, by simpa using h⟩

theorem Core.book_retireAll (st : Stream) (k : Core) : Core.Book st k (k.retireAll st) := by
  obtain ⟨h1, h2, h3, -, -⟩ := Core.retireAll_spec st k
  refine ⟨?_, h2, ?_⟩
  · have e : (k.retireAll st).csr = k.csr := by
      have f := congrArg Core.csr h1
      exact f
    rw [e]
    exact h1
  · exact Strm.moved_of h3

/-! ### Moving on from a word -/

/-- The same of the module. -/
def State.Book (st : Stream) (s t : State) : Prop := t = { s with core := t.core } ∧ Core.Book st s.core t.core

theorem State.Book.refl (st : Stream) (s : State) : State.Book st s s := ⟨rfl, .refl st _⟩
theorem State.Book.trans {st : Stream} {s t u : State} (h : State.Book st s t) (g : State.Book st t u) : State.Book st s u :=
  ⟨by
    have e := congrArg (fun z : State => ({ z with core := u.core } : State)) h.1
    exact g.1.trans e, h.2.trans g.2⟩
theorem State.book_modStrm (st : Stream) (s : State) (f : Strm → Strm) (h : ∀ t, Strm.moved t (f t)) : State.Book st s (s.modStrm st f) :=
  ⟨rfl, Core.book_setStrm s.core st _ (h _)⟩
theorem State.Book.modStrm {st : Stream} {s t : State} (b : State.Book st s t) (f : Strm → Strm) (h : ∀ t, Strm.moved t (f t)) :
    State.Book st s (t.modStrm st f) := b.trans (State.book_modStrm st t f h)

theorem State.strm_modStrm (s : State) (st : Stream) (f : Strm → Strm) : (s.modStrm st f).core.strm st = f (s.strm st) := by
  rw [modStrm_core, strm_setStrm_same]

theorem State.book_closeHold (st : Stream) (s : State) : State.Book st s (s.closeHold st) := by
  unfold State.closeHold
  split
  · exact .refl st s
  · refine (State.book_modStrm st s (fun t => { t with hold := none }) fun t => rfl).trans ?_
    exact ⟨rfl, rfl, fun u _ => by cases u <;> rfl, by cases st <;> rfl⟩
theorem State.book_countHold (st : Stream) (s : State) : State.Book st s (s.countHold st) := by
  unfold State.countHold
  split
  · exact .refl st s
  · split
    · exact State.book_closeHold st s
    · exact State.book_modStrm st s _ fun t => rfl

/-- Counting a region touches no route and no word in flight. -/
theorem State.countHold_infl (st : Stream) (s : State) :
    ((s.countHold st).core.strm st).infl = (s.core.strm st).infl ∧ ((s.countHold st).core.strm st).routeIn = (s.core.strm st).routeIn ∧
      ((s.countHold st).core.strm st).routeOut = (s.core.strm st).routeOut := by
  have c : ∀ s : State, ((s.closeHold st).core.strm st).infl = (s.core.strm st).infl ∧
      ((s.closeHold st).core.strm st).routeIn = (s.core.strm st).routeIn ∧
      ((s.closeHold st).core.strm st).routeOut = (s.core.strm st).routeOut := by
    intro s
    unfold State.closeHold
    split
    · exact ⟨rfl, rfl, rfl⟩
    · cases st <;> exact ⟨rfl, rfl, rfl⟩
  unfold State.countHold
  split
  · exact ⟨rfl, rfl, rfl⟩
  · split
    · exact c s
    · cases st <;> exact ⟨rfl, rfl, rfl⟩

/-- The entry of a word among the words in flight. -/
def inflOf (i : Instr) (st : Stream) (h : Hdr) (s1 : State) (r : After) : Infl :=
  ⟨s1.core.next, (s1.strm st).pc, r.done, (if h.s then [(s1.strm st).routeOut.val] else []) ++ r.sigs,
    (tokensOf i h (s1.strm st)).map (·.val), r.rels, r.s.core.vpend.any fun p => p.id == s1.core.next, r.route, r.aw⟩

/-- Before the words that may retire do: the word stands among those in flight, its stream at the next word, its region counts it. -/
theorem finish_before (i : Instr) (st : Stream) (h : Hdr) (s1 : State) (r : After) (hv : st ≠ .v) :
    ∃ u : State, State.Book st (r.s.modCore fun k => { k with next := r.s.core.next + 1 }) u ∧
      finish i st h s1 r = (u.modCore fun k => k.retireAll st).ticks (if (s1.strm st).stitch = .released then 0 else 1) ∧
      (u.core.strm st).infl = (r.s.strm st).infl ++ [inflOf i st h s1 r] ∧ (u.core.strm st).routeIn = (r.s.strm st).routeIn ∧
      (u.core.strm st).routeOut = (r.s.strm st).routeOut ∧ (u.core.strm st).pc = r.next.getD (s1.pc st + 4) := by
  let a := r.s.modCore fun k => { k with next := r.s.core.next + 1 }
  let b := a.modStrm st fun u => { u with
    infl := u.infl ++ [inflOf i st h s1 r], stitch := .none
    blocked := if r.block then some s1.core.next else u.blocked }
  let c := if (s1.strm st).hold.isSome then b.countHold st else b
  let d := if r.block && r.ahead then
      c.modStrm st fun u => { u with ahead := some ⟨s1.core.next, c.core.x, u.clab, r.next.getD ((s1.strm st).pc + 4)⟩ }
    else c
  refine ⟨d.modStrm st fun u => { u with pc := r.next.getD ((s1.strm st).pc + 4) }, ?_, ?_, ?_⟩
  · refine State.Book.modStrm ?_ _ fun t => rfl
    have hb : State.Book st a b := State.book_modStrm st a _ fun t => rfl
    have hc : State.Book st a c := by
      simp only [c]
      split
      · exact hb.trans (State.book_countHold st b)
      · exact hb
    simp only [d]
    split
    · exact hc.modStrm _ fun t => rfl
    · exact hc
  · unfold finish
    simp only [if_neg hv]
    rfl
  · rw [State.strm_modStrm]
    have hb : (b.core.strm st).infl = (r.s.strm st).infl ++ [inflOf i st h s1 r] ∧ (b.core.strm st).routeIn = (r.s.strm st).routeIn ∧
        (b.core.strm st).routeOut = (r.s.strm st).routeOut := by
      simp only [b, State.strm_modStrm]
      exact ⟨by cases st <;> rfl, by cases st <;> rfl, by cases st <;> rfl⟩
    have hc : (c.core.strm st).infl = (r.s.strm st).infl ++ [inflOf i st h s1 r] ∧ (c.core.strm st).routeIn = (r.s.strm st).routeIn ∧
        (c.core.strm st).routeOut = (r.s.strm st).routeOut := by
      simp only [c]
      split
      · obtain ⟨e1, e2, e3⟩ := State.countHold_infl st b
        exact ⟨e1.trans hb.1, e2.trans hb.2.1, e3.trans hb.2.2⟩
      · exact hb
    have hd : (d.strm st).infl = (r.s.strm st).infl ++ [inflOf i st h s1 r] ∧ (d.strm st).routeIn = (r.s.strm st).routeIn ∧
        (d.strm st).routeOut = (r.s.strm st).routeOut := by
      simp only [d]
      split
      · simp only [State.strm, modStrm_core, strm_setStrm_same]
        exact hc
      · exact hc
    exact ⟨hd.1, hd.2.1, hd.2.2, rfl⟩

/-- Moving on from a word of stream C, A or M touches its bookkeeping alone. -/
theorem finish_moved (i : Instr) (st : Stream) (h : Hdr) (s1 : State) (r : After) (hv : st ≠ .v) :
    Moved st r.s (finish i st h s1 r) := by
  obtain ⟨u, hu, hf, -, -, -, -⟩ := finish_before i st h s1 r hv
  obtain ⟨h1, h2, h3, h4⟩ := hu.trans (⟨rfl, Core.book_retireAll st _⟩ : State.Book st u (u.modCore fun k => k.retireAll st))
  rw [hf]
  generalize (u.modCore fun k => k.retireAll st) = w at *
  refine ⟨⟨if (s1.strm st).stitch = .released then 0 else 1, by split <;> omega, ?_⟩, h2.trans rfl, ?_, ?_⟩
  · have e := congrArg (fun z : State => z.ticks (if (s1.strm st).stitch = .released then 0 else 1)) h1
    exact e.trans rfl
  · intro x hx
    exact (h3 x hx).trans (by cases x <;> rfl)
  · have h5 : ((r.s.modCore fun k => { k with next := r.s.core.next + 1 }).core.strm st) = r.s.strm st := by cases st <;> rfl
    rw [h5] at h4
    exact h4

/-- The stream moves to the target, or to the word that follows. -/
theorem finish_pc (i : Instr) (st : Stream) (h : Hdr) (s1 : State) (r : After) (hv : st ≠ .v) :
    (finish i st h s1 r).pc st = r.next.getD (s1.pc st + 4) := by
  obtain ⟨u, -, hf, -, -, -, hp⟩ := finish_before i st h s1 r hv
  rw [hf, ← hp]
  have e := congrArg Strm.pc (Core.retireAll_spec st u.core).2.2.1
  exact e

/-- A word other than TROUTE leaves the routes as they are, unless an older TROUTE retires (R16). -/
theorem finish_routes (i : Instr) (st : Stream) (h : Hdr) (s1 : State) (r : After) (hv : st ≠ .v) (hr : r.route = none) :
    RoutesKept st r.s (finish i st h s1 r) := by
  obtain ⟨u, -, hf, h1, h2, h3, -⟩ := finish_before i st h s1 r hv
  intro he
  have hn : ∀ e ∈ (u.core.strm st).infl, e.route = none := by
    rw [h1]
    intro e hm
    rcases List.mem_append.1 hm with hm | hm
    · exact he e hm
    · rw [List.mem_singleton.1 hm]; exact hr
  obtain ⟨-, g2, g3⟩ := (Core.retireAll_spec st u.core).2.2.2.2 hn
  rw [hf]
  exact ⟨g2.trans h2, g3.trans h3⟩

/-- A word whose condition does not hold yet stands among the issued words (R19). -/
theorem finish_inflight (i : Instr) (st : Stream) (h : Hdr) (s1 : State) (r : After) (hv : st ≠ .v) (hd : r.done = false) :
    ∃ e ∈ ((finish i st h s1 r).strm st).infl, e.id = s1.core.next ∧ e.done = false := by
  obtain ⟨u, -, hf, h1, -, -, -⟩ := finish_before i st h s1 r hv
  refine ⟨inflOf i st h s1 r, ?_, rfl, hd⟩
  rw [hf]
  refine (Core.retireAll_spec st u.core).2.2.2.1 _ ?_ hd
  rw [h1]
  exact List.mem_append_right _ List.mem_cons_self


/-! ### Moving on from a word of the V-stream -/

/-- A core differs from another in the bookkeeping of the V-stream and of its loop, and in the clock of a body, alone. -/
def Core.BookV (k k' : Core) : Prop :=
  k' = { k with
    c := { k.c with hold := k'.c.hold }
    v := k'.v, tok := k'.tok, tokLab := k'.tokLab, latch := k'.latch, rings := k'.rings
    csr := { k.csr with
      holdPeak := k'.csr.holdPeak, rrb := k'.csr.rrb, iter := k'.csr.iter, act := k'.csr.act, labs := k'.csr.labs }
    loop := k'.loop, again := k'.again } ∧ Strm.moved k.v k'.v ∧ Strm.steady k.v k'.v

theorem Core.BookV.refl (k : Core) : Core.BookV k k := ⟨rfl, rfl, Strm.steady_refl _⟩
theorem Core.BookV.trans {k k' k'' : Core} (h : Core.BookV k k') (g : Core.BookV k' k'') : Core.BookV k k'' := by
  obtain ⟨h1, h2, h3⟩ := h
  obtain ⟨g1, g2, g3⟩ := g
  have e := congrArg (fun z : Core => ({ z with
    c := { z.c with hold := k''.c.hold }
    v := k''.v, tok := k''.tok, tokLab := k''.tokLab, latch := k''.latch, rings := k''.rings
    csr := { z.csr with
      holdPeak := k''.csr.holdPeak, rrb := k''.csr.rrb, iter := k''.csr.iter, act := k''.csr.act, labs := k''.csr.labs }
    loop := k''.loop, again := k''.again } : Core)) h1
  exact ⟨g1.trans e, Strm.moved_trans h2 g2, Strm.steady_trans h3 g3⟩
theorem Core.Book.toV {k k' : Core} (h : Core.Book .v k k') (hs : Strm.steady k.v k'.v) : Core.BookV k k' := by
  obtain ⟨h1, h2, h3⟩ := h
  have hc : k'.c = k.c := h2 .c (by decide)
  have ha : k'.a = k.a := h2 .a (by decide)
  have hm : k'.m = k.m := h2 .m (by decide)
  refine ⟨h1.trans ?_, h3, hs⟩
  have hr : k'.rings = k.rings := by
    have e := congrArg Core.rings h1
    exact e
  have hl : k'.loop = k.loop := by
    have e := congrArg Core.loop h1
    exact e
  have hg : k'.again = k.again := by
    have e := congrArg Core.again h1
    exact e
  have hcsr : k'.csr = { k.csr with holdPeak := k'.csr.holdPeak } := by
    have e := congrArg Core.csr h1
    exact e
  have e1 : k'.csr.rrb = k.csr.rrb := by
    have e := congrArg Csrs.rrb hcsr
    exact e
  have e2 : k'.csr.iter = k.csr.iter := by
    have e := congrArg Csrs.iter hcsr
    exact e
  have e3 : k'.csr.act = k.csr.act := by
    have e := congrArg Csrs.act hcsr
    exact e
  have e4 : k'.csr.labs = k.csr.labs := by
    have e := congrArg Csrs.labs hcsr
    exact e
  rw [hc, ha, hm, hr, hl, hg, e1, e2, e3, e4]

theorem Core.bookV_release (k : Core) (r n : Nat) : Core.BookV k (k.release r n) := ⟨rfl, rfl, Strm.steady_refl _⟩
theorem Core.bookV_retireAll (k : Core) : Core.BookV k (k.retireAll .v) :=
  (Core.book_retireAll .v k).toV (Core.retireAll_spec .v k).2.2.2.2

theorem Core.bookV_complete (k : Core) (id : Nat) : Core.BookV k (k.complete .v id) := by
  unfold Core.complete
  simp only
  have hf : ∀ (l : List (Nat × Nat)) (k : Core), Core.BookV k (l.foldl (fun k r => k.release r.1 r.2) k) := by
    intro l
    induction l with
    | nil => intro k; exact .refl k
    | cons x r ih => intro k; exact (bookV_release k x.1 x.2).trans (ih _)
  have h0 := hf ((((k.strm .v).infl.filter fun i => i.id == id && !i.done).flatMap (·.rels))) k
  refine h0.trans ?_
  generalize List.foldl _ k _ = k1
  refine Core.BookV.trans ?_ (Core.bookV_retireAll _)
  refine ⟨rfl, rfl, fun he => ⟨fun e hm => ?_, rfl, rfl⟩⟩
  obtain ⟨x, hx, rfl⟩ := List.mem_map.1 hm
  split
  · exact he x hx
  · exact he x hx

/-- The same of the module. -/
def State.BookV (s t : State) : Prop := t = { s with core := t.core } ∧ Core.BookV s.core t.core

theorem State.BookV.refl (s : State) : State.BookV s s := ⟨rfl, .refl _⟩
theorem State.BookV.trans {s t u : State} (h : State.BookV s t) (g : State.BookV t u) : State.BookV s u :=
  ⟨by
    have e := congrArg (fun z : State => ({ z with core := u.core } : State)) h.1
    exact g.1.trans e, h.2.trans g.2⟩

theorem State.bookV_startBody (s : State) : State.BookV s s.startBody := by
  unfold State.startBody
  split
  · split
    · split
      · exact .refl s
      · exact ⟨rfl, rfl, rfl, Strm.steady_refl _⟩
    · exact .refl s
  · exact .refl s

theorem State.bookV_complete (s : State) (id : Nat) : State.BookV s (s.complete .v id) :=
  State.BookV.trans (t := s.modCore fun k => k.complete .v id) ⟨rfl, Core.bookV_complete s.core id⟩ (State.bookV_startBody _)

theorem State.bookV_endPass (s : State) (l : Loop) (pc : W64) : State.BookV s (s.endPass l pc) := by
  refine ⟨rfl, ?_, rfl, Strm.steady_of rfl rfl rfl⟩
  have hj : ∀ (c : Csrs) (l : Label), ∃ labs, c.joinLab .stg l = { c with labs := labs } := by
    intro c l
    unfold Csrs.joinLab
    split
    · exact ⟨c.labs, rfl⟩
    · exact ⟨_, rfl⟩
  unfold State.endPass
  simp only
  generalize hz : ({ s.core.csr with rrb := _, iter := _, act := _ } : Csrs) = z
  obtain ⟨labs, hl⟩ := hj z s.core.v.clab
  rw [hl, ← hz]

theorem State.bookV_moveV (s : State) (was : Option Loop) (pc : W64) : State.BookV s (s.moveV was pc) := by
  unfold State.moveV
  split
  · split
    · exact State.bookV_endPass s _ pc
    · exact ⟨rfl, rfl, rfl, Strm.steady_of rfl rfl rfl⟩
  · exact ⟨rfl, rfl, rfl, Strm.steady_of rfl rfl rfl⟩

theorem Core.applyPend_rest (k : Core) (p : VPend) :
    k.applyPend p = { k with vr := (k.applyPend p).vr, em := (k.applyPend p).em, cm := (k.applyPend p).cm } := by
  unfold Core.applyPend
  split
  · rfl
  · split <;> rfl

/-- What a landing does to a core depends on its vector registers and masks alone. -/
theorem Core.applyPend_alike {k k' : Core} (hr : k'.vr = k.vr) (he : k'.em = k.em) (hc : k'.cm = k.cm) (p : VPend) :
    (k'.applyPend p).vr = (k.applyPend p).vr ∧ (k'.applyPend p).em = (k.applyPend p).em ∧ (k'.applyPend p).cm = (k.applyPend p).cm := by
  unfold Core.applyPend
  split
  · exact ⟨hr, rfl, hc⟩
  · split
    · exact ⟨hr, he, by simp only [hc]⟩
    · exact ⟨by simp only [hr], he, hc⟩

theorem Core.applyAll_rest (l : List VPend) (k : Core) :
    l.foldl Core.applyPend k = { k with
      vr := (l.foldl Core.applyPend k).vr, em := (l.foldl Core.applyPend k).em, cm := (l.foldl Core.applyPend k).cm } := by
  induction l generalizing k with
  | nil => rfl
  | cons p r ih =>
    simp only [List.foldl_cons]
    have e := ih (k.applyPend p)
    have f := congrArg (fun z : Core => ({ z with
      vr := (r.foldl Core.applyPend (k.applyPend p)).vr, em := (r.foldl Core.applyPend (k.applyPend p)).em
      cm := (r.foldl Core.applyPend (k.applyPend p)).cm } : Core)) (Core.applyPend_rest k p)
    exact e.trans f

theorem Core.applyAll_alike (l : List VPend) {k k' : Core} (hr : k'.vr = k.vr) (he : k'.em = k.em) (hc : k'.cm = k.cm) :
    (l.foldl Core.applyPend k').vr = (l.foldl Core.applyPend k).vr ∧
    (l.foldl Core.applyPend k').em = (l.foldl Core.applyPend k).em ∧ (l.foldl Core.applyPend k').cm = (l.foldl Core.applyPend k).cm := by
  induction l generalizing k k' with
  | nil => exact ⟨hr, he, hc⟩
  | cons p r ih =>
    obtain ⟨a, b, c⟩ := Core.applyPend_alike hr he hc p
    exact ih a b c

/-- Landing touches the pending writes, the vector registers and the masks. -/
theorem Core.landed_rest (k : Core) (n : Nat) :
    k.landed n = { k with vpend := (k.landed n).vpend, vr := (k.landed n).vr, em := (k.landed n).em, cm := (k.landed n).cm } := by
  unfold Core.landed
  have e := Core.applyAll_rest (sortPend (k.vpend.filter fun p => decide (p.left ≤ n)))
    { k with vpend := (k.vpend.filter fun p => decide (n < p.left)).map fun p => { p with left := p.left - n } }
  generalize List.foldl Core.applyPend _ _ = z at *
  have f := congrArg Core.vpend e
  rw [e]

theorem Core.landed_vpend (k : Core) (n : Nat) :
    (k.landed n).vpend = (k.vpend.filter fun p => decide (n < p.left)).map fun p => { p with left := p.left - n } := by
  unfold Core.landed
  have e := congrArg Core.vpend (Core.applyAll_rest (sortPend (k.vpend.filter fun p => decide (p.left ≤ n)))
    { k with vpend := (k.vpend.filter fun p => decide (n < p.left)).map fun p => { p with left := p.left - n } })
  exact e

theorem Core.landed_alike {k k' : Core} (n : Nat) (hp : k'.vpend = k.vpend) (hr : k'.vr = k.vr) (he : k'.em = k.em) (hc : k'.cm = k.cm) :
    (k'.landed n).vr = (k.landed n).vr ∧ (k'.landed n).em = (k.landed n).em ∧ (k'.landed n).cm = (k.landed n).cm := by
  unfold Core.landed
  rw [hp]
  exact Core.applyAll_alike _ hr he hc


/-- Before issue distance passes: the word stands among those in flight, its region counts it, the V-stream has moved on. -/
theorem finish_beforeV (i : Instr) (h : Hdr) (s1 : State) (r : After) :
    ∃ b u : State, b = { r.s with core := b.core } ∧
      b.core = { r.s.core with
        next := r.s.core.next + 1
        v := { r.s.core.v with
          infl := r.s.core.v.infl ++ [inflOf i .v h s1 r], stitch := .none
          blocked := if r.block then some s1.core.next else r.s.core.v.blocked } } ∧
      State.BookV b u ∧
      finish i .v h s1 r = ((u.passDistance (vOcc i)).modCore fun k => k.retireAll .v).ticks
        (if (s1.strm .v).stitch = .released then 0 else vOcc i) := by
  let a := r.s.modCore fun k => { k with next := r.s.core.next + 1 }
  let b := a.modStrm .v fun u => { u with
    infl := u.infl ++ [inflOf i .v h s1 r], stitch := .none
    blocked := if r.block then some s1.core.next else u.blocked }
  let c := if (s1.strm .v).hold.isSome then b.countHold .v else b
  let d := if r.block && r.ahead then
      c.modStrm .v fun u => { u with ahead := some ⟨s1.core.next, c.core.x, u.clab, r.next.getD ((s1.strm .v).pc + 4)⟩ }
    else c
  refine ⟨b, d.moveV s1.core.loop (r.next.getD ((s1.strm .v).pc + 4)), rfl, rfl, ?_, ?_⟩
  · have hc : State.BookV b c := by
      simp only [c]
      split
      · obtain ⟨e1, e2⟩ := State.book_countHold .v b
        obtain ⟨f1, f2, f3⟩ := State.countHold_infl .v b
        exact ⟨e1, e2.toV (Strm.steady_of f1 f2 f3)⟩
      · exact .refl b
    have hd : State.BookV c d := by
      simp only [d]
      split
      · exact ⟨rfl, rfl, rfl, Strm.steady_of rfl rfl rfl⟩
      · exact .refl c
    exact (hc.trans hd).trans (State.bookV_moveV d _ _)
  · unfold finish
    simp only [if_true]
    rfl

/-- The issue distance of `n` cycles lands what is due, and lets words retire. -/
theorem State.bookV_passDistance (s : State) (n : Nat) :
    State.BookV (s.modCore fun _ => s.core.landed n) ((s.passDistance n).modCore fun k => k.retireAll .v) := by
  have hfold : ∀ (l : List VPend) (s : State), State.BookV s (l.foldl (fun s p => s.complete .v p.id) s) := by
    intro l
    induction l with
    | nil => intro s; exact .refl _
    | cons p r ih => intro s; exact (State.bookV_complete s p.id).trans (ih _)
  unfold State.passDistance
  simp only
  exact (hfold (sortPend (s.core.vpend.filter fun p => decide (p.left ≤ n))) (s.modCore fun _ => s.core.landed n)).trans
    ⟨rfl, Core.bookV_retireAll _⟩

/-- Moving on from a word of the V-stream touches its bookkeeping, and lands what is due. -/
theorem finish_movedV (i : Instr) (h : Hdr) (s1 : State) (r : After) : MovedV (vOcc i) r.s (finish i .v h s1 r) := by
  obtain ⟨b, u, hb1, hb2, ⟨hu1, hu2, hu3, -⟩, hf⟩ := finish_beforeV i h s1 r
  obtain ⟨hw1, hw2, hw3, -⟩ := State.bookV_passDistance u (vOcc i)
  rw [hf]
  generalize ((u.passDistance (vOcc i)).modCore fun k => k.retireAll .v) = w at *
  simp only [modCore_core] at hw2 hw3
  generalize (vOcc i) = n at *
  have hu2' := hu2
  rw [hb2] at hu2
  have vp : u.core.vpend = r.s.core.vpend := by
    have e := congrArg Core.vpend hu2
    exact e
  have vv : u.core.vr = r.s.core.vr := by
    have e := congrArg Core.vr hu2
    exact e
  have ve : u.core.em = r.s.core.em := by
    have e := congrArg Core.em hu2
    exact e
  have vc : u.core.cm = r.s.core.cm := by
    have e := congrArg Core.cm hu2
    exact e
  obtain ⟨l1, l2, l3⟩ := Core.landed_alike n vp vv ve vc
  have l0 : (u.core.landed n).vpend = (r.s.core.landed n).vpend := by rw [Core.landed_vpend, Core.landed_vpend, vp]
  refine ⟨⟨if (s1.strm .v).stitch = .released then 0 else n, ?_, ?_⟩, ?_, ?_⟩
  · split
    · exact .inr rfl
    · exact .inl rfl
  · have e1 := congrArg (fun z : State => ({ z with core := w.core } : State)) hb1
    have e2 := congrArg (fun z : State => ({ z with core := w.core } : State)) hu1
    have e := congrArg (fun z : State => z.ticks (if (s1.strm .v).stitch = .released then 0 else n)) (hw1.trans (e2.trans e1))
    exact e.trans rfl
  · have e1 := Core.landed_rest u.core n
    rw [l0, l1, l2, l3] at e1
    have e2 := congrArg (fun z : Core => ({ z with
      vpend := (r.s.core.landed n).vpend, vr := (r.s.core.landed n).vr, em := (r.s.core.landed n).em
      cm := (r.s.core.landed n).cm } : Core)) hu2
    have e3 := e1.trans e2
    have e4 := congrArg (fun z : Core => ({ z with
      c := { z.c with hold := w.core.c.hold }
      v := w.core.v, tok := w.core.tok, tokLab := w.core.tokLab, latch := w.core.latch, rings := w.core.rings
      csr := { z.csr with
        holdPeak := w.core.csr.holdPeak, rrb := w.core.csr.rrb, iter := w.core.csr.iter, act := w.core.csr.act
        labs := w.core.csr.labs }
      loop := w.core.loop, again := w.core.again } : Core)) e3
    exact hw2.trans e4
  · have e := congrArg Core.v (Core.landed_rest u.core n)
    simp only at e
    rw [e] at hw3
    have hb3 : Strm.moved r.s.core.v b.core.v := by
      rw [hb2]
      rfl
    exact Strm.moved_trans (Strm.moved_trans hb3 hu3) hw3

/-- A word of the V-stream other than TROUTE leaves the routes as they are, unless an older TROUTE retires (R16). -/
theorem finish_routesV (i : Instr) (h : Hdr) (s1 : State) (r : After) (hr : r.route = none) :
    RoutesKept .v r.s (finish i .v h s1 r) := by
  obtain ⟨b, u, -, hb2, ⟨-, -, -, hu⟩, hf⟩ := finish_beforeV i h s1 r
  obtain ⟨-, -, -, hw⟩ := State.bookV_passDistance u (vOcc i)
  intro he
  have hl : ((u.modCore fun _ => u.core.landed (vOcc i)).core).v = u.core.v := by
    have e := congrArg Core.v (Core.landed_rest u.core (vOcc i))
    exact e
  rw [hl] at hw
  have hn : ∀ e ∈ b.core.v.infl, e.route = none := by
    rw [hb2]
    intro e hm
    rcases List.mem_append.1 hm with hm | hm
    · exact he e hm
    · rw [List.mem_singleton.1 hm]; exact hr
  obtain ⟨-, g2, g3⟩ := Strm.steady_trans hu hw hn
  have b2 : b.core.v.routeIn = r.s.core.v.routeIn := by rw [hb2]
  have b3 : b.core.v.routeOut = r.s.core.v.routeOut := by rw [hb2]
  rw [hf]
  exact ⟨g2.trans b2, g3.trans b3⟩

/-! ### Issuing a word -/

theorem Issued.refl (st : Stream) (s : State) : Issued st s s :=
  ⟨rfl, List.suffix_refl _, rfl, fun _ => rfl, fun _ _ => ⟨rfl, rfl, rfl⟩, fun _ _ => rfl⟩

theorem Issued.trans {st : Stream} {s t u : State} (h : Issued st s t) (g : Issued st t u) : Issued st s u := by
  obtain ⟨h1, h0, h2, h3, h4, h5⟩ := h
  obtain ⟨g1, g0, g2, g3, g4, g5⟩ := g
  have e1 := congrArg (fun z : State => ({ z with
    core := u.core, labels := u.labels, freeNo := u.freeNo, agenda := u.agenda } : State)) h1
  have e2 := congrArg (fun z : Core => ({ z with
      c := u.core.c, a := u.core.a, v := u.core.v, m := u.core.m, tok := u.core.tok, owed := u.core.owed, tokLab := u.core.tokLab
      latch := u.core.latch } : Core)) h2
  refine ⟨g1.trans e1, h0.trans g0, g2.trans e2, fun w => ?_, fun w hw => ?_, fun w hw => (g5 w hw).trans (h5 w hw)⟩
  · have e3 := congrArg (fun z : Strm => ({ z with
      clab := (u.strm w).clab, stitch := (u.strm w).stitch, infl := (u.strm w).infl, routeIn := (u.strm w).routeIn
      routeOut := (u.strm w).routeOut, hold := (u.strm w).hold } : Strm)) (h3 w)
    exact (g3 w).trans e3
  · obtain ⟨a1, a2, a3⟩ := h4 w hw
    obtain ⟨b1, b2, b3⟩ := g4 w hw
    exact ⟨b1.trans a1, b2.trans a2, b3.trans a3⟩

theorem State.need_ok {s t : State} {l : Label} (h : s.need l = .ok t) : t = s.intern l ∧ s.canIntern l = true := by
  unfold State.need at h
  split at h
  · rename_i hc; simp only [Except.ok.injEq] at h; exact ⟨h.symm, hc⟩
  · exact absurd h (by simp)

theorem issued_intern (st : Stream) (s : State) (l : Label) : Issued st s (s.intern l) := by
  unfold State.intern
  split
  · exact .refl st s
  · exact ⟨rfl, List.suffix_refl _, rfl, fun _ => rfl, fun _ _ => ⟨rfl, rfl, rfl⟩, fun _ _ => rfl⟩

theorem issued_agenda (st : Stream) (s : State) (l : List Instr) : Issued st s { s with agenda := l ++ s.agenda } :=
  ⟨rfl, List.suffix_append _ _, rfl, fun _ => rfl, fun _ _ => ⟨rfl, rfl, rfl⟩, fun _ _ => rfl⟩

theorem issued_modStrm (st u : Stream) (s : State) (f : Strm → Strm)
    (h : ∀ t, f t = { t with clab := (f t).clab, stitch := (f t).stitch }) : Issued st s (s.modStrm u f) := by
  have key : ∀ w, (s.modStrm u f).strm w = { s.strm w with
      clab := ((s.modStrm u f).strm w).clab, stitch := ((s.modStrm u f).strm w).stitch } := by
    intro w
    by_cases hw : w = u
    · subst hw
      simp only [State.strm, modStrm_core, strm_setStrm_same]
      exact h _
    · simp only [State.strm, modStrm_core, strm_setStrm_ne _ _ _ _ hw]
  generalize hz : s.modStrm u f = z at *
  refine ⟨by subst hz; rfl, by subst hz; exact List.suffix_refl _, by subst hz; cases u <;> rfl, fun w => ?_, fun w _ => ?_, fun w _ => ?_⟩
  · rw [key w]
  · rw [key w]; exact ⟨rfl, rfl, rfl⟩
  · rw [key w]

theorem issued_raise {st u : Stream} {s t : State} {l : Label} (h : s.raise u l = .ok t) : Issued st s t := by
  unfold State.raise at h
  simp only at h
  split at h
  · rename_i s' hs
    simp only [Except.ok.injEq] at h
    subst h
    have := (State.need_ok hs).1
    subst this
    exact (issued_intern st s _).trans (issued_modStrm st u _ _ fun t => rfl)
  · exact absurd h (by simp)

theorem issued_stitch {st : Stream} {s t : State} (h : s.stitch = .ok t) : Issued st s t := by
  unfold State.stitch at h
  simp only at h
  split at h
  · exact absurd h (by simp)
  · rename_i s' hs
    simp only [Except.ok.injEq] at h
    subst h
    have := (State.need_ok hs).1
    subst this
    refine (issued_intern st s (Label.joins (s.core.stitchers.map s.clab))).trans ?_
    generalize s.intern _ = s0
    generalize (List.map _ (List.filter _ s.core.stitchers) : List Instr) = g
    generalize Label.joins _ = l
    generalize s.core.stitchers = ps
    have hf : ∀ (ps : List Stream) (s0 : State), Issued st s0 (ps.foldl (fun s st => s.modStrm st fun t =>
        { t with clab := l, stitch := if t.stitch = .waiting then .released else t.stitch }) s0) ∧
        (ps.foldl (fun s st => s.modStrm st fun t =>
        { t with clab := l, stitch := if t.stitch = .waiting then .released else t.stitch }) s0).agenda = s0.agenda := by
      intro ps
      induction ps with
      | nil => intro s0; exact ⟨.refl st s0, rfl⟩
      | cons p r ih =>
        intro s0
        obtain ⟨a, b⟩ := ih (s0.modStrm p fun t => { t with clab := l, stitch := if t.stitch = .waiting then .released else t.stitch })
        exact ⟨(issued_modStrm st p s0 _ fun t => rfl).trans a, b⟩
    obtain ⟨a, b⟩ := hf ps s0
    have c := a.trans (issued_agenda st _ g)
    rw [b] at c
    exact c

theorem issued_takeToks (st : Stream) (qs : List (Fin 16)) (s : State) : Issued st s (s.modCore fun k => qs.foldl Core.takeTok k) := by
  have : ∀ k : Core, qs.foldl Core.takeTok k = { k with
      tok := (qs.foldl Core.takeTok k).tok, owed := (qs.foldl Core.takeTok k).owed } := by
    induction qs with
    | nil => intro k; rfl
    | cons q r ih =>
      intro k
      have e : k.takeTok q = { k with tok := (k.takeTok q).tok, owed := (k.takeTok q).owed } := by
        unfold Core.takeTok
        split <;> rfl
      have f := congrArg (fun z : Core => ({ z with
        tok := (r.foldl Core.takeTok (k.takeTok q)).tok, owed := (r.foldl Core.takeTok (k.takeTok q)).owed } : Core)) e
      exact (ih (k.takeTok q)).trans f
  have hk := this s.core
  have key : ∀ u, (s.modCore fun k => qs.foldl Core.takeTok k).strm u = s.strm u := by
    intro u
    simp only [State.strm, modCore_core]
    rw [hk]
    cases u <;> rfl
  refine ⟨rfl, List.suffix_refl _, ?_, fun u => by rw [key u], fun u _ => by rw [key u]; exact ⟨rfl, rfl, rfl⟩, fun u _ => by rw [key u]⟩
  have e := congrArg (fun z : Core => ({ s.core with
    c := z.c, a := z.a, v := z.v, m := z.m, tok := z.tok, owed := z.owed, tokLab := z.tokLab, latch := z.latch } : Core)) hk
  exact hk.trans e.symm

theorem issued_startBody (st : Stream) (s : State) : Issued st s s.startBody := by
  unfold State.startBody
  split
  · split
    · split
      · exact .refl st s
      · refine ⟨rfl, List.suffix_refl _, rfl, fun u => ?_, fun u _ => ?_, fun u hu => ?_⟩
        · cases u <;> rfl
        · cases u <;> exact ⟨rfl, rfl, rfl⟩
        · cases u <;> first | rfl | exact absurd rfl hu
    · exact .refl st s
  · exact .refl st s

/-- Retiring words of stream `st` keeps everything but what issuing may change. -/
theorem issued_retireAll (st : Stream) (s : State) : Issued st s (s.retireAll st) := by
  refine Issued.trans (t := s.modCore fun k => k.retireAll st) ?_ (issued_startBody st _)
  obtain ⟨h1, h2, h3, -, -⟩ := Core.retireAll_spec st s.core
  generalize hz : (s.modCore fun k => k.retireAll st) = z
  have hc : z.core = s.core.retireAll st := by subst hz; rfl
  rw [← hc] at h1 h2 h3
  refine ⟨by subst hz; rfl, by subst hz; exact List.suffix_refl _, ?_, fun u => ?_, fun u hu => ?_, fun u _ => ?_⟩
  · have ho : z.core.owed = s.core.owed := by
      have e := congrArg Core.owed h1
      exact e
    rw [ho]
    exact h1
  · by_cases hu : u = st
    · subst hu
      have e := congrArg (fun w : Strm => ({ s.core.strm u with
        clab := w.clab, stitch := w.stitch, infl := w.infl, routeIn := w.routeIn, routeOut := w.routeOut, hold := w.hold } : Strm)) h3
      exact h3.trans e.symm
    · have e : z.strm u = s.strm u := h2 u hu
      rw [e]
  · have e : z.strm u = s.strm u := h2 u hu
    rw [e]
    exact ⟨rfl, rfl, rfl⟩
  · by_cases hu : u = st
    · subst hu
      have e := congrArg Strm.hold h3
      exact e
    · have e : z.strm u = s.strm u := h2 u hu
      rw [e]

theorem issued_joinStitch {st u : Stream} {h : Hdr} {s t : State} (hj : s.joinStitch u h = .go t) : Issued st s t := by
  unfold State.joinStitch at hj
  simp only at hj
  split at hj
  · simp only [Issue.go.injEq] at hj; subst hj; exact .refl st s
  · split at hj
    · split at hj
      · rename_i hs; simp only [Issue.go.injEq] at hj; subst hj; exact issued_stitch hs
      · exact absurd hj (by simp)
      · exact absurd hj (by simp)
    · exact absurd hj (by simp)

theorem issued_takeTokens {st u : Stream} {qs : List (Fin 16)} {s t : State} (hj : s.takeTokens u qs = .go t) : Issued st s t := by
  unfold State.takeTokens at hj
  split at hj
  · exact absurd hj (by simp)
  · exact absurd hj (by simp)
  · rename_i hs
    simp only [Issue.go.injEq] at hj
    subst hj
    exact (issued_raise hs).trans (issued_takeToks st qs _)

theorem issued_needSignals {st u : Stream} {lab : Label} {qs : List (Fin 16)} {s t : State} (hj : s.needSignals u lab qs = .go t) :
    Issued st s t := by
  induction qs generalizing s with
  | nil => simp only [State.needSignals, Issue.go.injEq] at hj; subst hj; exact .refl st s
  | cons q r ih =>
    simp only [State.needSignals] at hj
    split at hj
    · exact (issued_intern st s _).trans (ih hj)
    · exact absurd hj (by simp)

/-- What a word that passes every check still does as it issues: it joins its stitch, takes its tokens and interns what it will signal. -/
theorem issued_last {st : Stream} {h : Hdr} {lab : Label} {qs rs : List (Fin 16)} {s t : State}
    (hi : (match s.joinStitch st h with
      | .go s => match s.takeTokens st qs with
        | .go s => s.needSignals st lab rs
        | r => r
      | r => r) = .go t) : Issued st s t := by
  split at hi
  · rename_i hj
    split at hi
    · rename_i hk
      exact ((issued_joinStitch hj).trans (issued_takeTokens hk)).trans (issued_needSignals hi)
    · rename_i hne
      exact absurd hi (hne _)
  · rename_i hne
    exact absurd hi (hne _)

/-- A word of stream C, A or M that issues has touched nothing else. -/
theorem issue_issued {i : Instr} {st : Stream} {h : Hdr} {s t : State} (hv : st ≠ .v) (hi : issue i st h s = .go t) : Issued st s t := by
  unfold issue at hi
  simp only [decide_false, Bool.false_and, if_false, Bool.false_eq_true, hv] at hi
  refine (issued_retireAll st s).trans ?_
  split at hi
  · exact absurd hi (by simp)
  · split at hi
    · exact absurd hi (by simp)
    · split at hi
      · exact absurd hi (by simp)
      · split at hi
        · exact absurd hi (by simp)
        · split at hi
          · exact absurd hi (by simp)
          · split at hi
            · exact absurd hi (by simp)
            · split at hi
              · split at hi <;> exact absurd hi (by simp)
              · exact issued_last hi

theorem IssuedV.refl (s : State) : IssuedV s s := ⟨rfl, List.suffix_refl _, rfl, fun _ _ => rfl, fun _ _ => rfl, rfl⟩

theorem IssuedV.trans {s t u : State} (h : IssuedV s t) (g : IssuedV t u) : IssuedV s u := by
  obtain ⟨h1, h0, h2, h3, h5, h4⟩ := h
  obtain ⟨g1, g0, g2, g3, g5, g4⟩ := g
  have e1 := congrArg (fun z : State => ({ z with
    core := u.core, labels := u.labels, freeNo := u.freeNo, agenda := u.agenda } : State)) h1
  have e2 := congrArg (fun z : Core => ({ z with
      c := u.core.c, a := u.core.a, v := u.core.v, m := u.core.m, tok := u.core.tok, owed := u.core.owed, tokLab := u.core.tokLab
      latch := u.core.latch, rings := u.core.rings, loop := u.core.loop, again := u.core.again
      csr := { z.csr with act := u.core.csr.act } } : Core)) h2
  have e4 := congrArg (fun z : Strm => ({ z with
      clab := u.core.v.clab, stitch := u.core.v.stitch, infl := u.core.v.infl, blocked := u.core.v.blocked, ahead := u.core.v.ahead
      routeIn := u.core.v.routeIn, routeOut := u.core.v.routeOut } : Strm)) h4
  refine ⟨g1.trans e1, h0.trans g0, g2.trans e2, fun w hw => ?_, fun w hw => (g5 w hw).trans (h5 w hw), g4.trans e4⟩
  have e3 := congrArg (fun z : Strm => ({ z with
    clab := (u.strm w).clab, stitch := (u.strm w).stitch, hold := (u.strm w).hold } : Strm)) (h3 w hw)
  exact (g3 w hw).trans e3

theorem Issued.toV {s t : State} (h : Issued .v s t) : IssuedV s t := by
  obtain ⟨h1, h0, h2, h3, h4, h5⟩ := h
  refine ⟨h1, h0, ?_, fun u hu => ?_, h5, ?_⟩
  · have hr : t.core.rings = s.core.rings := by
      have e := congrArg Core.rings h2
      exact e
    have hl : t.core.loop = s.core.loop := by
      have e := congrArg Core.loop h2
      exact e
    have ha : t.core.again = s.core.again := by
      have e := congrArg Core.again h2
      exact e
    have hc : t.core.csr = s.core.csr := by
      have e := congrArg Core.csr h2
      exact e
    rw [hr, hl, ha, hc]
    exact h2
  · have e := h3 u
    obtain ⟨a1, a2, a3⟩ := h4 u hu
    rw [a1, a2, a3] at e
    exact e
  · have e := h3 .v
    rw [h5 .v (by decide)] at e
    have hb : t.core.v.blocked = s.core.v.blocked := by
      have e := congrArg Strm.blocked (h3 .v)
      exact e
    have hd : t.core.v.ahead = s.core.v.ahead := by
      have e := congrArg Strm.ahead (h3 .v)
      exact e
    rw [hb, hd]
    exact e

theorem issuedV_complete (s : State) (id : Nat) : IssuedV s (s.complete .v id) := by
  have hf : ∀ (l : List (Nat × Nat)) (k : Core), l.foldl (fun k r => k.release r.1 r.2) k =
      { k with rings := (l.foldl (fun k r => k.release r.1 r.2) k).rings } := by
    intro l
    induction l with
    | nil => intro k; rfl
    | cons x r ih =>
      intro k
      have e := ih (k.release x.1 x.2)
      exact e.trans rfl
  have h1 : IssuedV s (s.modCore fun k =>
      ((((k.strm .v).infl.filter fun i => i.id == id && !i.done).flatMap (·.rels)).foldl (fun k r => k.release r.1 r.2) k)) := by
    have e := hf ((((s.core.strm .v).infl.filter fun i => i.id == id && !i.done).flatMap (·.rels))) s.core
    have key : ∀ u, (s.modCore fun k =>
        ((((k.strm .v).infl.filter fun i => i.id == id && !i.done).flatMap (·.rels)).foldl (fun k r => k.release r.1 r.2) k)).strm u =
        s.strm u := by
      intro u
      simp only [State.strm, modCore_core]
      rw [e]; cases u <;> rfl
    refine ⟨rfl, List.suffix_refl _, ?_, fun u _ => by rw [key u], fun u _ => by rw [key u], ?_⟩
    · simp only [modCore_core]
      generalize List.foldl _ s.core _ = z at *
      rw [e]
    · simp only [modCore_core]
      rw [e]
  refine h1.trans ?_
  generalize hz : (s.modCore fun k => _) = z
  have h2 : IssuedV z (z.modStrm .v fun t => { t with
      infl := t.infl.map fun i => if i.id = id then { i with done := true } else i
      blocked := if t.blocked = some id then none else t.blocked
      ahead := if t.blocked = some id then none else t.ahead }) :=
    ⟨rfl, List.suffix_refl _, rfl, fun u hu => by cases u <;> first | rfl | exact absurd rfl hu,
      fun u _ => by cases u <;> rfl, rfl⟩
  have h3 := h2.trans (Issued.toV (issued_retireAll .v (z.modStrm .v fun t => { t with
      infl := t.infl.map fun i => if i.id = id then { i with done := true } else i
      blocked := if t.blocked = some id then none else t.blocked
      ahead := if t.blocked = some id then none else t.ahead })))
  subst hz
  exact h3

theorem issuedV_retireDue (s : State) : IssuedV s s.retireDue := by
  unfold State.retireDue
  generalize s.core.vpend.filter _ = l
  induction l generalizing s with
  | nil => exact .refl s
  | cons p r ih => exact (issuedV_complete s p.id).trans (ih _)

theorem issuedV_restartLoop (s : State) : IssuedV s (s.modCore Core.restartLoop) := by
  have e : s.core.restartLoop = { s.core with
      loop := s.core.restartLoop.loop, again := s.core.restartLoop.again
      csr := { s.core.csr with act := s.core.restartLoop.csr.act } } := by
    unfold Core.restartLoop
    split <;> rfl
  have key : ∀ u, (s.modCore Core.restartLoop).strm u = s.strm u := by
    intro u
    simp only [State.strm, modCore_core]
    rw [e]
    cases u <;> rfl
  refine ⟨rfl, List.suffix_refl _, ?_, fun u _ => by rw [key u], fun u _ => by rw [key u], ?_⟩
  · have f := congrArg (fun z : Core => ({ s.core with
      c := z.c, a := z.a, v := z.v, m := z.m, tok := z.tok, owed := z.owed, tokLab := z.tokLab, latch := z.latch, rings := z.rings
      loop := z.loop, again := z.again, csr := { s.core.csr with act := z.csr.act } } : Core)) e
    exact e.trans f.symm
  · have f : (s.modCore Core.restartLoop).core.v = s.core.v := key .v
    rw [f]

/-- A word of the V-stream that issues has touched nothing else. -/
theorem issue_issuedV {i : Instr} {h : Hdr} {s t : State} (hi : issue i .v h s = .go t) : IssuedV s t := by
  unfold issue at hi
  simp only [if_true, decide_true, Bool.true_and] at hi
  refine ((issuedV_retireDue s).trans (Issued.toV (issued_retireAll .v s.retireDue))).trans ?_
  split at hi
  · exact absurd hi (by simp)
  · split at hi
    · exact absurd hi (by simp)
    · refine (issuedV_restartLoop _).trans (Issued.toV ?_)
      split at hi
      · exact absurd hi (by simp)
      · split at hi
        · exact absurd hi (by simp)
        · split at hi
          · exact absurd hi (by simp)
          · split at hi
            · exact absurd hi (by simp)
            · split at hi
              · exact absurd hi (by simp)
              · split at hi
                · exact absurd hi (by simp)
                · split at hi
                  · split at hi <;> exact absurd hi (by simp)
                  · exact issued_last hi

/-! ### The shape of a word -/

/-- A word that issues past a system-scope release is one that runs ahead (R209, R390). -/
theorem issue_ahead {i : Instr} {st : Stream} {h : Hdr} {s s1 : State} (hv : st ≠ .v) (hi : issue i st h s = .go s1)
    (hb : (s.strm st).blocked.isSome = true) : runsAhead i h = true := by
  unfold issue at hi
  simp only [decide_false, Bool.false_and, if_false, Bool.false_eq_true, hv] at hi
  split at hi
  · exact absurd hi (by simp)
  · rename_i hn
    have e : ((s.retireAll st).strm st).blocked = (s.strm st).blocked := by
      have f := congrArg Strm.blocked ((issued_retireAll st s).2.2.2.1 st)
      exact f
    cases hr : runsAhead i h
    · refine absurd ?_ hn
      simp [Strm.barredFor, Strm.mayRunAhead, e, hb, hr]
    · rfl

/-- A word that issues and whose body ends well moves on, where the queues have room for its requests and it does not hold back a stream that
runs ahead. -/
theorem runWord_ok {i : Instr} {st : Stream} {h : Hdr} {b : Body} {s s1 : State} {r : After}
    (hi : issue i st h s = .go s1) (hb : b s1 = .ok r) (hp : (s.strm st).blocked = none ∨ r.block = false)
    (hq : r.s.core.requests ≤ maxRequests) : runWord i st h b s = .next (finish i st h s1 r) := by
  unfold runWord
  rw [hi]
  have e : ((s.strm st).blocked.isSome && r.block || decide (maxRequests < r.s.core.requests)) = false := by
    have h2 : decide (maxRequests < r.s.core.requests) = false := decide_eq_false (by omega)
    rw [h2]
    rcases hp with hp | hp <;> simp [hp]
  simp only [hb, e, Bool.false_eq_true, if_false]

/-- A word that issues and whose body raises a trap takes it, with none of its effect. -/
theorem runWord_trap {i : Instr} {st : Stream} {h : Hdr} {b : Body} {s s1 : State} {c : Nat} {v : W64} {l : Label}
    (hi : issue i st h s = .go s1) (hb : b s1 = .error (.trap c v l)) (ho : s.olderMay st = false)
    (hp : (s.strm st).blocked = none) : runWord i st h b s = .next (s.takeTrap st c v l).tick := by
  unfold runWord
  rw [hi]
  simp only [hb, ho, hp, State.halt]
  simp

/-- A word whose body has to wait changes nothing but the clock. -/
theorem runWord_stall {i : Instr} {st : Stream} {h : Hdr} {b : Body} {s s1 : State}
    (hi : issue i st h s = .go s1) (hb : b s1 = .error .stall) : runWord i st h b s = .next s.tick := by
  unfold runWord
  rw [hi]
  simp [hb, State.halt, Halt.traps]

/-- A result that fits the label table is written. -/
theorem putX_result (s : State) (d : Fin 64) (v : W64) (l : Label) (h : d = 0 ∨ s.canIntern l = true) :
    s.putX d v l = .ok (s.result d v l) := by
  unfold State.putX State.result State.need
  by_cases hd : d = 0
  · simp [hd]
  · have hc := h.resolve_left hd
    simp [hd, hc]

theorem putA_result (s : State) (d : Fin 32) (v : W64) (l : Label) (h : d = 0 ∨ s.canIntern l = true) :
    s.putA d v l = .ok (s.resultA d v l) := by
  unfold State.putA State.resultA State.need
  by_cases hd : d = 0
  · simp [hd]
  · have hc := h.resolve_left hd
    simp [hd, hc]

theorem raise_raised (s : State) (st : Stream) (l : Label) (h : s.canIntern (Label.join (s.clab st) l) = true) :
    s.raise st l = .ok (s.raised st l) := by
  unfold State.raise State.raised State.need
  simp [h]

/-- A C-stream word that writes a register from registers. -/
theorem scalar_ok (rs : List (Fin 64)) (d : Fin 64) (f : Core → W64) (s : State) (hr : s.core.ready (d :: rs) = true)
    (hl : d = 0 ∨ s.canIntern (s.resultLab rs) = true) :
    scalar rs d f s = .ok (After.of (s.result d (f s.core) (s.resultLab rs))) := by
  unfold scalar
  rw [if_pos hr, putX_result s d _ _ hl]

/-! ### The forms in which a word's meaning is claimed -/

/-- A word that leaves `eff s1` runs where nothing stops it; one that may hold its stream back bears no words that run ahead, or is a load. -/
theorem runWord_may {i : Instr} {st : Stream} {h : Hdr} {b : Body} {s s1 : State} {r : After} (hv : st ≠ .v)
    (hi : issue i st h s = .go s1) (hb : b s1 = .ok r) (hm : MayRun i st s r.s)
    (hk : r.block = true → runsAhead i h = true → isLd i = true) : runWord i st h b s = .next (finish i st h s1 r) := by
  refine runWord_ok hi hb ?_ hm.2
  by_cases hp : (s.strm st).blocked = none
  · exact .inl hp
  · refine .inr ?_
    by_contra hr
    have h1 := hk (by simpa using hr) (issue_ahead hv hi (Option.isSome_iff_ne_none.2 hp))
    rcases hm.1 with h2 | h2
    · exact hp h2
    · simp [h2] at h1

theorem completes_of {i : Instr} {st : Stream} {h : Hdr} {b : Body} {ok : State → Prop} {eff : State → State} {nxt : State → W64}
    (hv : st ≠ .v) (hx : ∀ s, exec i s = runWord i st h b s)
    (hb : ∀ s1, ok s1 → ∃ r, b s1 = .ok r ∧ r.s = eff s1 ∧ r.next.getD (s1.pc st + 4) = nxt s1 ∧ r.route = none ∧
      (r.block = true → runsAhead i h = true → isLd i = true)) : Completes i st h ok eff nxt := by
  intro s s1 hi ho hm
  obtain ⟨r, h1, h2, h3, h4, h5⟩ := hb s1 ho
  refine ⟨_, (hx s).trans (runWord_may hv hi h1 (by rw [h2]; exact hm) h5), ?_, ?_, ?_⟩
  · rw [← h2]; exact finish_moved _ _ _ _ _ hv
  · rw [← h2]; exact finish_routes _ _ _ _ _ hv h4
  · rw [← h3]; exact finish_pc _ _ _ _ _ hv

theorem completesV_of {i : Instr} {h : Hdr} {b : Body} {n : Nat} {ok : State → Prop} {eff : State → State}
    (hn : vOcc i = n) (hx : ∀ s, exec i s = runWord i .v h b s)
    (hb : ∀ s1, ok s1 → ∃ r, b s1 = .ok r ∧ r.s = eff s1 ∧ r.route = none ∧ r.block = false) : CompletesV i h n ok eff := by
  intro s s1 hi ho hm
  obtain ⟨r, h1, h2, h3, h4⟩ := hb s1 ho
  refine ⟨_, (hx s).trans (runWord_ok hi h1 (.inr h4) (by rw [h2]; exact hm.2)), ?_, ?_⟩
  · rw [← h2, ← hn]; exact finish_movedV _ _ _ _
  · rw [← h2]; exact finish_routesV _ _ _ _ h3

theorem traps_of {i : Instr} {st : Stream} {h : Hdr} {b : Body} {ok : State → Prop} {c : Nat} {v : State → W64} {l : State → Label}
    (hx : ∀ s, exec i s = runWord i st h b s) (hb : ∀ s1, ok s1 → b s1 = .error (.trap c (v s1) (l s1))) : Traps i st h ok c v l :=
  fun s s1 hi ho hm hp => (hx s).trans (runWord_trap hi (hb s1 ho) hm hp)

theorem waits_of {i : Instr} {st : Stream} {h : Hdr} {b : Body} {ok : State → Prop} {eff : State → State}
    (hv : st ≠ .v) (hx : ∀ s, exec i s = runWord i st h b s)
    (hb : ∀ s1, ok s1 → ∃ r, b s1 = .ok r ∧ r.s = eff s1 ∧ r.next = none ∧ r.done = false ∧ r.route = none ∧
      (r.block = true → runsAhead i h = true → isLd i = true)) : Waits i st h ok eff := by
  intro s s1 hi ho hm
  obtain ⟨r, h1, h2, h3, h4, h5, h6⟩ := hb s1 ho
  refine ⟨_, (hx s).trans (runWord_may hv hi h1 (by rw [h2]; exact hm) h6), ?_, ?_, ?_, finish_inflight _ _ _ _ _ hv h4⟩
  · rw [← h2]; exact finish_moved _ _ _ _ _ hv
  · rw [← h2]; exact finish_routes _ _ _ _ _ hv h5
  · rw [finish_pc _ _ _ _ _ hv, h3]; rfl

/-- A set that has been interned has its entry. -/
theorem handle_intern (s : State) (l : Label) : ((s.intern l).handle? l).isSome = true := by
  unfold State.intern
  split
  · assumption
  · unfold State.handle?
    split
    · rfl
    · simp
theorem canIntern_intern (s : State) (l : Label) : (s.intern l).canIntern l = true := by
  unfold State.canIntern
  rw [handle_intern]; rfl

end Sys2Proof.Machine
end

