-- ==== Sys2Proof/Tests/Slice0.lean ====
section
/-! SUPPORT. Tests. Decoding: words that the spec writes out, or laid out bit by bit from its encoding tables; ill-formed operands, one for each check. Witnesses: for each
statement with hypotheses, states and operands that meet them, clause by clause. Single steps: results worked out by hand from the rule that the test names. -/

set_option linter.unusedVariables false
set_option maxErrors 1000
set_option Elab.async false

namespace Sys2Proof.Tests
open Sys2Proof Sys2Proof.Machine Sys2Proof.Claims

/-! ### Decoding -/

/-- Every word of the list decodes to its instruction in a stream, the instruction is well formed, and its encoding is the word. -/
def reads (dc : Bool) (st : Stream) (l : List (Nat × Instr)) : Bool :=
  l.all fun x => decide (decode dc st x.1 = .ok x.2) && x.2.wellFormed && encode x.2 == some x.1
/-- No word of the list decodes. -/
def refuses (dc : Bool) (st : Stream) (l : List (Nat × Reject)) : Bool := l.all fun x => decide (decode dc st x.1 = .error x.2)

/-- R38, R39: the scalar words of the C-stream. -/
theorem test_decode_scalar : reads false .c [
    (0x008820A0, .add plain 4 4 5),
    (0x01180004, .addImm plain 12 0 4),
    (0x01AEBAA0, .sub plain 23 23 21),
    (0x022689A0, .mul plain 19 17 13),
    (0x028828C1, .mulh plain 4 5 6 true),
    (0x030828C1, .div plain 4 5 6 true),
    (0x038828C0, .rem plain 4 5 6 false),
    (0x040828C0, .and plain 4 5 6),
    (0x049868FF, .andImm plain 12 13 0xFF#11),
    (0x050828C0, .or plain 4 5 6),
    (0x059863FF, .orImm plain 12 12 0x3FF#11),
    (0x060828C0, .xor plain 4 5 6),
    (0x068827FF, .xorImm plain 4 4 0x7FF#11),
    (0x071C68D0, .shl plain 14 13 6 true),
    (0x079C6FB0, .shr plain 14 13 61 true),
    (0x080828C0, .sra plain 4 5 6 false),
    (0x088828C0, .slt plain 4 5 6),
    (0x09082FFF, .sltImm plain 4 5 0x7FF#11),
    (0x098828C0, .sltu plain 4 5 6),
    (0x0A0828C0, .min plain 4 5 6 false),
    (0x0A8828C1, .max plain 4 5 6 true),
    (0x0B082800, .clz plain 4 5),
    (0x0B882800, .popc plain 4 5),
    (0x0C2A0260, .csel plain 21 0 19),
    (0x0C93ABCD, .lui plain 9 0x1ABCD#17)] = true := by decide +kernel

/-- R38 to R42: branches, memory words, atomics, DACC words, fences. -/
theorem test_decode_memory : reads false .c [
    (0x0D0400FF, .br plain .eq 16 0 0xFF#8),
    (0x0D980001, .jal plain 12 1#17),
    (0x0E000800, .jalr plain 0 1 0),
    (0x0EA02F03, .ld plain 16 5 3 2 3),
    (0x0E882C02, .ld plain 4 5 2 0 2),
    (0x0F2E8E80, .st plain 23 17 3 1 0),
    (0x0F082C02, .st plain 4 5 2 0 2),
    (0x0F1C3781, .st plain 14 6 3 3 1),
    (0x4F8A30E2, .amoW ⟨false, true, false⟩ 5 6 7 .add .dv),
    (0x100A30FB, .amoD plain 5 6 7 .max .sy),
    (0x108A30E6, .cas plain 5 6 7 true .dv),
    (0x110030E0, .daccOpen plain 6 7),
    (0x110030E1, .daccAdd plain 6 7),
    (0x110030E2, .daccAddx plain 6 7),
    (0x11123003, .daccRead plain 9 6),
    (0x11003004, .daccClose plain 6),
    (0x11800004, .fence plain .rl .co),
    (0x1180000B, .fence plain .fl .sy),
    (0x12000000, .qalign plain)] = true := by decide +kernel

/-- R38 to R43: queues, nest slots, rings, lace words, CSRs, the rest of the C-stream. -/
theorem test_decode_system : reads false .c [
    (0x5280A000, .fmtq ⟨false, true, false⟩ 20),
    (0x131802C8, .nstset plain 12 2 6 8),
    (0x530E01CE, .nstset ⟨false, true, false⟩ 7 1 6 14),
    (0x13980181, .rgset plain 12 3 .logsz),
    (0x140A0101, .rgqry plain 5 2 .fil),
    (0x14882800, .lbget plain 4 5),
    (0x150828C0, .lbchk plain 4 5 6),
    (0x15803000, .lcdecl plain 6),
    (0x160A3000, .lcsub plain 5 6),
    (0x16800000, .lcwait plain),
    (0x17000000, .lcend plain),
    (0x17802800, .cqput plain 5 false),
    (0x17802801, .cqput plain 5 true),
    (0x981A0025, .csrr ⟨true, false, false⟩ 13 .weltstat),
    (0x18806004, .csrw plain 0 12 .tvec),
    (0x19000001, .trap plain 1#17),
    (0x19800000, .eret plain),
    (0x1A000000, .wfe plain),
    (0x1A800000, .yield plain),
    (0x1B000000, .taskend plain)] = true := by decide +kernel

/-- R44: LAUNCH, on a dispatch core. -/
theorem test_decode_launch : reads true .c [
    (0x1B8828C0, .launch plain 4 5 6)] = true := by decide +kernel

/-- R45, R46: the A-stream. -/
theorem test_decode_address : reads false .a [
    (0x008C8500, .aadd plain 3 4 5),
    (0x01529FFF, .aaddImm plain 20 20 0x1FFF#13),
    (0x018C8500, .asub plain 3 4 5),
    (0x020C8500, .amul plain 3 4 5),
    (0x02960001, .ashl plain 5 16 1),
    (0x0316003F, .ashr plain 5 16 63),
    (0x038C8500, .aand plain 3 4 5),
    (0x04080040, .amovi plain 2 64#13),
    (0x04A193FE, .abr plain .lt 3 4 0x3FE#10),
    (0x050A03FD, .aloop plain 20 0x3FD#10),
    (0x05D00000, .acqpop plain 20),
    (0x081C4020, .ald plain 7 2 0 .co .w false),
    (0x08B45131, .ast plain 13 2 8 .dv .d true),
    (0x09208209, .agath plain 8 4 1 0 true .h),
    (0x09A88A02, .ascat plain 10 4 5 0 .w),
    (0x0A0C8502, .acopy plain 3 4 5 .dv),
    (0x0A8C0500, .azero plain 3 5 .co),
    (0x0B00C700, .apref plain 6 7),
    (0x0BAC49B0, .axput plain 11 2 4 .sy .d),
    (0x0C14C700, .aamo plain 5 6 7 .add false),
    (0x0CB80002, .aidx plain 14 2),
    (0x0D000021, .awfill plain 2 1),
    (0x0D800034, .awfree plain 3 4),
    (0x0E000006, .afence plain .rl .dv)] = true := by decide +kernel

/-- R47, R48: element-wise words, conversions, masks. -/
theorem test_decode_vector : reads false .v [
    (0x008A594C, .vadd plain ⟨2, .c⟩ ⟨11, .w⟩ ⟨20, .d⟩ 0),
    (0x010E615D, .vsub plain ⟨3, .c⟩ ⟨12, .w⟩ ⟨21, .d⟩ 1),
    (0x0192696E, .vmul plain ⟨4, .c⟩ ⟨13, .w⟩ ⟨22, .d⟩ 2),
    (0x0296717F, .vmin plain ⟨5, .c⟩ ⟨14, .w⟩ ⟨23, .d⟩ 3),
    (0x031A798C, .vmax plain ⟨6, .c⟩ ⟨15, .w⟩ ⟨24, .d⟩ 0),
    (0x041E819D, .vand plain ⟨7, .c⟩ ⟨16, .w⟩ ⟨25, .d⟩ 1),
    (0x04A289AE, .vor plain ⟨8, .c⟩ ⟨17, .w⟩ ⟨26, .d⟩ 2),
    (0x052691BF, .vxor plain ⟨9, .c⟩ ⟨18, .w⟩ ⟨27, .d⟩ 3),
    (0x05AA99CC, .vshl plain ⟨10, .c⟩ ⟨19, .w⟩ ⟨28, .d⟩ 0),
    (0x062EA1DD, .vshr plain ⟨11, .c⟩ ⟨20, .w⟩ ⟨29, .d⟩ 1),
    (0x02101269, .vfma plain ⟨4, .w⟩ ⟨2, .r⟩ ⟨6, .c⟩ 1),
    (0x038C1800, .vabs plain ⟨3, .w⟩ ⟨3, .w⟩ 0),
    (0x06A440AB, .vcvt plain 9 8 .bf16 .i32 .rtz true),
    (0x07083031, .vqnt plain 2 6 3 .mom1),
    (0x07881031, .vdqnt plain 2 2 3 .mom1),
    (0x08101854, .vcmp plain .lt ⟨3, .w⟩ ⟨5, .r⟩ 0),
    (0x08943076, .vsel plain ⟨5, .w⟩ ⟨6, .w⟩ ⟨7, .r⟩ 2),
    (0x09060000, .vmask plain .and),
    (0x098F2402, .vmov plain ⟨3, .d⟩ ⟨4, .c⟩ 2),
    (0x099C01FB, .vmovImm plain 7 0xFB#8)] = true := by decide +kernel

/-- R47 to R49: the other words of the V-stream. -/
theorem test_decode_vector_special : reads false .v [
    (0x0A0C2401, .vbcr plain 3 ⟨4, .c⟩ 1),
    (0x0A8C2201, .vbcc plain 3 ⟨4, .r⟩ 1),
    (0x0B080805, .vrotr plain 2 1 5),
    (0x0B880803, .vrotc plain 2 1 3),
    (0x0C244000, .vredr plain 9 8 .add),
    (0x0CA44001, .vredc plain 9 8 .max),
    (0x0D040000, .vtrn plain 1 0),
    (0x0DA03803, .vsfu plain 8 7 .rsq),
    (0x0E104003, .vtopk plain 4 8 3),
    (0x0EA401FC, .viota plain 9 0x1FC#9),
    (0x10300000, .vld plain 12 0 0 0),
    (0x10905003, .vst plain 4 1 2 3),
    (0x1115340E, .vpop plain ⟨5, .r⟩ 3 .bf16 1 6),
    (0x119A9A1F, .vpush plain ⟨6, .c⟩ 9 .i32 3 7),
    (0x12000001, .vwaitl plain 1#8),
    (0x12989802, .vamo plain 6 2 3 .add 2),
    (0x13200900, .vmrd plain ⟨8, .w⟩ true 16 false 0),
    (0x138C0000, .vcqpop plain 3),
    (0x14000020, .vsett plain false .bf16 .rne false false),
    (0x14C00040, .vsetix plain true false 0 64#17),
    (0x15189000, .vloop plain 12 2 1),
    (0x15800002, .vstg plain 2)] = true := by decide +kernel

/-- R50: the M-stream. -/
theorem test_decode_matrix : reads false .m [
    (0x00A00007, .mgo plain 2 false true true true),
    (0x01044946, .mma plain true 1 2 5 true true false),
    (0x01804943, .mmas plain false 1 2 5 true true),
    (0x02080000, .mzero plain .both),
    (0x02A40000, .mdrainMem plain 2 true),
    (0x02804240, .mdrainRing plain false 9),
    (0x03000000, .mswap plain),
    (0x03858000, .mwait plain true 96),
    (0x04400008, .mcfg plain 4 true),
    (0x04B00000, .mwelt plain 3),
    (0x84B00000, .mwelt ⟨true, false, false⟩ 3),
    (0x05300000, .mrstr plain 3),
    (0x05800000, .mbar plain)] = true := by decide +kernel

/-- R51: the common group, in each of the four streams; TKWAIT and the like take queue ids of their own stream. -/
theorem test_decode_common :
    (∀ st ∈ [Stream.c, .a, .v, .m], reads false st [(0x1F800000, .nop st plain), (0x1F909000, .hold st plain 9), (0x1F93F000, .hold st plain 63),
      (0x1F940007, .brk st plain 7), (0x1F980000, .stend st plain)] = true) ∧
    reads false .v [(0x1F858000, .tkwait .v plain 6)] = true ∧ reads false .c [(0x1F88C000, .tksig .c plain 3), (0x1F8F0C00, .troute .c plain 12 3),
      (0x1F8C0000, .troute .c plain 0 0)] = true ∧
    reads true .c [(0x1F800000, .nop .c plain), (0x1F940007, .brk .c plain 7)] = true := by decide +kernel

/-- R36, R44: an OP that is not assigned, a field that must be zero, a value that no row lists, an operand past its limits, a word of the other kind of core. -/
theorem test_refused_words :
    refuses false .c [(0x00000000, .unassigned), (0x1E800000, .unassigned), (0x00800001, .unusedField), (0x11000005, .illegalVariant),
      (0x1180000C, .illegalVariant), (0x0D600000, .illegalVariant), (0x1F858000, .illegalOperand), (0x1B800000, .wrongCore)] = true ∧
    refuses true .c [(0x12800000, .wrongCore), (0x13000000, .wrongCore), (0x15800000, .wrongCore), (0x1F980000, .wrongCore)] = true ∧
    refuses false .a [(0x08002000, .illegalOperand), (0x0D000000, .illegalOperand), (0x0E00000C, .illegalVariant)] = true ∧
    refuses false .v [(0x12000000, .illegalOperand), (0x07000001, .illegalOperand), (0x00810400, .illegalOperand)] = true ∧
    refuses false .m [(0x00000000, .unassigned), (0x03858400, .illegalOperand), (0x01000040, .illegalOperand)] = true := by decide +kernel

/-- WellFormed: one ill-formed instruction for each of its checks. -/
theorem smoke_ill_formed : ([
    .nstset plain 1 0 6 15, .nstset plain 1 0 0 6, .nstset plain 1 0 7 0,
    .ald plain 1 3 0 .co .w false, .ast plain 1 3 0 .co .w false, .axput plain 1 3 0 .co .w, .agath plain 1 3 0 1 false .w, .ascat plain 1 3 0 1 .w,
    .awfill plain 0 1, .awfree plain 0 1,
    .vadd plain ⟨1, .r⟩ ⟨2, .c⟩ ⟨3, .r⟩ 0, .vsub plain ⟨1, .r⟩ ⟨2, .r⟩ ⟨3, .d⟩ 0, .vmul plain ⟨1, .c⟩ ⟨2, .r⟩ ⟨3, .c⟩ 0, .vfma plain ⟨1, .d⟩ ⟨2, .r⟩ ⟨3, .d⟩ 0,
    .vmin plain ⟨1, .r⟩ ⟨2, .c⟩ ⟨3, .r⟩ 0, .vmax plain ⟨1, .r⟩ ⟨2, .c⟩ ⟨3, .r⟩ 0, .vabs plain ⟨1, .r⟩ ⟨2, .c⟩ 0, .vand plain ⟨1, .r⟩ ⟨2, .c⟩ ⟨3, .r⟩ 0,
    .vor plain ⟨1, .r⟩ ⟨2, .c⟩ ⟨3, .r⟩ 0, .vxor plain ⟨1, .r⟩ ⟨2, .c⟩ ⟨3, .r⟩ 0, .vshl plain ⟨1, .r⟩ ⟨2, .c⟩ ⟨3, .r⟩ 0, .vshr plain ⟨1, .r⟩ ⟨2, .c⟩ ⟨3, .r⟩ 0,
    .vsel plain ⟨1, .r⟩ ⟨2, .c⟩ ⟨3, .r⟩ 0, .vcmp plain .eq ⟨2, .r⟩ ⟨3, .c⟩ 0, .vmov plain ⟨1, .r⟩ ⟨2, .d⟩ 0,
    .vcvt plain 1 2 .f32 .f32 .rne false, .vqnt plain 1 1 2 .fp4, .vqnt plain 1 2 1 .fp4, .vqnt plain 1 2 2 .fp4, .vdqnt plain 1 2 1 .fp4,
    .vbcr plain 1 ⟨2, .r⟩ 0, .vbcc plain 1 ⟨2, .c⟩ 0, .vrotr plain 1 2 64, .vrotc plain 1 2 16,
    .vtopk plain 1 2 1, .vtopk plain 2 1 1, .vtopk plain 2 4 0, .vtopk plain 2 4 65,
    .vpop plain ⟨1, .d⟩ 0 .f32 0 0, .vpop plain ⟨1, .w⟩ 0 .f32 1 0, .vpush plain ⟨1, .d⟩ 0 .f32 0 0, .vpush plain ⟨1, .w⟩ 0 .f32 1 0,
    .vwaitl plain 0, .vmrd plain ⟨1, .w⟩ false 81 false 0, .vmrd plain ⟨1, .w⟩ false 0 false 1, .vmrd plain ⟨1, .r⟩ false 96 false 0,
    .vmrd plain ⟨1, .c⟩ false 0 false 0, .vsetix plain false true 0 1, .vsetix plain true false 0 6144, .vsetix plain false false 0 0x10000,
    .vloop plain 0 0 0, .mma plain false 1 2 3 false true true, .mwait plain false 97,
    .tkwait .c plain 1, .tksig .c plain 4, .troute .c plain 5 0, .troute .c plain 0 5] : List Instr).all (fun i => !i.wellFormed) = true := by decide +kernel

/-- R36: the same operands at their limits are well formed. -/
theorem smoke_well_formed : ([
    .nstset plain 1 0 6 14, .nstset plain 1 0 5 5, .ald plain 1 30 0 .co .w false, .awfill plain 511 1, .vadd plain ⟨1, .c⟩ ⟨2, .d⟩ ⟨3, .w⟩ 3,
    .vcvt plain 1 1 .f32 .i32 .rne false, .vqnt plain 1 2 3 .fp4, .vdqnt plain 1 1 2 .fp4, .vbcr plain 1 ⟨2, .d⟩ 0, .vrotr plain 1 2 63, .vrotc plain 1 2 15,
    .vtopk plain 2 4 64, .vpop plain ⟨1, .c⟩ 0 .f32 3 0, .vwaitl plain 0xFF, .vmrd plain ⟨1, .w⟩ false 80 false 0, .vmrd plain ⟨1, .r⟩ false 95 false 3,
    .vsetix plain true false 0 6143, .vsetix plain false false 0 0xFFFF, .vloop plain 63 7 3, .mma plain false 1 2 3 true true true, .mwait plain false 96,
    .tkwait .c plain 4, .tksig .c plain 1, .troute .c plain 4 1, .troute .c plain 0 0] : List Instr).all (fun i => i.wellFormed) = true := by decide +kernel

/-- The table's words: each stream's table is tried in turn (log entry 6). -/
theorem test_table_words :
    decodeTableWord 32 0x00800000 = some (.add plain 0 0 0) ∧ decodeTableWord 32 0x1B800000 = some (.launch plain 0 0 0) ∧
    decodeTableWord 32 0x0D000010 = some (.br plain .eq 0 0 16) ∧ decodeTableWord 32 0x00000000 = none := by decide +kernel

/-- The steps of the machine have no word. -/
theorem test_steps_have_no_word : ([.wordFetch 0 .c, .tileStep 0, .beatClose, .kick 0 0 0 8 0, .moduleReset ⟨[], false, ([], []), ([], [])⟩,
    .insolePartitionWrite 0 0] : List Instr).all (fun i => (encode i).isNone) = true := by decide +kernel

/-! ### States -/

/-- A stream that runs. -/
def runStrm (st : Stream) : Strm := { Strm.reset st with ended := false, pc := 0x1000 }
/-- The task of the tests: registration 1, queue 5, function 1, space 1. -/
def aTask : Task := ⟨1, 0, 0, 5, 1, 0, 0, 1, 0x1000, 1, 1, [], false, false⟩
/-- A cached leaf of 512 pages with every right, its A and D bits set. -/
def bigLeaf (vpn pfn : Nat) : Leaf := ⟨1, vpn, 512, pfn, true, true, 15, false, 1, 0x5000, [0x600#64]⟩
/-- A core that runs the task: pages 0 to 511 stand in device memory from 2 MiB on, pages 512 to 1,023 in host window 0, pages 1,024 to 1,535 in the scheduler window's range. -/
def runCore (id : Nat) : Core := { Core.reset id with
  task := some aTask, c := runStrm .c, a := runStrm .a, v := runStrm .v, m := runStrm .m
  l2tlb := [bigLeaf 0 512, bigLeaf 512 (2 ^ 38)] }
/-- A module whose core 0 runs the task. -/
def live : State := { State.reset with
  core := runCore 0, hwin := [⟨0, 7, true, 1⟩], origins := [(1, 3)], labels := [(1, Label.ofSlot 3)] }
/-- The same on a dispatch core. -/
def dispatching : State := { State.reset with core := { Core.reset 1024 with c := runStrm .c } }
/-- A state with other registers of the C-stream, and of the A-stream. -/
def withX (s : State) (l : List (Fin 64 × W64)) : State :=
  l.foldl (fun s x => s.modCore fun k => { k with x := k.x.set x.1 ⟨x.2, 0⟩ }) s
def withA (s : State) (l : List (Fin 32 × W64)) : State :=
  l.foldl (fun s x => s.modCore fun k => { k with ar := k.ar.set x.1 ⟨x.2, 0⟩ }) s
def withStrm (s : State) (st : Stream) (f : Strm → Strm) : State := s.modStrm st f
/-- Every ring of the core is `g`. -/
def withRings (s : State) (g : Ring) : State := s.modCore fun k => { k with rings := Vector.replicate 16 g }
/-- A local ring of four slots of 256 bytes with the given counts. -/
def aRing (claimed filled freed : W32) : Ring := ⟨0, 8, 4, 0, claimed, filled, freed, [], [], [], [], false⟩
/-- A label table without a free entry. -/
def fullTable (s : State) : State := { s with labels := (List.range 4095).map fun n => (n + 1, BitVec.ofNat 256 (2 * n + 2)) }

/-- A registered graph of one node, its origin slot 3, and the control block of its queue. -/
def aReg : GraphReg := ⟨default, 0, [], [], [], [⟨[], [], [], [], [], 0, [], []⟩], [⟨0, 1, 0, [], []⟩], [], 1, 1, 3, 1, 5, 0, 1, 0x1000, [], []⟩
def aQcb : Qcb := ⟨5, 1, 0, 4, false, true, false, 0, 0, 0, 0, 0, 0, 0, 0, 0, List.replicate 16 0⟩
/-- The module with that graph, its queue mapped on die 0, partition 0 with every cluster of die 0 and a budget. -/
def scheduled : State := { live with
  graphs := [⟨aReg, Label.ofSlot 3⟩], qcbs := [aQcb], slots := [⟨0, 1, 5⟩]
  parts := live.parts.set 0 ⟨1000, 0xFF, 0, 0xFF00⟩ }
/-- A kernel of the graph that no task of has been issued, and the image of a saved task of it. -/
def aKern : Kern := ⟨1, 1, 1, 0, 5, 0, 0, 0, [], none, false, false, none⟩
def anImage : Image := ⟨5, 1, 7, true, false, true, none, [0], { runCore 3 with task := some { aTask with idx := 7, lcore := 3 } }⟩

/-- A nest slot of one tile of one element, a configuration for tiles from rings, and an MMA that runs one. -/
def aNest : Nest := ⟨Vector.ofFn fun n => if n.val ∈ [0, 6, 12, 18, 24, 30, 42, 43, 44] then 1 else 0, 0⟩
def aCfg : TileCfg := ⟨1, 1, 1, 2, 2, 0, 0, 0, 0⟩
def aCmd : Cmd := ⟨.mma false 1 2 0 false true true false, (wordOf (.mma plain false 1 2 0 false true true)).setWidth 32, 4, 0x1000, 0, 0, false, none⟩
/-- INT8 elements, INT32 accumulators. -/
def intWord : LW := ⟨0x4440, 0⟩
def matrixCore (k : Core) : Core := { k with shadow := Vector.replicate 8 aNest, cfg := aCfg, rings := Vector.replicate 16 (aRing 2 2 0) }
def matrix : State := live.modCore matrixCore
/-- The tile of `aCmd`, its operands there and its plane started. -/
def aRun : Run :=
  { newRun aCmd (matrix.core.mmaTile false 1 2 0 false true true false) intWord
      [⟨0, false, .ring 1 0, 1, [], [[.val 3]]⟩, ⟨1, false, .ring 2 0, 1, [], [[.val 3]]⟩] 0 with
    began := true
    slots := [(0, 1, 0), (1, 2, 0)], nprev := [0], stopA := [1], stopB := [1] }
def running : State := matrix.modCore fun k => { k with run := some aRun, next := 5, plane0 := { k.plane0 with dirty := true, m := 1, n := 1, wm := 0 } }

/-- The save image of that tile at 0x200000 (R132): a clean welt of one 1 by 1 tile after no step. -/
def imageCells : List Host.Cell := [(0x200000, 1), (0x200001, 1), (0x200004, 1), (0x200006, 1), (0x200007, 1), (0x200010, 64), (0x200011, 68), (0x200028, 3),
  (0x200029, 72), (0x20002B, 1), (0x200250, 1), (0x200258, 1), (0x200260, 1), (0x200268, 2), (0x200270, 2)]

/-- Two bytes on their way to a far home, and a core that has sent them. -/
def aPosted (first : Nat) (lab : Label) (rel : Bool) : Posted := ⟨3, 9, 0, [(first, 1), (first + 1, 2)], lab, 0x1FFC, 1, 1, rel, 7⟩
def posting (p : Posted) : State := withStrm live .c fun t => { t with posted := [p] }

/-! ### Witnesses -/

def goes (i : Instr) (st : Stream) (h : Hdr) (s : State) (ok : State → Bool) : Bool :=
  match issue i st h s with
  | .go s1 => (s.strm st).blocked.isNone && decide (s1.core.requests + 1024 ≤ maxRequests) && ok s1
  | _ => false
def got {ε α β : Type} (r : Except ε (α × β)) (ok : α → β → Bool) : Bool :=
  match r with
  | .ok x => ok x.1 x.2
  | .error _ => false
def got3 {ε α β γ : Type} (r : Except ε (α × β × γ)) (ok : α → β → γ → Bool) : Bool :=
  match r with
  | .ok x => ok x.1 x.2.1 x.2.2
  | .error _ => false
def has {α : Type} (r : Option α) (ok : α → Bool) : Bool := match r with | some x => ok x | none => false
def one {α : Type} (l : List α) (ok : α → Bool) : Bool := match l with | [x] => ok x | _ => false
def cons {α : Type} (l : List α) (ok : α → List α → Bool) : Bool := match l with | x :: r => ok x r | _ => false
def held (viral inReset pre : Bool) : Bool := !viral && !inReset && pre

def serve (s : State) (p : State → Bool) : Bool := held s.viral s.inReset (p s)
def atCore (c : Nat) (s : State) (p : State → Bool) : Bool := held s.viral s.inReset (p (s.focus c))
/-- Two tenants with their slots and a function for the first. -/
def tenanted : State := { live with parts := live.parts.set 0 ⟨1000, 0xFF, 0, 0xFF00⟩, tenants := [⟨3, [1]⟩, ⟨4, [2]⟩] }
/-- A SOF header of a kind, with its section table after 16 bytes and its string section last. -/
def aHdr (kind shnum : Nat) (entry : List Nat) : SofHdr := ⟨[0x53, 0x4F, 0x46, 0x1A], 1, kind, 64, shnum, shnum - 1, entry, List.replicate 24 0⟩
/-- A bundle of one node of one task, with a word of text and a task block. -/
def aBundle : GraphReg := ⟨aHdr 3 1 (List.replicate 4 0xFFFFFFFF), 120, [⟨0, 13, 0xFF, 0, 104, 16, 0, 0, 0⟩],
  [(aHdr 2 2 (0 :: List.replicate 3 0xFFFFFFFF), 164, [⟨0, 1, 0, 12, 144, 4, 0, 0, 0⟩, ⟨0, 13, 0xFF, 0, 148, 16, 0, 0, 0⟩])], [],
  [⟨[(.c, ⟨[0, 0x28, 8, 11], 12, 0x10000, [0x400], []⟩)], [(.c, 0)], [], [], [], 0, [], []⟩],
  [⟨0, 1, 0, [[7]], [⟨List.replicate 256 0, 12, 0x20000, [0x401], []⟩]⟩], [], 1, 2, 3, 1, 6, 0, 9, 0x402000, [0x402, 0x403, 0x404, 0x405, 0x406], [0x407]⟩
theorem witness_ScalarArithmeticWritesItsResult :
    (let h := plain; let d := (63 : Fin 64); let a := (1 : Fin 64); let b := (2 : Fin 64); goes (.add h d a b) .c h (live) fun s1 => decide (s1.core.ready (d :: [a, b]) = true ∧ (d = 0 ∨ s1.canIntern (s1.resultLab [a, b]) = true))) ∧
    (let h := plain; let d := (63 : Fin 64); let a := (1 : Fin 64); let i := (0x7FF : BitVec 11); goes (.addImm h d a i) .c h (live) fun s1 => decide (s1.core.ready (d :: [a]) = true ∧ (d = 0 ∨ s1.canIntern (s1.resultLab [a]) = true))) ∧
    (let h := plain; let d := (63 : Fin 64); let a := (1 : Fin 64); let b := (2 : Fin 64); goes (.sub h d a b) .c h (live) fun s1 => decide (s1.core.ready (d :: [a, b]) = true ∧ (d = 0 ∨ s1.canIntern (s1.resultLab [a, b]) = true))) ∧
    (let h := plain; let d := (63 : Fin 64); let a := (1 : Fin 64); let b := (2 : Fin 64); goes (.mul h d a b) .c h (live) fun s1 => decide (s1.core.ready (d :: [a, b]) = true ∧ (d = 0 ∨ s1.canIntern (s1.resultLab [a, b]) = true))) ∧
    (let h := plain; let d := (63 : Fin 64); let a := (1 : Fin 64); let b := (2 : Fin 64); goes (.mulh h d a b true) .c h (live) fun s1 => decide (s1.core.ready (d :: [a, b]) = true ∧ (d = 0 ∨ s1.canIntern (s1.resultLab [a, b]) = true))) ∧
    (let h := plain; let d := (63 : Fin 64); let a := (1 : Fin 64); let b := (2 : Fin 64); goes (.mulh h d a b false) .c h (live) fun s1 => decide (s1.core.ready (d :: [a, b]) = true ∧ (d = 0 ∨ s1.canIntern (s1.resultLab [a, b]) = true))) ∧
    (let h := plain; let d := (63 : Fin 64); let a := (1 : Fin 64); let b := (2 : Fin 64); goes (.div h d a b true) .c h (live) fun s1 => decide (s1.core.ready (d :: [a, b]) = true ∧ (d = 0 ∨ s1.canIntern (s1.resultLab [a, b]) = true))) ∧
    (let h := plain; let d := (63 : Fin 64); let a := (1 : Fin 64); let b := (2 : Fin 64); goes (.div h d a b false) .c h (live) fun s1 => decide (s1.core.ready (d :: [a, b]) = true ∧ (d = 0 ∨ s1.canIntern (s1.resultLab [a, b]) = true))) ∧
    (let h := plain; let d := (63 : Fin 64); let a := (1 : Fin 64); let b := (2 : Fin 64); goes (.rem h d a b true) .c h (live) fun s1 => decide (s1.core.ready (d :: [a, b]) = true ∧ (d = 0 ∨ s1.canIntern (s1.resultLab [a, b]) = true))) ∧
    (let h := plain; let d := (63 : Fin 64); let a := (1 : Fin 64); let b := (2 : Fin 64); goes (.rem h d a b false) .c h (live) fun s1 => decide (s1.core.ready (d :: [a, b]) = true ∧ (d = 0 ∨ s1.canIntern (s1.resultLab [a, b]) = true))) := by
  decide +kernel

theorem witness_ScalarLogicWritesItsResult :
    (let h := plain; let d := (63 : Fin 64); let a := (1 : Fin 64); let b := (2 : Fin 64); goes (.and h d a b) .c h (live) fun s1 => decide (s1.core.ready (d :: [a, b]) = true ∧ (d = 0 ∨ s1.canIntern (s1.resultLab [a, b]) = true))) ∧
    (let h := plain; let d := (63 : Fin 64); let a := (1 : Fin 64); let i := (0x7FF : BitVec 11); goes (.andImm h d a i) .c h (live) fun s1 => decide (s1.core.ready (d :: [a]) = true ∧ (d = 0 ∨ s1.canIntern (s1.resultLab [a]) = true))) ∧
    (let h := plain; let d := (63 : Fin 64); let a := (1 : Fin 64); let b := (2 : Fin 64); goes (.or h d a b) .c h (live) fun s1 => decide (s1.core.ready (d :: [a, b]) = true ∧ (d = 0 ∨ s1.canIntern (s1.resultLab [a, b]) = true))) ∧
    (let h := plain; let d := (63 : Fin 64); let a := (1 : Fin 64); let i := (0x7FF : BitVec 11); goes (.orImm h d a i) .c h (live) fun s1 => decide (s1.core.ready (d :: [a]) = true ∧ (d = 0 ∨ s1.canIntern (s1.resultLab [a]) = true))) ∧
    (let h := plain; let d := (63 : Fin 64); let a := (1 : Fin 64); let b := (2 : Fin 64); goes (.xor h d a b) .c h (live) fun s1 => decide (s1.core.ready (d :: [a, b]) = true ∧ (d = 0 ∨ s1.canIntern (s1.resultLab [a, b]) = true))) ∧
    (let h := plain; let d := (63 : Fin 64); let a := (1 : Fin 64); let i := (0x7FF : BitVec 11); goes (.xorImm h d a i) .c h (live) fun s1 => decide (s1.core.ready (d :: [a]) = true ∧ (d = 0 ∨ s1.canIntern (s1.resultLab [a]) = true))) ∧
    (let h := plain; let d := (63 : Fin 64); let a := (1 : Fin 64); let b := (2 : Fin 64); goes (.shl h d a b false) .c h (live) fun s1 => decide (s1.core.ready (d :: [a, b]) = true ∧ (d = 0 ∨ s1.canIntern (s1.resultLab [a, b]) = true))) ∧
    (let h := plain; let d := (63 : Fin 64); let a := (1 : Fin 64); let b := (2 : Fin 64); goes (.shl h d a b true) .c h (live) fun s1 => decide (s1.core.ready (d :: [a]) = true ∧ (d = 0 ∨ s1.canIntern (s1.resultLab [a]) = true))) ∧
    (let h := plain; let d := (63 : Fin 64); let a := (1 : Fin 64); let b := (2 : Fin 64); goes (.shr h d a b false) .c h (live) fun s1 => decide (s1.core.ready (d :: [a, b]) = true ∧ (d = 0 ∨ s1.canIntern (s1.resultLab [a, b]) = true))) ∧
    (let h := plain; let d := (63 : Fin 64); let a := (1 : Fin 64); let b := (2 : Fin 64); goes (.shr h d a b true) .c h (live) fun s1 => decide (s1.core.ready (d :: [a]) = true ∧ (d = 0 ∨ s1.canIntern (s1.resultLab [a]) = true))) ∧
    (let h := plain; let d := (63 : Fin 64); let a := (1 : Fin 64); let b := (2 : Fin 64); goes (.sra h d a b false) .c h (live) fun s1 => decide (s1.core.ready (d :: [a, b]) = true ∧ (d = 0 ∨ s1.canIntern (s1.resultLab [a, b]) = true))) ∧
    (let h := plain; let d := (63 : Fin 64); let a := (1 : Fin 64); let b := (2 : Fin 64); goes (.sra h d a b true) .c h (live) fun s1 => decide (s1.core.ready (d :: [a]) = true ∧ (d = 0 ∨ s1.canIntern (s1.resultLab [a]) = true))) ∧
    (let h := plain; let d := (63 : Fin 64); let i := (0x7FF : BitVec 11); goes (.lui h d 0x1FFFF) .c h (live) fun s1 => decide (s1.core.ready (d :: ([] : List (Fin 64))) = true ∧ (d = 0 ∨ s1.canIntern (s1.resultLab ([] : List (Fin 64))) = true))) := by
  decide +kernel

theorem witness_ScalarComparesWriteTheirResult :
    (let h := plain; let d := (63 : Fin 64); let a := (1 : Fin 64); let b := (2 : Fin 64); goes (.slt h d a b) .c h (live) fun s1 => decide (s1.core.ready (d :: [a, b]) = true ∧ (d = 0 ∨ s1.canIntern (s1.resultLab [a, b]) = true))) ∧
    (let h := plain; let d := (63 : Fin 64); let a := (1 : Fin 64); let i := (0x7FF : BitVec 11); goes (.sltImm h d a i) .c h (live) fun s1 => decide (s1.core.ready (d :: [a]) = true ∧ (d = 0 ∨ s1.canIntern (s1.resultLab [a]) = true))) ∧
    (let h := plain; let d := (63 : Fin 64); let a := (1 : Fin 64); let b := (2 : Fin 64); goes (.sltu h d a b) .c h (live) fun s1 => decide (s1.core.ready (d :: [a, b]) = true ∧ (d = 0 ∨ s1.canIntern (s1.resultLab [a, b]) = true))) ∧
    (let h := plain; let d := (63 : Fin 64); let a := (1 : Fin 64); let b := (2 : Fin 64); goes (.min h d a b false) .c h (live) fun s1 => decide (s1.core.ready (d :: [a, b]) = true ∧ (d = 0 ∨ s1.canIntern (s1.resultLab [a, b]) = true))) ∧
    (let h := plain; let d := (63 : Fin 64); let a := (1 : Fin 64); let b := (2 : Fin 64); goes (.min h d a b true) .c h (live) fun s1 => decide (s1.core.ready (d :: [a, b]) = true ∧ (d = 0 ∨ s1.canIntern (s1.resultLab [a, b]) = true))) ∧
    (let h := plain; let d := (63 : Fin 64); let a := (1 : Fin 64); let b := (2 : Fin 64); goes (.max h d a b false) .c h (live) fun s1 => decide (s1.core.ready (d :: [a, b]) = true ∧ (d = 0 ∨ s1.canIntern (s1.resultLab [a, b]) = true))) ∧
    (let h := plain; let d := (63 : Fin 64); let a := (1 : Fin 64); let b := (2 : Fin 64); goes (.max h d a b true) .c h (live) fun s1 => decide (s1.core.ready (d :: [a, b]) = true ∧ (d = 0 ∨ s1.canIntern (s1.resultLab [a, b]) = true))) ∧
    (let h := plain; let d := (63 : Fin 64); let a := (1 : Fin 64); let b := (2 : Fin 64); goes (.csel h d a b) .c h (live) fun s1 => decide (s1.core.ready (d :: [d, a, b]) = true ∧ (d = 0 ∨ s1.canIntern (s1.resultLab [d, a, b]) = true))) ∧
    (let h := plain; let d := (63 : Fin 64); let a := (1 : Fin 64); goes (.lbget h d a) .c h (live) fun s1 => decide (s1.core.ready (d :: [a]) = true ∧ (d = 0 ∨ s1.canIntern (s1.resultLab [a]) = true))) := by
  decide +kernel

theorem witness_ClzAndPopc :
    (goes (.clz plain 63 1) .c plain live fun s1 => decide (s1.core.ready [63, 1] = true ∧ s1.canIntern (s1.resultLab [1]) = true)) ∧
    (goes (.popc plain 63 1) .c plain live fun s1 => decide (s1.core.ready [63, 1] = true ∧ s1.canIntern (s1.resultLab [1]) = true)) := by
  decide +kernel

theorem witness_ScalarWordsWaitForTheirRegisters :
    (goes (.sub plain 3 1 2) .c plain (live.modCore fun k => { k with xPend := [(1 : Fin 64)] }) fun s1 => decide (s1.core.ready [3, 1, 2] = false)) ∧
    (goes (.div plain 3 2 1 true) .c plain (live.modCore fun k => { k with xPend := [(1 : Fin 64)] }) fun s1 => decide (s1.core.ready [3, 2, 1] = false)) ∧
    (goes (.csel plain 1 2 3) .c plain (live.modCore fun k => { k with xPend := [(1 : Fin 64)] }) fun s1 => decide (s1.core.ready [1, 1, 2, 3] = false)) ∧
    (goes (.br plain .eq 1 2 4) .c plain (live.modCore fun k => { k with xPend := [(1 : Fin 64)] }) fun s1 => decide (s1.core.ready [1, 2] = false)) ∧
    (goes (.ld plain 3 1 0 0 0) .c plain (live.modCore fun k => { k with xPend := [(1 : Fin 64)] }) fun s1 => decide (s1.core.ready [3, 1] = false)) ∧
    (goes (.st plain 1 2 0 0 0) .c plain (live.modCore fun k => { k with xPend := [(1 : Fin 64)] }) fun s1 => decide (s1.core.ready [1, 2] = false)) := by
  decide +kernel

theorem witness_FullLabelTableTraps :
    (let h := plain; let d := (63 : Fin 64); let a := (1 : Fin 64); let b := (2 : Fin 64); goes (.add h d a b) .c h (((fullTable live).modCore fun k => { k with x := k.x.set 1 ⟨5, BitVec.ofNat 256 1⟩, ar := k.ar.set 1 ⟨5, BitVec.ofNat 256 1⟩ })) fun s1 => decide (((fun s => s.olderMay .c = false ∧ d ≠ 0 ∧ s.core.ready [d, a, b] = true ∧ s.canIntern (s.resultLab [a, b]) = false)) s1)) ∧
    (let h := plain; let cc := CC.ltu; let a := (1 : Fin 64); let b := (2 : Fin 64); let o := (0 : BitVec 8); goes (.br h cc a b o) .c h (((fullTable live).modCore fun k => { k with x := k.x.set 1 ⟨5, BitVec.ofNat 256 1⟩, ar := k.ar.set 1 ⟨5, BitVec.ofNat 256 1⟩ })) fun s1 => decide (((fun s => s.core.ready [a, b] = true ∧ s.canIntern (Label.join (s.clab .c) (Label.joins (s.core.labsX [a, b]))) = false)) s1)) ∧
    (let h := plain; let d := (31 : Fin 32); let a := (1 : Fin 32); let b := (2 : Fin 32); goes (.aadd h d a b) .a h (((fullTable live).modCore fun k => { k with x := k.x.set 1 ⟨5, BitVec.ofNat 256 1⟩, ar := k.ar.set 1 ⟨5, BitVec.ofNat 256 1⟩ })) fun s1 => decide (((fun s => d ≠ 0 ∧ s.core.aReady [a, b] = true ∧ s.canIntern (s.resultLabA [a, b]) = false)) s1)) := by
  decide +kernel

theorem witness_BranchesAndJumpsMoveTheStream :
    (let h := plain; let cc := CC.eq; let a := (63 : Fin 64); let b := (1 : Fin 64); let o := (0x80 : BitVec 8); goes (.br h cc a b o) .c h ((withX live [(63, 7), (1, 7)])) fun s1 => decide (((fun s => s.core.ready [a, b] = true ∧ s.canIntern (Label.join (s.clab .c) (Label.joins [labX s a, labX s b])) = true ∧
      Holds cc (s.core.vx a) (s.core.vx b))) s1)) ∧
    (let h := plain; let cc := CC.ne; let a := (63 : Fin 64); let b := (1 : Fin 64); let o := (0x80 : BitVec 8); goes (.br h cc a b o) .c h ((withX live [(63, 7), (1, 8)])) fun s1 => decide (((fun s => s.core.ready [a, b] = true ∧ s.canIntern (Label.join (s.clab .c) (Label.joins [labX s a, labX s b])) = true ∧
      Holds cc (s.core.vx a) (s.core.vx b))) s1)) ∧
    (let h := plain; let cc := CC.lt; let a := (63 : Fin 64); let b := (1 : Fin 64); let o := (0x80 : BitVec 8); goes (.br h cc a b o) .c h ((withX live [(63, 0xFFFFFFFFFFFFFFFF), (1, 0)])) fun s1 => decide (((fun s => s.core.ready [a, b] = true ∧ s.canIntern (Label.join (s.clab .c) (Label.joins [labX s a, labX s b])) = true ∧
      Holds cc (s.core.vx a) (s.core.vx b))) s1)) ∧
    (let h := plain; let cc := CC.ge; let a := (63 : Fin 64); let b := (1 : Fin 64); let o := (0x80 : BitVec 8); goes (.br h cc a b o) .c h ((withX live [(63, 0), (1, 0)])) fun s1 => decide (((fun s => s.core.ready [a, b] = true ∧ s.canIntern (Label.join (s.clab .c) (Label.joins [labX s a, labX s b])) = true ∧
      Holds cc (s.core.vx a) (s.core.vx b))) s1)) ∧
    (let h := plain; let cc := CC.ltu; let a := (63 : Fin 64); let b := (1 : Fin 64); let o := (0x80 : BitVec 8); goes (.br h cc a b o) .c h ((withX live [(63, 0), (1, 0xFFFFFFFFFFFFFFFF)])) fun s1 => decide (((fun s => s.core.ready [a, b] = true ∧ s.canIntern (Label.join (s.clab .c) (Label.joins [labX s a, labX s b])) = true ∧
      Holds cc (s.core.vx a) (s.core.vx b))) s1)) ∧
    (let h := plain; let cc := CC.geu; let a := (63 : Fin 64); let b := (1 : Fin 64); let o := (0x80 : BitVec 8); goes (.br h cc a b o) .c h ((withX live [(63, 0xFFFFFFFFFFFFFFFF), (1, 0xFFFFFFFFFFFFFFFF)])) fun s1 => decide (((fun s => s.core.ready [a, b] = true ∧ s.canIntern (Label.join (s.clab .c) (Label.joins [labX s a, labX s b])) = true ∧
      Holds cc (s.core.vx a) (s.core.vx b))) s1)) ∧
    (let h := plain; let cc := CC.eq; let a := (63 : Fin 64); let b := (1 : Fin 64); let o := (0x80 : BitVec 8); goes (.br h cc a b o) .c h ((withX live [(63, 7), (1, 8)])) fun s1 => decide (((fun s => s.core.ready [a, b] = true ∧ s.canIntern (Label.join (s.clab .c) (Label.joins [labX s a, labX s b])) = true ∧
      ¬ Holds cc (s.core.vx a) (s.core.vx b))) s1)) ∧
    (let h := plain; let cc := CC.ne; let a := (63 : Fin 64); let b := (1 : Fin 64); let o := (0x80 : BitVec 8); goes (.br h cc a b o) .c h ((withX live [(63, 7), (1, 7)])) fun s1 => decide (((fun s => s.core.ready [a, b] = true ∧ s.canIntern (Label.join (s.clab .c) (Label.joins [labX s a, labX s b])) = true ∧
      ¬ Holds cc (s.core.vx a) (s.core.vx b))) s1)) ∧
    (let h := plain; let cc := CC.lt; let a := (63 : Fin 64); let b := (1 : Fin 64); let o := (0x80 : BitVec 8); goes (.br h cc a b o) .c h ((withX live [(63, 0), (1, 0)])) fun s1 => decide (((fun s => s.core.ready [a, b] = true ∧ s.canIntern (Label.join (s.clab .c) (Label.joins [labX s a, labX s b])) = true ∧
      ¬ Holds cc (s.core.vx a) (s.core.vx b))) s1)) ∧
    (let h := plain; let cc := CC.ge; let a := (63 : Fin 64); let b := (1 : Fin 64); let o := (0x80 : BitVec 8); goes (.br h cc a b o) .c h ((withX live [(63, 0xFFFFFFFFFFFFFFFF), (1, 0)])) fun s1 => decide (((fun s => s.core.ready [a, b] = true ∧ s.canIntern (Label.join (s.clab .c) (Label.joins [labX s a, labX s b])) = true ∧
      ¬ Holds cc (s.core.vx a) (s.core.vx b))) s1)) ∧
    (let h := plain; let cc := CC.ltu; let a := (63 : Fin 64); let b := (1 : Fin 64); let o := (0x80 : BitVec 8); goes (.br h cc a b o) .c h ((withX live [(63, 1), (1, 1)])) fun s1 => decide (((fun s => s.core.ready [a, b] = true ∧ s.canIntern (Label.join (s.clab .c) (Label.joins [labX s a, labX s b])) = true ∧
      ¬ Holds cc (s.core.vx a) (s.core.vx b))) s1)) ∧
    (let h := plain; let cc := CC.geu; let a := (63 : Fin 64); let b := (1 : Fin 64); let o := (0x80 : BitVec 8); goes (.br h cc a b o) .c h ((withX live [(63, 0), (1, 1)])) fun s1 => decide (((fun s => s.core.ready [a, b] = true ∧ s.canIntern (Label.join (s.clab .c) (Label.joins [labX s a, labX s b])) = true ∧
      ¬ Holds cc (s.core.vx a) (s.core.vx b))) s1)) ∧
    (let h := plain; let d := (63 : Fin 64); let i := (0x1FFFF : BitVec 17); goes (.jal h d i) .c h (live) fun s1 => decide (((fun s => s.core.ready [d] = true ∧ (d = 0 ∨ s.canIntern (s.clab .c) = true))) s1)) ∧
    (let h := plain; let d := (63 : Fin 64); let a := (1 : Fin 64); let i := (3 : BitVec 11); goes (.jalr h d a i) .c h (live) fun s1 => decide (((fun s => XReady s [d, a] a)) s1)) := by
  decide +kernel

theorem witness_BrkRaisesTheBreakpointTrap :
    (goes (.brk .c plain 0x3FFFF) .c plain live fun s1 => decide ((.c = Stream.m → s1.core.m.infl = []) ∧ live.olderMay .c = false)) ∧
    (goes (.brk .a plain 0x3FFFF) .a plain live fun s1 => decide ((.a = Stream.m → s1.core.m.infl = []) ∧ live.olderMay .a = false)) ∧
    (goes (.brk .v plain 0x3FFFF) .v plain live fun s1 => decide ((.v = Stream.m → s1.core.m.infl = []) ∧ live.olderMay .v = false)) ∧
    (goes (.brk .m plain 0x3FFFF) .m plain live fun s1 => decide ((.m = Stream.m → s1.core.m.infl = []) ∧ live.olderMay .m = false)) := by
  decide +kernel

theorem witness_TrapAndEretWords :
    (let h := plain; let i := (0x1FFFF : BitVec 17); goes (.trap h i) .c h (live) fun s1 => decide (((fun _ => True)) s1)) ∧
    (let h := plain; let s : State := live; decide (Unhindered (.eret h) s .c) && (decide (s.core.csr.nest = false) && (true))) ∧
    (let h := plain; goes (.eret h) .c h ((live.modCore fun k => { k with csr := { k.csr with nest := true } })) fun s1 => decide (((fun s => s.core.csr.nest = true ∧ s.canIntern (Label.join (s.clab .c) s.core.c.bank.lab) = true)) s1)) := by
  decide +kernel

theorem witness_TrapHandlers :
    (decide ((((live.modCore fun k => { k with csr := { k.csr with tvec := 0x2000 } })).core.csr.nest = false ∧ ((live.modCore fun k => { k with csr := { k.csr with tvec := 0x2000 } })).core.csr.tvec ≠ 0) ∧ (live.core.csr.nest = false ∧ live.core.csr.tvec = 0) ∧ ((live.modCore fun k => { k with csr := { k.csr with nest := true } })).core.csr.nest = true)) ∧
    (goes (.trap plain 9) .c plain (live.modCore fun k => { k with csr := { k.csr with tvec := 0x2000 } }) fun _ => true) ∧
    (goes (.brk .c plain 9) .c plain (live.modCore fun k => { k with csr := { k.csr with tvec := 0x2000 } }) fun _ => true) := by
  decide +kernel

theorem witness_LoadsEnterTheLoadQueue :
    (let h := plain; let d := (63 : Fin 64); let a := (5 : Fin 64); let z := (3 : Fin 4); let o := (0 : BitVec 7); goes (.ld h d a z 0 o) .c h (withX live [(5, 393208)]) fun s1 => decide (((fun s => XReady s [d, a] a ∧ s.core.dispatch = false ∧ (eaOf s a z o).toNat + 2 ^ z.val ≤ 393216 ∧
      (∀ i, i < 2 ^ z.val → (s.core.c.forward s.core.next (.scr s.core.id ((eaOf s a z o).toNat + i))).isSome = true ∨
        ((eaOf s a z o).toNat + i) / 64 ∉ s.core.scrBad) ∧
      let l := Label.join ((viaX s a).resultLab [a]) (s.core.segsLabel (eaOf s a z o).toNat (2 ^ z.val))
      (viaX s a).canIntern l = true)) s1)) ∧
    (let h := plain; let d := (63 : Fin 64); let a := (5 : Fin 64); let z := (3 : Fin 4); let c := (1 : Fin 4); let o := (0 : BitVec 7); let s : State := withX live [(5, 0x1FFC)]; decide (c ≠ 0) && (goes (.ld h d a z c o) .c h s fun s1 => decide (XReady s1 [d, a] a) && (decide ((2 ≤ c.val → (eaOf s1 a z o).toNat % 2 ^ z.val = 0)) && (got ((viaX s1 a).access .read (eaOf s1 a z o) (2 ^ z.val) ((viaX s1 a).resultLab [a])) fun s2 ps => decide (Reachable s2 ps) && (decide (s2.poisoned .c (decide (2 ≤ c.val)) ps = none) && (let lab := (viaX s1 a).resultLab [a]
      let l := Label.join lab (Label.joins (ps.map (·.tag)))
      decide (s2.canIntern l = true) && (let e := loadInto (s2.intern l) d lab (pieceNeed ps) (ldScope c)
      decide (Fits e) && (true)))))))) ∧
    (let h := plain; let d := (0 : Fin 64); let a := (5 : Fin 64); let z := (2 : Fin 4); let c := (3 : Fin 4); let o := (0x40 : BitVec 7); let s : State := withX live [(5, 0x1FFC)]; decide (c ≠ 0) && (goes (.ld h d a z c o) .c h s fun s1 => decide (XReady s1 [d, a] a) && (decide ((2 ≤ c.val → (eaOf s1 a z o).toNat % 2 ^ z.val = 0)) && (got ((viaX s1 a).access .read (eaOf s1 a z o) (2 ^ z.val) ((viaX s1 a).resultLab [a])) fun s2 ps => decide (Reachable s2 ps) && (decide (s2.poisoned .c (decide (2 ≤ c.val)) ps = none) && (let lab := (viaX s1 a).resultLab [a]
      let l := Label.join lab (Label.joins (ps.map (·.tag)))
      decide (s2.canIntern l = true) && (let e := loadInto (s2.intern l) d lab (pieceNeed ps) (ldScope c)
      decide (Fits e) && (true)))))))) ∧
    (let h := plain; let d := (7 : Fin 64); let a := (5 : Fin 64); let z := (0 : Fin 4); let c := (2 : Fin 4); let o := (0 : BitVec 7); let s : State := withX dispatching [(5, 0x1FFF)]; decide (c ≠ 0) && (goes (.ld h d a z c o) .c h s fun s1 => decide (XReady s1 [d, a] a) && (decide ((2 ≤ c.val → (eaOf s1 a z o).toNat % 2 ^ z.val = 0)) && (got ((viaX s1 a).access .read (eaOf s1 a z o) (2 ^ z.val) ((viaX s1 a).resultLab [a])) fun s2 ps => decide (Reachable s2 ps) && (decide (s2.poisoned .c (decide (2 ≤ c.val)) ps = none) && (let lab := (viaX s1 a).resultLab [a]
      let l := Label.join lab (Label.joins (ps.map (·.tag)))
      decide (s2.canIntern l = true) && (let e := loadInto (s2.intern l) d lab (pieceNeed ps) (ldScope c)
      decide (Fits e) && (true)))))))) := by
  decide +kernel

theorem witness_StoresEnterTheStoreQueue :
    (let h := plain; let d := (63 : Fin 64); let a := (5 : Fin 64); let z := (3 : Fin 4); let o := (0 : BitVec 7); goes (.st h d a z 0 o) .c h (withX live [(5, 393208)]) fun s1 => decide (((fun s => XReady s [d, a] a ∧ (viaX s a).canIntern ((viaX s a).resultLab [a, d]) = true ∧ s.core.dispatch = false ∧
      (eaOf s a z o).toNat + 2 ^ z.val ≤ 393216 ∧
      s.core.segsAllow ((viaX s a).resultLab [a, d]) (eaOf s a z o).toNat (2 ^ z.val) = true)) s1)) ∧
    (let h := plain; let d := (63 : Fin 64); let a := (5 : Fin 64); let z := (3 : Fin 4); let c := (1 : Fin 4); let o := (0 : BitVec 7); let s : State := withX live [(5, 0x1FFC)]; decide (c ≠ 0) && (goes (.st h d a z c o) .c h s fun s1 => decide (XReady s1 [d, a] a) && (decide ((2 ≤ c.val → (eaOf s1 a z o).toNat % 2 ^ z.val = 0)) && (let lab := (viaX s1 a).resultLab [a, d]
      decide ((viaX s1 a).canIntern lab = true) && (got (((viaX s1 a).intern lab).access .write (eaOf s1 a z o) (2 ^ z.val) lab) fun s2 ps => decide (Reachable s2 ps) && (decide ((∀ p ∈ ps, paClass p.pa = 0 → Label.sub lab p.tag = true)) && (let e := (s2.dropRdc (pieceLines ps)).pushStore .c s2.core.next (ldScope c) true false lab ps (natLe (2 ^ z.val) (s1.core.vx d).toNat)
      decide (Fits e) && (true)))))))) ∧
    (let h := plain; let d := (0 : Fin 64); let a := (5 : Fin 64); let z := (2 : Fin 4); let c := (3 : Fin 4); let o := (0x3F : BitVec 7); let s : State := withX live [(5, 0x1FFC)]; decide (c ≠ 0) && (goes (.st h d a z c o) .c h s fun s1 => decide (XReady s1 [d, a] a) && (decide ((2 ≤ c.val → (eaOf s1 a z o).toNat % 2 ^ z.val = 0)) && (let lab := (viaX s1 a).resultLab [a, d]
      decide ((viaX s1 a).canIntern lab = true) && (got (((viaX s1 a).intern lab).access .write (eaOf s1 a z o) (2 ^ z.val) lab) fun s2 ps => decide (Reachable s2 ps) && (decide ((∀ p ∈ ps, paClass p.pa = 0 → Label.sub lab p.tag = true)) && (let e := (s2.dropRdc (pieceLines ps)).pushStore .c s2.core.next (ldScope c) true false lab ps (natLe (2 ^ z.val) (s1.core.vx d).toNat)
      decide (Fits e) && (true)))))))) ∧
    (let h := plain; let d := (0 : Fin 64); let a := (5 : Fin 64); let z := (3 : Fin 4); let c := (2 : Fin 4); let o := (0 : BitVec 7); let s : State := withX live [(5, 0x200000)]; decide (c ≠ 0) && (goes (.st h d a z c o) .c h s fun s1 => decide (XReady s1 [d, a] a) && (decide ((2 ≤ c.val → (eaOf s1 a z o).toNat % 2 ^ z.val = 0)) && (let lab := (viaX s1 a).resultLab [a, d]
      decide ((viaX s1 a).canIntern lab = true) && (got (((viaX s1 a).intern lab).access .write (eaOf s1 a z o) (2 ^ z.val) lab) fun s2 ps => decide (Reachable s2 ps) && (decide ((∀ p ∈ ps, paClass p.pa = 0 → Label.sub lab p.tag = true)) && (let e := (s2.dropRdc (pieceLines ps)).pushStore .c s2.core.next (ldScope c) true false lab ps (natLe (2 ^ z.val) (s1.core.vx d).toNat)
      decide (Fits e) && (true)))))))) := by
  decide +kernel

theorem witness_AtomicsEnterBothQueues :
    (goes (.amoW plain 63 5 6 .min .co) .c plain (withX live [(5, 0x1FFFFC)]) fun s1 => decide (XReady s1 (63 :: [5, 6]) 5 ∧ (s1.core.vx 5).toNat % 4 = 0) &&
      got ((viaX s1 5).access .rdwr (s1.core.vx 5) 4 ((viaX s1 5).resultLab [5, 6])) fun s2 ps => one ps fun p =>
        decide (paClass p.pa = 0 ∧ (s2.core.dispatch = true → p.tag = 0) ∧ Label.sub ((viaX s1 5).resultLab [5, 6]) p.tag = true ∧ s2.poison.contains (lineOf p.pa) = false ∧
          s2.canIntern (Label.join ((viaX s1 5).resultLab [5, 6]) p.tag) = true)) ∧
    (goes (.amoD plain 0 5 6 .swap .sy) .c plain (withX live [(5, 0x1FFFF8)]) fun s1 => decide (XReady s1 (0 :: [5, 6]) 5 ∧ (s1.core.vx 5).toNat % 8 = 0) &&
      got ((viaX s1 5).access .rdwr (s1.core.vx 5) 8 ((viaX s1 5).resultLab [5, 6])) fun s2 ps => one ps fun p =>
        decide (paClass p.pa = 0 ∧ (s2.core.dispatch = true → p.tag = 0) ∧ Label.sub ((viaX s1 5).resultLab [5, 6]) p.tag = true ∧ s2.poison.contains (lineOf p.pa) = false ∧
          s2.canIntern (Label.join ((viaX s1 5).resultLab [5, 6]) p.tag) = true)) ∧
    (goes (.cas plain 7 5 6 true .dv) .c plain (withX dispatching [(5, 0x1FF8)]) fun s1 => decide (XReady s1 (7 :: [7, 5, 6]) 5 ∧ (s1.core.vx 5).toNat % 8 = 0) &&
      got ((viaX s1 5).access .rdwr (s1.core.vx 5) 8 ((viaX s1 5).resultLab [7, 5, 6])) fun s2 ps => one ps fun p =>
        decide (paClass p.pa = 0 ∧ (s2.core.dispatch = true → p.tag = 0) ∧ Label.sub ((viaX s1 5).resultLab [7, 5, 6]) p.tag = true ∧ s2.poison.contains (lineOf p.pa) = false ∧
          s2.canIntern (Label.join ((viaX s1 5).resultLab [7, 5, 6]) p.tag) = true)) ∧
    (goes (.cas plain 7 5 6 false .di) .c plain (withX live [(5, 0x4)]) fun s1 => decide (XReady s1 (7 :: [7, 5, 6]) 5 ∧ (s1.core.vx 5).toNat % 4 = 0) &&
      got ((viaX s1 5).access .rdwr (s1.core.vx 5) 4 ((viaX s1 5).resultLab [7, 5, 6])) fun s2 ps => one ps fun p =>
        decide (paClass p.pa = 0 ∧ (s2.core.dispatch = true → p.tag = 0) ∧ Label.sub ((viaX s1 5).resultLab [7, 5, 6]) p.tag = true ∧ s2.poison.contains (lineOf p.pa) = false ∧
          s2.canIntern (Label.join ((viaX s1 5).resultLab [7, 5, 6]) p.tag) = true)) := by
  decide +kernel

theorem witness_MemoryWordsTrap :
    (let h := plain; let d := (63 : Fin 64); let a := (5 : Fin 64); let z := (3 : Fin 4); let o := (0 : BitVec 7); goes (.ld h d a z 0 o) .c h (withX live [(5, 393209)]) fun s1 => decide (((fun s => XReady s [d, a] a ∧ (s.core.dispatch = true ∨ 393216 < (eaOf s a z o).toNat + 2 ^ z.val))) s1)) ∧
    (let h := plain; let d := (63 : Fin 64); let a := (5 : Fin 64); let z := (3 : Fin 4); let o := (0 : BitVec 7); goes (.ld h d a z 0 o) .c h (withX dispatching [(5, 0)]) fun s1 => decide (((fun s => XReady s [d, a] a ∧ (s.core.dispatch = true ∨ 393216 < (eaOf s a z o).toNat + 2 ^ z.val))) s1)) ∧
    (let h := plain; let d := (63 : Fin 64); let a := (5 : Fin 64); let z := (3 : Fin 4); let o := (0 : BitVec 7); goes (.st h d a z 0 o) .c h (withX live [(5, 393209)]) fun s1 => decide (((fun s => XReady s [d, a] a ∧ (viaX s a).canIntern ((viaX s a).resultLab [a, d]) = true ∧
      (s.core.dispatch = true ∨ 393216 < (eaOf s a z o).toNat + 2 ^ z.val))) s1)) ∧
    (let h := plain; let d := (63 : Fin 64); let a := (5 : Fin 64); let z := (3 : Fin 4); let o := (0 : BitVec 7); goes (.st h d a z 0 o) .c h (((withX live [(5, 0)]).modCore fun k => { k with x := k.x.set 63 ⟨1, Label.ofSlot 3⟩ })) fun s1 => decide (((fun s => XReady s [d, a] a ∧ (viaX s a).canIntern ((viaX s a).resultLab [a, d]) = true ∧ s.core.dispatch = false ∧ (eaOf s a z o).toNat + 2 ^ z.val ≤ 393216 ∧
      s.core.segsAllow ((viaX s a).resultLab [a, d]) (eaOf s a z o).toNat (2 ^ z.val) = false)) s1)) ∧
    (let h := plain; let d := (63 : Fin 64); let a := (5 : Fin 64); let z := (3 : Fin 4); let c := (2 : Fin 4); let o := (0 : BitVec 7); decide (2 ≤ c.val) && (goes (.ld h d a z c o) .c h (withX live [(5, 4)]) fun s1 => decide (((fun s => XReady s [d, a] a ∧ (eaOf s a z o).toNat % 2 ^ z.val ≠ 0)) s1))) ∧
    (let h := plain; let d := (63 : Fin 64); let a := (5 : Fin 64); let z := (3 : Fin 4); let c := (3 : Fin 4); let o := (0 : BitVec 7); decide (2 ≤ c.val) && (goes (.st h d a z c o) .c h (withX live [(5, 4097)]) fun s1 => decide (((fun s => XReady s [d, a] a ∧ (viaX s a).canIntern ((viaX s a).resultLab [a, d]) = true ∧ (eaOf s a z o).toNat % 2 ^ z.val ≠ 0)) s1))) ∧
    (let h := plain; let d := (63 : Fin 64); let a := (5 : Fin 64); let b := (6 : Fin 64); let p := AtOp.add; let c := Scope.co; goes (.amoD h d a b p c) .c h (withX live [(5, 4)]) fun s1 => decide (((fun s => XReady s [d, a, b] a ∧ (s.core.vx a).toNat % 8 ≠ 0)) s1)) ∧
    (let h := plain; let d := (63 : Fin 64); let a := (5 : Fin 64); let b := (6 : Fin 64); let c := Scope.co; goes (.cas h d a b false c) .c h (withX live [(5, 2)]) fun s1 => decide (((fun s => XReady s [d, d, a, b] a ∧ (s.core.vx a).toNat % 4 ≠ 0)) s1)) ∧
    (goes (.ld plain 63 5 3 1 0) .c plain (withX live [(5, 0x3FFFFC)]) fun s1 => decide (XReady s1 [63, 5] 5) &&
      (match (viaX s1 5).access .read (eaOf s1 5 3 0) (2 ^ (3 : Fin 4).val) ((viaX s1 5).resultLab [5]) with
       | .error (.trap cause va l) => decide (cause = 0x4C ∧ va = 0x400000 ∧ l = (viaX s1 5).resultLab [5])
       | _ => false)) := by
  decide +kernel

theorem witness_FencesPlaceMarkers :
    (goes (.fence plain .fl .sy) .c plain live fun _ => true) ∧
    (goes (.qalign plain) .c plain live fun _ => true) ∧
    (goes (.afence plain .rl .co) .a plain live fun _ => true) := by
  decide +kernel

theorem witness_LbchkTestsTheSubsetRule :
    (let h := plain; let d := (63 : Fin 64); let a := (5 : Fin 64); let b := (6 : Fin 64); let s : State := withX live [(6, 0xFFF)]; goes (.lbchk h d a b) .c h s fun s1 => decide (s1.core.ready [d, a, b] = true) && (got (s1.pieces .c .write (s1.resultLab [a, b]) [((s1.core.vx b).toNat, 1)]) fun s2 y1 => one y1 fun p => decide ((d = 0 ∨ s2.canIntern (s1.resultLab [a, b]) = true)) && (let e := s2.result d (if (if paClass p.pa = 0 then s1.resultLab [a, b] &&& p.tag = s1.resultLab [a, b] else s1.resultLab [a, b] = 0) then 1 else 0) (s1.resultLab [a, b])
      decide (Fits e) && (true)))) := by
  decide +kernel

theorem witness_QueuePushesAppend :
    (let h := plain; let a := (5 : Fin 64); goes (.fmtq h a) .c h (live) fun s1 => decide (((fun s => s.core.ready [a] = true ∧ s.core.c.olderBoth s.core.next = true ∧ s.core.fmtq.length < 16 ∧ s.canIntern (s.resultLab [a]) = true)) s1)) ∧
    (let h := plain; let a := (5 : Fin 64); goes (.cqput h a false) .c h (live) fun s1 => decide (((fun s => s.core.ready [a] = true ∧ s.core.c.olderBoth s.core.next = true ∧ s.core.a.ended = false ∧ s.core.cqA.length < 16 ∧
      s.canIntern (s.resultLab [a]) = true)) s1)) ∧
    (let h := plain; let a := (5 : Fin 64); goes (.cqput h a true) .c h (live) fun s1 => decide (((fun s => s.core.ready [a] = true ∧ s.core.c.olderBoth s.core.next = true ∧ s.core.v.ended = false ∧ s.core.cqV.length < 16 ∧
      s.canIntern (s.resultLab [a]) = true)) s1)) ∧
    (let h := plain; let a := (5 : Fin 64); let q := false; goes (.cqput h a q) .c h (withStrm live .a fun t => { t with ended := true }) fun s1 => decide (((fun s => s.core.ready [a] = true ∧ s.core.c.olderBoth s.core.next = true ∧ (s.core.strm (if q then .v else .a)).ended = true)) s1)) ∧
    (let h := plain; let a := (5 : Fin 64); let q := true; goes (.cqput h a q) .c h (withStrm live .v fun t => { t with ended := true }) fun s1 => decide (((fun s => s.core.ready [a] = true ∧ s.core.c.olderBoth s.core.next = true ∧ (s.core.strm (if q then .v else .a)).ended = true)) s1)) := by
  decide +kernel

theorem witness_NestAndRingWordsWriteTheirField :
    (let h := plain; let d := (63 : Fin 64); let t := (7 : Fin 8); let v := (5 : Fin 8); let f := (5 : Fin 32); decide (nestSelOk v f = true) && (goes (.nstset h d t v f) .c h (live) fun s1 => decide (((fun s => s.core.ready [d] = true ∧ s.canIntern (Label.join s.core.shadow[t].lab (s.resultLab [d])) = true)) s1))) ∧
    (let h := plain; let d := (63 : Fin 64); let t := (7 : Fin 8); let v := (6 : Fin 8); let f := (14 : Fin 32); decide (nestSelOk v f = true) && (goes (.nstset h d t v f) .c h (live) fun s1 => decide (((fun s => s.core.ready [d] = true ∧ s.canIntern (Label.join s.core.shadow[t].lab (s.resultLab [d])) = true)) s1))) ∧
    (let h := plain; let d := (63 : Fin 64); let r := (15 : Fin 16); let n := RgCnt.fre; goes (.rgqry h d r n) .c h (live) fun s1 => decide (((fun s => s.core.ready [d] = true ∧ (d = 0 ∨ s.canIntern (s.countLab (s.core.ring r)) = true))) s1)) ∧
    (let h := plain; let d := (63 : Fin 64); let r : Fin 16 := (15 : Fin 16); let f := RgFld.base; goes (.rgset h d r f) .c h (withX live [(63, 393152)]) fun s1 => decide (((fun s => let n := (s.core.vx d).toNat
      let g := s.core.ring r
      s.core.ready [d] = true ∧ s.canIntern (s.resultLab [d]) = true ∧ (f = .reset ∨ g.claimed = g.freed) ∧
      (match RgFld.base with
        | .base => n % 64 = 0 ∧ n ≤ 393152
        | .logsz => 6 ≤ n ∧ n ≤ 16
        | .count => 1 ≤ n ∧ n ≤ 4096
        | .peer => n < 2 ^ 16 ∧ n / 2 ^ 14 ≠ 3
        | .reset => n = 0) ∧
      ∀ i ∈ (match RgFld.base with
        | .base => ({ g with base := n } : Ring)
        | .logsz => { g with logsz := n }
        | .count => { g with count := n }
        | _ => g).segs, Label.sub (s.resultLab [d]) (s.core.segLabel i) = true)) s1)) ∧
    (let h := plain; let d := (63 : Fin 64); let r : Fin 16 := (15 : Fin 16); let f := RgFld.logsz; goes (.rgset h d r f) .c h (withX live [(63, 16)]) fun s1 => decide (((fun s => let n := (s.core.vx d).toNat
      let g := s.core.ring r
      s.core.ready [d] = true ∧ s.canIntern (s.resultLab [d]) = true ∧ (f = .reset ∨ g.claimed = g.freed) ∧
      (match RgFld.logsz with
        | .base => n % 64 = 0 ∧ n ≤ 393152
        | .logsz => 6 ≤ n ∧ n ≤ 16
        | .count => 1 ≤ n ∧ n ≤ 4096
        | .peer => n < 2 ^ 16 ∧ n / 2 ^ 14 ≠ 3
        | .reset => n = 0) ∧
      ∀ i ∈ (match RgFld.logsz with
        | .base => ({ g with base := n } : Ring)
        | .logsz => { g with logsz := n }
        | .count => { g with count := n }
        | _ => g).segs, Label.sub (s.resultLab [d]) (s.core.segLabel i) = true)) s1)) ∧
    (let h := plain; let d := (63 : Fin 64); let r : Fin 16 := (15 : Fin 16); let f := RgFld.count; goes (.rgset h d r f) .c h (withX live [(63, 4096)]) fun s1 => decide (((fun s => let n := (s.core.vx d).toNat
      let g := s.core.ring r
      s.core.ready [d] = true ∧ s.canIntern (s.resultLab [d]) = true ∧ (f = .reset ∨ g.claimed = g.freed) ∧
      (match RgFld.count with
        | .base => n % 64 = 0 ∧ n ≤ 393152
        | .logsz => 6 ≤ n ∧ n ≤ 16
        | .count => 1 ≤ n ∧ n ≤ 4096
        | .peer => n < 2 ^ 16 ∧ n / 2 ^ 14 ≠ 3
        | .reset => n = 0) ∧
      ∀ i ∈ (match RgFld.count with
        | .base => ({ g with base := n } : Ring)
        | .logsz => { g with logsz := n }
        | .count => { g with count := n }
        | _ => g).segs, Label.sub (s.resultLab [d]) (s.core.segLabel i) = true)) s1)) ∧
    (let h := plain; let d := (63 : Fin 64); let r : Fin 16 := (15 : Fin 16); let f := RgFld.peer; goes (.rgset h d r f) .c h (withX live [(63, 0xBFFF)]) fun s1 => decide (((fun s => let n := (s.core.vx d).toNat
      let g := s.core.ring r
      s.core.ready [d] = true ∧ s.canIntern (s.resultLab [d]) = true ∧ (f = .reset ∨ g.claimed = g.freed) ∧
      (match RgFld.peer with
        | .base => n % 64 = 0 ∧ n ≤ 393152
        | .logsz => 6 ≤ n ∧ n ≤ 16
        | .count => 1 ≤ n ∧ n ≤ 4096
        | .peer => n < 2 ^ 16 ∧ n / 2 ^ 14 ≠ 3
        | .reset => n = 0) ∧
      ∀ i ∈ (match RgFld.peer with
        | .base => ({ g with base := n } : Ring)
        | .logsz => { g with logsz := n }
        | .count => { g with count := n }
        | _ => g).segs, Label.sub (s.resultLab [d]) (s.core.segLabel i) = true)) s1)) ∧
    (let h := plain; let d := (63 : Fin 64); let r : Fin 16 := (15 : Fin 16); let f := RgFld.reset; goes (.rgset h d r f) .c h (withX live [(63, 0)]) fun s1 => decide (((fun s => let n := (s.core.vx d).toNat
      let g := s.core.ring r
      s.core.ready [d] = true ∧ s.canIntern (s.resultLab [d]) = true ∧ (f = .reset ∨ g.claimed = g.freed) ∧
      (match RgFld.reset with
        | .base => n % 64 = 0 ∧ n ≤ 393152
        | .logsz => 6 ≤ n ∧ n ≤ 16
        | .count => 1 ≤ n ∧ n ≤ 4096
        | .peer => n < 2 ^ 16 ∧ n / 2 ^ 14 ≠ 3
        | .reset => n = 0) ∧
      ∀ i ∈ (match RgFld.reset with
        | .base => ({ g with base := n } : Ring)
        | .logsz => { g with logsz := n }
        | .count => { g with count := n }
        | _ => g).segs, Label.sub (s.resultLab [d]) (s.core.segLabel i) = true)) s1)) ∧
    (let h := plain; let d := (63 : Fin 64); let r : Fin 16 := (15 : Fin 16); let f := RgFld.base; decide (f ≠ .reset) && (goes (.rgset h d r f) .c h (withRings live (aRing 1 0 0)) fun s1 => decide (((fun s => s.core.ready [d] = true ∧ (s.core.ring r).claimed ≠ (s.core.ring r).freed)) s1))) := by
  decide +kernel

theorem witness_CsrWordsReadAndWrite :
    (let h := plain; let d := (63 : Fin 64); let c := Csr.taskid; goes (.csrr h d c) .c h (live) fun s1 => decide (((fun s => s.core.ready [d] = true ∧ (d = 0 ∨ s.canIntern (Label.join (s.csrLab c) (s.clab .c)) = true))) s1)) ∧
    (let h := plain; let d := (63 : Fin 64); let c := Csr.wmk1; goes (.csrr h d c) .c h (live) fun s1 => decide (((fun s => s.core.ready [d] = true ∧ (d = 0 ∨ s.canIntern (Label.join (s.csrLab c) (s.clab .c)) = true))) s1)) ∧
    (let h := plain; let d := (63 : Fin 64); let c := Csr.tstep; goes (.csrr h d c) .c h (live) fun s1 => decide (((fun s => s.core.ready [d] = true ∧ (d = 0 ∨ s.canIntern (Label.join (s.csrLab c) (s.clab .c)) = true))) s1)) ∧
    (let h := plain; let d := (63 : Fin 64); let a := (5 : Fin 64); let c := Csr.lcore; decide (csrReadOnly c = true) && (goes (.csrw h d a c) .c h (live) fun s1 => decide (((fun s => s.core.ready [d, a] = true ∧ (d = 0 ∨ s.canIntern (s.csrLab c) = true))) s1))) ∧
    (let h := plain; let d := (63 : Fin 64); let a := (5 : Fin 64); let c := Csr.cause; decide (c = .cause ∨ c = .epc ∨ c = .tval) && (let l := fun (s : State) => Label.join (labX s a) (s.clab .c)
      let u := fun (s : State) => ((s.intern (Label.join (s.csrLab c) (l s))).modBank fun b => { b with lab := Label.join b.lab (l s) }).csrStore c (s.core.vx a)
      goes (.csrw h d a c) .c h (live) fun s1 => decide (((fun s => s.core.ready [d, a] = true ∧ s.canIntern (Label.join (s.csrLab c) (l s)) = true ∧ (d = 0 ∨ (u s).canIntern (s.csrLab c) = true))) s1))) ∧
    (let h := plain; let d := (0 : Fin 64); let a := (5 : Fin 64); let c := Csr.tval; decide (c = .cause ∨ c = .epc ∨ c = .tval) && (let l := fun (s : State) => Label.join (labX s a) (s.clab .c)
      let u := fun (s : State) => ((s.intern (Label.join (s.csrLab c) (l s))).modBank fun b => { b with lab := Label.join b.lab (l s) }).csrStore c (s.core.vx a)
      goes (.csrw h d a c) .c h (live) fun s1 => decide (((fun s => s.core.ready [d, a] = true ∧ s.canIntern (Label.join (s.csrLab c) (l s)) = true ∧ (d = 0 ∨ (u s).canIntern (s.csrLab c) = true))) s1))) ∧
    (let h := plain; let d := (63 : Fin 64); let a := (5 : Fin 64); let c := Csr.tvec; decide (csrReadOnly c = false) && (decide (c ≠ .cause) && (decide (c ≠ .epc) && (decide (c ≠ .tval) && (let l := fun (s : State) => Label.join (labX s a) (s.clab .c)
      let u := fun (s : State) => (s.intern (Label.join (s.csrLab c) (l s))).modCore fun k => { k with csr := k.csr.joinLab c (l s) }
      goes (.csrw h d a c) .c h (live) fun s1 => decide (((fun s => s.core.ready [d, a] = true ∧ s.canIntern (Label.join (s.csrLab c) (l s)) = true ∧
      (d = 0 ∨ ((u s).csrStore c (s.core.vx a)).canIntern (s.csrLab c) = true))) s1)))))) ∧
    (let h := plain; let d := (63 : Fin 64); let a := (5 : Fin 64); let c := Csr.status; decide (csrReadOnly c = false) && (decide (c ≠ .cause) && (decide (c ≠ .epc) && (decide (c ≠ .tval) && (let l := fun (s : State) => Label.join (labX s a) (s.clab .c)
      let u := fun (s : State) => (s.intern (Label.join (s.csrLab c) (l s))).modCore fun k => { k with csr := k.csr.joinLab c (l s) }
      goes (.csrw h d a c) .c h (live) fun s1 => decide (((fun s => s.core.ready [d, a] = true ∧ s.canIntern (Label.join (s.csrLab c) (l s)) = true ∧
      (d = 0 ∨ ((u s).csrStore c (s.core.vx a)).canIntern (s.csrLab c) = true))) s1)))))) ∧
    (let h := plain; let d := (63 : Fin 64); let a := (5 : Fin 64); let c := Csr.weltstat; decide (csrReadOnly c = false) && (decide (c ≠ .cause) && (decide (c ≠ .epc) && (decide (c ≠ .tval) && (let l := fun (s : State) => Label.join (labX s a) (s.clab .c)
      let u := fun (s : State) => (s.intern (Label.join (s.csrLab c) (l s))).modCore fun k => { k with csr := k.csr.joinLab c (l s) }
      goes (.csrw h d a c) .c h (live) fun s1 => decide (((fun s => s.core.ready [d, a] = true ∧ s.canIntern (Label.join (s.csrLab c) (l s)) = true ∧
      (d = 0 ∨ ((u s).csrStore c (s.core.vx a)).canIntern (s.csrLab c) = true))) s1)))))) := by
  decide +kernel

theorem witness_DaccWordsSendTheirEntry :
    (goes (.daccOpen plain 5 6) .c plain (withX live [(5, 0x1FFC), (6, 0x30000)]) fun s1 => decide (XReady s1 ([] ++ [5, 6]) 5 ∧ (s1.core.vx 5).toNat % 4 = 0) &&
      got ((viaX s1 5).access .rdwr (s1.core.vx 5) 4 ((viaX s1 5).resultLab [5, 6])) fun s2 _ =>
      got (s2.access .rdwr (s1.core.vx 5) (4 * ((s1.core.vx 6).toNat / 2 ^ 16 % 4096 + 1)) ((viaX s1 5).resultLab [5, 6])) fun s3 ps =>
        decide ((∀ p ∈ ps, paClass p.pa = 0) ∧ (s3.core.dispatch = true → ∀ p ∈ ps, p.tag = 0))) ∧
    (goes (.daccAdd plain 5 6) .c plain (withX live [(5, 0x1FFC)]) fun s1 => decide (XReady s1 ([] ++ [5, 6]) 5 ∧ (s1.core.vx 5).toNat % 4 = 0) &&
      got ((viaX s1 5).access .rdwr (s1.core.vx 5) 4 ((viaX s1 5).resultLab [5, 6])) fun s2 _ =>
      got (s2.access .rdwr (s1.core.vx 5) (4 * 1) ((viaX s1 5).resultLab [5, 6])) fun s3 ps =>
        decide ((∀ p ∈ ps, paClass p.pa = 0) ∧ (s3.core.dispatch = true → ∀ p ∈ ps, p.tag = 0))) ∧
    (goes (.daccAddx plain 5 6) .c plain (withX dispatching [(5, 0x1FFC)]) fun s1 => decide (XReady s1 ([] ++ [5, 6]) 5 ∧ (s1.core.vx 5).toNat % 4 = 0) &&
      got ((viaX s1 5).access .rdwr (s1.core.vx 5) 4 ((viaX s1 5).resultLab [5, 6])) fun s2 _ =>
      got (s2.access .rdwr (s1.core.vx 5) (4 * 1) ((viaX s1 5).resultLab [5, 6])) fun s3 ps =>
        decide ((∀ p ∈ ps, paClass p.pa = 0) ∧ (s3.core.dispatch = true → ∀ p ∈ ps, p.tag = 0))) ∧
    (goes (.daccRead plain 63 5) .c plain (withX live [(5, 0)]) fun s1 => decide (XReady s1 ([63] ++ [5]) 5 ∧ (s1.core.vx 5).toNat % 4 = 0) &&
      got ((viaX s1 5).access .rdwr (s1.core.vx 5) 4 ((viaX s1 5).resultLab [5])) fun s2 _ =>
      got (s2.access .rdwr (s1.core.vx 5) (4 * 1) ((viaX s1 5).resultLab [5])) fun s3 ps =>
        decide ((∀ p ∈ ps, paClass p.pa = 0) ∧ (s3.core.dispatch = true → ∀ p ∈ ps, p.tag = 0))) := by
  decide +kernel

theorem witness_DaccCloseCoversItsRegion :
    (let h := plain; let a := (5 : Fin 64); let s : State := { withX live [(5, 0x1FFC)] with regions := [⟨-512, [(0x201FFC, Acc256.zero), (0x202000, Acc256.zero)]⟩] }; goes (.daccClose h a) .c h s fun s1 => decide (XReady s1 [a] a) && (decide ((s1.core.vx a).toNat % 4 = 0) && (got ((viaX s1 a).access .rdwr (s1.core.vx a) 4 ((viaX s1 a).resultLab [a])) fun s2 y1 => cons y1 fun p first => has (s2.regionAt p.pa) fun g => got (s2.access .rdwr (s1.core.vx a) (4 * g.words.length) ((viaX s1 a).resultLab [a])) fun s3 ps => decide ((∀ p ∈ ps, paClass p.pa = 0)) && (decide ((s3.core.dispatch = true → ∀ p ∈ ps, p.tag = 0)) && (let pas := ps.flatMap fun p => (List.range (p.len / 4)).map fun i => p.pa + 4 * i
      let e := (s3.dropRdc (pas.map lineOf).dedup).modCore fun k => { k with dacc := some ⟨.close, s1.core.next, s1.core.vx a, pas,
      (viaX s1 a).resultLab [a], if s1.core.lace.st = .granted then ps.head?.map (·.tag) else none⟩ }
      decide (Fits e) && (true)))))) ∧
    (let h := plain; let a := (5 : Fin 64); let b := (6 : Fin 64); goes (.daccAdd h a b) .c h (withX live [(5, 3)]) fun s1 => decide (((fun s => XReady s [a, b] a ∧ (s.core.vx a).toNat % 4 ≠ 0)) s1)) ∧
    (let h := plain; let a := (5 : Fin 64); goes (.daccClose h a) .c h (withX live [(5, 2)]) fun s1 => decide (((fun s => XReady s [a] a ∧ (s.core.vx a).toNat % 4 ≠ 0)) s1)) := by
  decide +kernel

theorem witness_LcdeclDeclaresATile :
    (goes (.lcdecl plain 5) .c plain (withX live [(5, 0x1FFF00)]) fun s1 => decide (XReady s1 [5] 5 ∧ (s1.core.lace.st = .idle ∨ s1.core.lace.st = .declaring) ∧ (s1.core.vx 5).toNat % 256 = 0) &&
      got3 ((viaX s1 5).translate .c (s1.core.vx 5) .rdwr) fun s2 pa _ => decide (pa < 2 ^ 50 ∧ (∀ t ∈ s1.core.lace.tiles, t.pa ≠ pa) ∧ s1.core.lace.tiles.length < 16)) ∧
    (goes (.lcdecl plain 5) .c plain (withX (live.modCore fun k => { k with lace := { Lace.reset with st := .declaring, tiles := [⟨0, 0x200000, false, 0⟩] } }) [(5, 0)]) fun s1 => decide (XReady s1 [5] 5 ∧ (s1.core.lace.st = .idle ∨ s1.core.lace.st = .declaring) ∧ (s1.core.vx 5).toNat % 256 = 0) &&
      got3 ((viaX s1 5).translate .c (s1.core.vx 5) .rdwr) fun s2 pa _ => decide (pa < 2 ^ 50 ∧ ∃ t ∈ s1.core.lace.tiles, t.pa = pa)) ∧
    (goes (.lcdecl plain 5) .c plain (withX (live.modCore fun k => { k with lace := { Lace.reset with st := .declaring, tiles := (List.range 16).map fun n => ⟨0, 0x200000 + 256 * n, false, 0⟩ } }) [(5, 0x1000)]) fun s1 => decide (XReady s1 [5] 5 ∧ (s1.core.lace.st = .idle ∨ s1.core.lace.st = .declaring) ∧ (s1.core.vx 5).toNat % 256 = 0) &&
      got3 ((viaX s1 5).translate .c (s1.core.vx 5) .rdwr) fun s2 pa _ => decide (pa < 2 ^ 50 ∧ (∀ t ∈ s1.core.lace.tiles, t.pa ≠ pa) ∧ 16 ≤ s1.core.lace.tiles.length)) := by
  decide +kernel

theorem witness_LaceWordsMoveTheSlot :
    (let h := plain; let d := (63 : Fin 64); let a := (5 : Fin 64); goes (.lcsub h d a) .c h (withX (live.modCore fun k => { k with lace := { Lace.reset with st := .declaring, tiles := [⟨0, 0x200000, false, 0⟩] } }) [(5, 65535)]) fun s1 => decide (((fun s => XReady s [d, a] a ∧ s.core.lace.st = .declaring ∧
      ((s.core.vx a).toNat = 0 ∨ s.tstep ≤ (s.core.vx a).toNat ∧ (s.core.vx a).toNat ≤ s.tstep + 65535))) s1)) ∧
    (let h := plain; let d := (63 : Fin 64); let a := (5 : Fin 64); goes (.lcsub h d a) .c h ((live.modCore fun k => { k with lace := { Lace.reset with st := .declaring, tiles := [] } })) fun s1 => decide (((fun s => XReady s [d, a] a ∧ s.core.lace.st = .declaring ∧
      ((s.core.vx a).toNat = 0 ∨ s.tstep ≤ (s.core.vx a).toNat ∧ (s.core.vx a).toNat ≤ s.tstep + 65535))) s1)) ∧
    (goes (.lcwait plain) .c plain ({ (live.modCore fun k => { k with lace := { Lace.reset with st := .submitted, tiles := [⟨0, 0x200000, false, 0⟩], num := 9 } }) with core := { ((live.modCore fun k => { k with lace := { Lace.reset with st := .submitted, tiles := [⟨0, 0x200000, false, 0⟩], num := 9 } })).core with c := { ((live.modCore fun k => { k with lace := { Lace.reset with st := .submitted, tiles := [⟨0, 0x200000, false, 0⟩], num := 9 } })).core.c with hold := some ⟨1, 0, 0, true, none⟩ } } }) fun s =>
      decide (s.core.lace.st = .submitted) && has s.core.c.hold fun r => r.first) ∧
    (let h := plain; goes (.lcend h) .c h ({ (live.modCore fun k => { k with lace := { Lace.reset with st := .granted, tiles := [⟨0, 0x200000, false, 0⟩] } }) with core := { ((live.modCore fun k => { k with lace := { Lace.reset with st := .granted, tiles := [⟨0, 0x200000, false, 0⟩] } })).core with c := { ((live.modCore fun k => { k with lace := { Lace.reset with st := .granted, tiles := [⟨0, 0x200000, false, 0⟩] } })).core.c with hold := some ⟨1, 0, 0, true, none⟩ } } }) fun s1 => decide (((fun s => s.core.lace.st = .granted ∧ s.core.c.hold.isSome = true)) s1)) ∧
    (let h := plain; let d := (63 : Fin 64); let a := (5 : Fin 64); goes (.lcsub h d a) .c h (live) fun s1 => decide (((fun s => s.core.ready [d, a] = true ∧ s.core.lace.st ≠ .declaring)) s1)) ∧
    (let h := plain; goes (.lcwait h) .c h ((live.modCore fun k => { k with lace := { Lace.reset with st := .declaring, tiles := [] } })) fun s1 => decide (((fun s => s.core.lace.st ≠ .submitted)) s1)) ∧
    (let h := plain; goes (.lcend h) .c h (live) fun s1 => decide (((fun s => s.core.lace.st ≠ .granted)) s1)) := by
  decide +kernel

theorem witness_WfeAndYield :
    (let h := plain; goes (.wfe h) .c h ((live.modCore fun k => { k with latch := true })) fun s1 => decide (((fun s => s.core.latch = true)) s1)) ∧
    (let h := plain; let s : State := live; goes (.wfe h) .c h s fun s1 => decide (s1.core.latch = false) && (true)) ∧
    (let h := plain; goes (.yield h) .c h (live) fun s1 => decide (((fun s => s.yields = false)) s1)) ∧
    (goes (.yield plain) .c plain ({ scheduled with kerns := [{ aKern with id := 2 }], core := { runCore 0 with task := some { aTask with kern := 3 } } }) fun s => decide (s.yields = true)) := by
  decide +kernel

theorem witness_TaskendEndsTheTask :
    (let h := plain; let s : State := live; goes (.taskend h) .c h s fun s1 => decide (s1.core.dispatch = false) && (decide (s1.core.c.infl = []) && (let b := s.beginEnd.dropStuck
      decide (b.core.queuesRest = true) && (decide (b.core.arrayRest = true) && (decide (b.core.firstRefused = none) && (let e := finish (.taskend h) .c h s1 (After.of s1.beginEnd.dropStuck)
      true)))))) ∧
    (let h := plain; goes (.taskend h) .c h ((dispatching.modCore fun k => { k with latch := true })) fun s1 => decide (((fun s => s.core.dispatch = true ∧ s.core.latch = true)) s1)) := by
  decide +kernel

theorem witness_LaunchReportsAStatus :
    (goes (.launch plain 63 5 6) .c plain dispatching fun s => decide (s.core.ready [63, 5, 6] = true ∧ ¬ ((s.core.vx 5).toNat < 4096 ∧ ∃ x ∈ s.slots, x.die = coreDie s.core.id ∧ x.q = (s.core.vx 5).toNat))) ∧
    (goes (.launch plain 63 5 6) .c plain (withX { scheduled with core := { dispatching.core with id := 1024 } } [(5, 5), (6, 7)]) fun s => decide (s.core.ready [63, 5, 6] = true ∧ ((s.core.vx 5).toNat < 4096 ∧ ∃ x ∈ s.slots, x.die = coreDie s.core.id ∧ x.q = (s.core.vx 5).toNat) ∧ (s.imageOf 5 7).isNone = true ∧ ∀ k ∈ s.cores, ∀ t ∈ k.task.toList, ¬ (t.queue = 5 ∧ t.idx = 7))) ∧
    (goes (.launch plain 63 5 6) .c plain ({ withX { scheduled with core := { dispatching.core with id := 1024 } } [(5, 5), (6, 7)] with others := [(0, { runCore 0 with task := some { aTask with idx := 7 } })] }) fun s => decide (s.core.ready [63, 5, 6] = true ∧ ((s.core.vx 5).toNat < 4096 ∧ ∃ x ∈ s.slots, x.die = coreDie s.core.id ∧ x.q = (s.core.vx 5).toNat) ∧ (s.imageOf 5 7).isNone = true ∧ ∃ k ∈ s.cores, ∃ t ∈ k.task.toList, t.queue = 5 ∧ t.idx = 7)) ∧
    (goes (.launch plain 63 5 6) .c plain (withX { scheduled with core := { dispatching.core with id := 1024 }, kerns := [aKern], images := [anImage] } [(5, 5), (6, 7)]) fun s => decide (s.core.ready [63, 5, 6] = true ∧ ((s.core.vx 5).toNat < 4096 ∧ ∃ x ∈ s.slots, x.die = coreDie s.core.id ∧ x.q = (s.core.vx 5).toNat)) && has (s.imageOf 5 7) fun im => (s.restore im).isSome) := by
  decide +kernel

theorem witness_CommonWordsOfScalarStreams :
    (goes (.nop .c plain) .c plain live fun s1 => decide ((.c = Stream.m → s1.core.m.infl = []))) ∧
    (goes (.tkwait .c plain 4) .c plain (live.modCore fun k => { k with tok := k.tok.set 4 1 }) fun s1 => decide ((.c = Stream.m → s1.core.m.infl = []))) ∧
    (goes (.tksig .c plain 1) .c plain live fun s1 => decide ((.c = Stream.m → s1.core.m.infl = []))) ∧
    (goes (.troute .c ⟨false, true, false⟩ 4 1) .c ⟨false, true, false⟩ (withStrm live .c fun t => { t with routeOut := 1 }) fun s1 => decide ((s1.strm .c).infl = [] ∧ s1.core.canSignal (s1.strm .c).routeOut 1 = true)) ∧
    (goes (.troute .c plain 4 1) .c plain (withStrm live .c fun t => { t with infl := [⟨0, 0, false, [], [], [], false, none, none⟩] }) fun s1 => decide ((.c = Stream.m → s1.core.m.infl = [])) && cons (s1.strm .c).infl fun e r => !e.done && r.isEmpty && s1.core.vpend.isEmpty) ∧
    (goes (.hold .c plain 63) .c plain live fun s1 => decide ((.c = Stream.m → s1.core.m.infl = []) ∧ (s1.strm .c).hold = none)) ∧
    ((fun (s : State) => (decide (Unhindered (.hold .c plain 0) { s with core := s.core.setStrm .c { s.strm .c with hold := none } } .c) && (has (s.strm .c).hold fun r => r.wait.isNone) && !s.olderMay .c : Bool)) (withStrm live .c fun t => { t with hold := some ⟨1, 0, 0, true, none⟩ })) ∧
    (goes (.nop .a plain) .a plain live fun s1 => decide ((.a = Stream.m → s1.core.m.infl = []))) ∧
    (goes (.tkwait .a plain 1) .a plain (live.modCore fun k => { k with tok := k.tok.set 1 1 }) fun s1 => decide ((.a = Stream.m → s1.core.m.infl = []))) ∧
    (goes (.tksig .a plain 4) .a plain live fun s1 => decide ((.a = Stream.m → s1.core.m.infl = []))) ∧
    (goes (.troute .a ⟨false, true, false⟩ 1 4) .a ⟨false, true, false⟩ (withStrm live .a fun t => { t with routeOut := 4 }) fun s1 => decide ((s1.strm .a).infl = [] ∧ s1.core.canSignal (s1.strm .a).routeOut 1 = true)) ∧
    (goes (.troute .a plain 1 4) .a plain (withStrm live .a fun t => { t with infl := [⟨0, 0, false, [], [], [], false, none, none⟩] }) fun s1 => decide ((.a = Stream.m → s1.core.m.infl = [])) && cons (s1.strm .a).infl fun e r => !e.done && r.isEmpty && s1.core.vpend.isEmpty) ∧
    (goes (.hold .a plain 63) .a plain live fun s1 => decide ((.a = Stream.m → s1.core.m.infl = []) ∧ (s1.strm .a).hold = none)) ∧
    ((fun (s : State) => (decide (Unhindered (.hold .a plain 0) { s with core := s.core.setStrm .a { s.strm .a with hold := none } } .a) && (has (s.strm .a).hold fun r => r.wait.isNone) && !s.olderMay .a : Bool)) (withStrm live .a fun t => { t with hold := some ⟨1, 0, 0, true, none⟩ })) ∧
    (goes (.nop .m plain) .m plain live fun s1 => decide ((.m = Stream.m → s1.core.m.infl = []))) ∧
    (goes (.tkwait .m plain 3) .m plain (live.modCore fun k => { k with tok := k.tok.set 3 1 }) fun s1 => decide ((.m = Stream.m → s1.core.m.infl = []))) ∧
    (goes (.tksig .m plain 12) .m plain live fun s1 => decide ((.m = Stream.m → s1.core.m.infl = []))) ∧
    (goes (.troute .m ⟨false, true, false⟩ 3 12) .m ⟨false, true, false⟩ (withStrm live .m fun t => { t with routeOut := 12 }) fun s1 => decide ((s1.strm .m).infl = [] ∧ s1.core.canSignal (s1.strm .m).routeOut 1 = true)) ∧
    (goes (.hold .m plain 63) .m plain live fun s1 => decide ((.m = Stream.m → s1.core.m.infl = []) ∧ (s1.strm .m).hold = none)) ∧
    ((fun (s : State) => (decide (Unhindered (.hold .m plain 0) { s with core := s.core.setStrm .m { s.strm .m with hold := none } } .m) && (has (s.strm .m).hold fun r => r.wait.isNone) && !s.olderMay .m : Bool)) (withStrm live .m fun t => { t with hold := some ⟨1, 0, 0, true, none⟩ })) := by
  decide +kernel

theorem witness_CommonWordsOfTheVectorStream :
    (let h := plain; goes (.nop .v h) .v h (live) fun s1 => decide (((fun _ => True)) s1)) ∧
    (let h := plain; let q := (6 : Fin 16); goes (.tkwait .v h q) .v h ((live.modCore fun k => { k with tok := k.tok.set 6 1 })) fun s1 => decide (((fun _ => True)) s1)) ∧
    (let h := plain; let q := (9 : Fin 16); goes (.tksig .v h q) .v h (live) fun s1 => decide (((fun _ => True)) s1)) ∧
    (let h := plain; let i := (6 : Fin 16); let o := (9 : Fin 16); goes (.troute .v h i o) .v h (live) fun s1 => decide (((fun s => s.core.v.infl = [] ∧ (h.s = true → s.core.canSignal s.core.v.routeOut 1 = true))) s1)) ∧
    (let h := plain; let n := (63 : Fin 64); goes (.hold .v h n) .v h (live) fun s1 => decide (((fun s => s.core.v.hold = none)) s1)) ∧
    ((fun (s : State) => (decide (Unhindered (.hold .v plain 0) { s with core := s.core.setStrm .v { s.core.v with hold := none } } .v) && s.core.v.hold.isSome && s.core.c.hold.isNone : Bool)) (withStrm live .v fun t => { t with hold := some ⟨1, 0, 0, true, none⟩ })) := by
  decide +kernel

theorem witness_TokenWordsMoveTheirToken :
    ((fun (s : State) => (decide (Unhindered (.tkwait .c plain 4) s .c) && s.core.tok[(4 : Fin 16)] == 0 && !(s.strm (Stream.ofNum (4 / 4))).ended : Bool)) (live)) ∧
    ((fun (s : State) => (decide (Unhindered (.tkwait .v plain 14) s .v) && s.core.tok[(14 : Fin 16)] == 0 && (s.strm (Stream.ofNum (14 / 4))).ended : Bool)) (withStrm live .m fun t => { t with ended := true })) ∧
    ((fun (s : State) => (decide (Unhindered (.tkwait .a plain 1) s .a) && decide (0 < s.core.tok[(1 : Fin 16)]) && s.core.owed.isEmpty && s.canIntern (Label.join (s.clab .a) s.core.tokLab[(1 : Fin 16)]) : Bool)) (live.modCore fun k => { k with tok := k.tok.set 1 15 })) ∧
    (goes (.tksig .c plain 1) .c plain (withStrm live .a fun t => { t with ended := true }) fun s1 => (s1.strm .c).infl.isEmpty && (s1.strm (Stream.ofNum (1 % 4))).ended) ∧
    (goes (.tksig .a plain 4) .a plain (live.modCore fun k => { k with tok := k.tok.set 4 14 }) fun s1 => (s1.strm .a).infl.isEmpty && !(s1.strm (Stream.ofNum (4 % 4))).ended && decide (s1.core.tok[(4 : Fin 16)] < 15)) ∧
    (goes (.tksig .m plain 14) .m plain (live.modCore fun k => { k with tok := k.tok.set 14 15 }) fun s1 => (s1.strm .m).infl.isEmpty && !(s1.strm (Stream.ofNum (14 % 4))).ended && decide (15 ≤ s1.core.tok[(14 : Fin 16)])) := by
  decide +kernel

theorem witness_StendEndsTheStream :
    (goes (.stend .c plain) .c plain live fun s1 => decide ((s1.strm .c).infl = [] ∧ s1.core.killed = none ∧ s1.core.ending = false ∧ (.c = Stream.v → s1.core.landings = [])) &&
      ([Stream.c, .a, .v, .m].any fun u => u != .c && !(s1.strm u).ended)) ∧
    (goes (.stend .a plain) .a plain live fun s1 => decide ((s1.strm .a).infl = [] ∧ s1.core.killed = none ∧ s1.core.ending = false ∧ (.a = Stream.v → s1.core.landings = [])) &&
      ([Stream.c, .a, .v, .m].any fun u => u != .a && !(s1.strm u).ended)) ∧
    (goes (.stend .m plain) .m plain live fun s1 => decide ((s1.strm .m).infl = [] ∧ s1.core.killed = none ∧ s1.core.ending = false ∧ (.m = Stream.v → s1.core.landings = [])) &&
      ([Stream.c, .a, .v, .m].any fun u => u != .m && !(s1.strm u).ended)) ∧
    (goes (.stend .v plain) .v plain live fun s1 => decide ((s1.strm .v).infl = [] ∧ s1.core.killed = none ∧ s1.core.ending = false ∧ (.v = Stream.v → s1.core.landings = [])) &&
      ([Stream.c, .a, .v, .m].any fun u => u != .v && !(s1.strm u).ended)) ∧
    (goes (.stend .c plain) .c plain (live.modCore fun k => { k with a := { k.a with ended := true }, v := { k.v with ended := true }, m := { k.m with ended := true } }) fun s1 => decide ((s1.strm .c).infl = [] ∧ (.c = Stream.v → s1.core.landings = []) ∧ s1.core.ending = false) &&
      let t := finish (.stend .c plain) .c plain s1 (After.of (stended .c s1)); t.core.allEnded && t.core.queuesRest && t.core.arrayRest) ∧
    (goes (.stend .v plain) .v plain (live.modCore fun k => { k with c := { k.c with ended := true }, a := { k.a with ended := true }, m := { k.m with ended := true } }) fun s1 => decide ((s1.strm .v).infl = [] ∧ (.v = Stream.v → s1.core.landings = []) ∧ s1.core.ending = false) &&
      let t := finish (.stend .v plain) .v plain s1 (After.of (stended .v s1)); t.core.allEnded && t.core.queuesRest && t.core.arrayRest) ∧
    (goes (.stend .c plain) .c plain (withStrm live .c fun t => { t with infl := [⟨0, 0, false, [], [], [], false, none, none⟩] }) fun s1 => decide ((s1.strm .c).infl ≠ [] ∧ live.core.killed = none ∧ live.core.allEnded = false ∧ live.core.ending = false)) ∧
    (goes (.stend .a plain) .a plain (withStrm live .a fun t => { t with infl := [⟨0, 0, false, [], [], [], false, none, none⟩] }) fun s1 => decide ((s1.strm .a).infl ≠ [] ∧ live.core.killed = none ∧ live.core.allEnded = false ∧ live.core.ending = false)) ∧
    (goes (.stend .v plain) .v plain (withStrm live .v fun t => { t with infl := [⟨0, 0, false, [], [], [], false, none, none⟩] }) fun s1 => decide ((s1.strm .v).infl ≠ [] ∧ live.core.killed = none ∧ live.core.allEnded = false ∧ live.core.ending = false)) := by
  decide +kernel

theorem witness_AddressArithmeticWritesItsResult :
    (let h := plain; let d := (31 : Fin 32); let a := (5 : Fin 32); let b := (6 : Fin 32); goes (.aadd h d a b) .a h (live) fun s1 => decide (d = 0 ∨ s1.canIntern (s1.resultLabA [a, b]) = true)) ∧
    (let h := plain; let d := (31 : Fin 32); let a := (5 : Fin 32); let b := (6 : Fin 32); goes (.asub h d a b) .a h (live) fun s1 => decide (d = 0 ∨ s1.canIntern (s1.resultLabA [a, b]) = true)) ∧
    (let h := plain; let d := (31 : Fin 32); let a := (5 : Fin 32); let b := (6 : Fin 32); goes (.amul h d a b) .a h (live) fun s1 => decide (d = 0 ∨ s1.canIntern (s1.resultLabA [a, b]) = true)) ∧
    (let h := plain; let d := (31 : Fin 32); let a := (5 : Fin 32); let b := (6 : Fin 32); goes (.aand h d a b) .a h (live) fun s1 => decide (d = 0 ∨ s1.canIntern (s1.resultLabA [a, b]) = true)) ∧
    (let h := plain; let d := (31 : Fin 32); let a := (5 : Fin 32); let i := (0x1FFF : BitVec 13); goes (.aaddImm h d a i) .a h (live) fun s1 => decide (d = 0 ∨ s1.canIntern (s1.resultLabA [a]) = true)) ∧
    (let h := plain; let d := (31 : Fin 32); let a := (5 : Fin 32); let sh : Fin 64 := (63 : Fin 64); goes (.ashl h d a sh) .a h (live) fun s1 => decide (d = 0 ∨ s1.canIntern (s1.resultLabA [a]) = true)) ∧
    (let h := plain; let d := (31 : Fin 32); let a := (5 : Fin 32); let sh : Fin 64 := (63 : Fin 64); goes (.ashr h d a sh) .a h (live) fun s1 => decide (d = 0 ∨ s1.canIntern (s1.resultLabA [a]) = true)) ∧
    (let h := plain; let d := (31 : Fin 32); let i := (0x1FFF : BitVec 13); goes (.amovi h d i) .a h (live) fun s1 => decide (d = 0 ∨ s1.canIntern (s1.resultLabA ([] : List (Fin 32))) = true)) := by
  decide +kernel

theorem witness_AddressWordsWaitForTheirRegisters :
    (goes (.aadd plain 3 1 5) .a plain (withStrm live .a fun t => { t with infl := [⟨0, 0, false, [], [], [], false, none, some 5⟩] }) fun s1 => decide (s1.core.aReady [1, 5] = false)) ∧
    (goes (.abr plain .ne 5 2 4) .a plain (withStrm live .a fun t => { t with infl := [⟨0, 0, false, [], [], [], false, none, some 5⟩] }) fun s1 => decide (s1.core.aReady [5, 2] = false)) ∧
    (goes (.ald plain 1 4 3 .dv .w false) .a plain (withStrm live .a fun t => { t with infl := [⟨0, 0, false, [], [], [], false, none, some 5⟩] }) fun s1 => decide (s1.core.aReady [1, 4, pairHi 4] = false)) := by
  decide +kernel

theorem witness_TrapStopsTheOtherStreams :
    (decide ((live.core.csr.deleg.toNat / 2 ^ Stream.a.num % 2 ≠ 1) ∧ ({ live.core.csr with deleg := 15, tvec := 0x2000 } : Csrs).deleg.toNat / 2 ^ Stream.m.num % 2 = 1)) := by
  decide +kernel

theorem witness_AddressBranchesMoveTheStream :
    (let h := plain; let cc := CC.eq; let a := (31 : Fin 32); let b := (5 : Fin 32); let o := (0x200 : BitVec 10); goes (.abr h cc a b o) .a h ((withA live [(31, 7), (5, 7)])) fun s1 => decide (((fun s => s.core.aReady [a, b] = true ∧ AReady s (Label.joins [labA s a, labA s b]) ∧ Holds cc (s.core.va a) (s.core.va b))) s1)) ∧
    (let h := plain; let cc := CC.lt; let a := (31 : Fin 32); let b := (5 : Fin 32); let o := (0x200 : BitVec 10); goes (.abr h cc a b o) .a h ((withA live [(31, 0xFFFFFFFFFFFFFFFF), (5, 0)])) fun s1 => decide (((fun s => s.core.aReady [a, b] = true ∧ AReady s (Label.joins [labA s a, labA s b]) ∧ Holds cc (s.core.va a) (s.core.va b))) s1)) ∧
    (let h := plain; let cc := CC.geu; let a := (31 : Fin 32); let b := (5 : Fin 32); let o := (0x200 : BitVec 10); goes (.abr h cc a b o) .a h ((withA live [(31, 0xFFFFFFFFFFFFFFFF), (5, 0)])) fun s1 => decide (((fun s => s.core.aReady [a, b] = true ∧ AReady s (Label.joins [labA s a, labA s b]) ∧ Holds cc (s.core.va a) (s.core.va b))) s1)) ∧
    (let h := plain; let cc := CC.ne; let a := (31 : Fin 32); let b := (5 : Fin 32); let o := (0x200 : BitVec 10); goes (.abr h cc a b o) .a h ((withA live [(31, 7), (5, 7)])) fun s1 => decide (((fun s => s.core.aReady [a, b] = true ∧ AReady s (Label.joins [labA s a, labA s b]) ∧ ¬ Holds cc (s.core.va a) (s.core.va b))) s1)) ∧
    (let h := plain; let cc := CC.ge; let a := (31 : Fin 32); let b := (5 : Fin 32); let o := (0x200 : BitVec 10); goes (.abr h cc a b o) .a h ((withA live [(31, 0xFFFFFFFFFFFFFFFF), (5, 0)])) fun s1 => decide (((fun s => s.core.aReady [a, b] = true ∧ AReady s (Label.joins [labA s a, labA s b]) ∧ ¬ Holds cc (s.core.va a) (s.core.va b))) s1)) ∧
    (let h := plain; let cc := CC.ltu; let a := (31 : Fin 32); let b := (5 : Fin 32); let o := (0x200 : BitVec 10); goes (.abr h cc a b o) .a h ((withA live [(31, 0), (5, 0)])) fun s1 => decide (((fun s => s.core.aReady [a, b] = true ∧ AReady s (Label.joins [labA s a, labA s b]) ∧ ¬ Holds cc (s.core.va a) (s.core.va b))) s1)) ∧
    (let h := plain; let a := (31 : Fin 32); let o := (0x3FD : BitVec 10); goes (.aloop h a o) .a h ((withA live [(31, 0), (5, 1)])) fun s1 => decide (((fun s => s.core.aReady [a] = true ∧ AReady s (labA s a) ∧ a ≠ 0 ∧ s.core.va a ≠ 1)) s1)) ∧
    (let h := plain; let a := (31 : Fin 32); let o := (0x3FD : BitVec 10); goes (.aloop h a o) .a h ((withA live [(31, 2), (5, 1)])) fun s1 => decide (((fun s => s.core.aReady [a] = true ∧ AReady s (labA s a) ∧ a ≠ 0 ∧ s.core.va a ≠ 1)) s1)) ∧
    (let h := plain; let a := (31 : Fin 32); let o := (0x3FD : BitVec 10); goes (.aloop h a o) .a h ((withA live [(31, 1), (5, 1)])) fun s1 => decide (((fun s => s.core.aReady [a] = true ∧ AReady s (labA s a) ∧ (a = 0 ∨ s.core.va a = 1))) s1)) ∧
    (let h := plain; let a := (0 : Fin 32); let o := (0x3FD : BitVec 10); goes (.aloop h a o) .a h ((withA live [(31, 1), (5, 1)])) fun s1 => decide (((fun s => s.core.aReady [a] = true ∧ AReady s (labA s a) ∧ (a = 0 ∨ s.core.va a = 1))) s1)) := by
  decide +kernel

theorem witness_QueueAndRingWaits :
    (let h := plain; let d := (31 : Fin 32); let e := (⟨9, 0⟩ : LW); let r := ([⟨8, 0⟩] : List LW); goes (.acqpop h d) .a h ((live.modCore fun k => { k with cqA := [⟨9, 0⟩, ⟨8, 0⟩] })) fun s1 => decide (((fun s => s.core.cqA = e :: r ∧ AReady s e.lab ∧ (d = 0 ∨ (viaA s e.lab).canIntern e.lab = true))) s1)) ∧
    (let h := plain; let d := (31 : Fin 32); goes (.acqpop h d) .a h (withStrm live .c fun t => { t with ended := true }) fun s1 => decide (((fun s => s.core.cqA = [] ∧ s.core.c.ended = true)) s1)) ∧
    (let h := plain; let d := (31 : Fin 32); let r : Fin 16 := (15 : Fin 16); goes (.aidx h d r) .a h (withRings live (aRing 2 2 0)) fun s1 => decide (((fun s => (s.core.ring r).waitable = true ∧ 1 ≤ (s.core.ring r).ready ∧ s.releaseDue r = false ∧ AReady s ((s.core.ring r).frontLab 1))) s1)) ∧
    (let h := plain; let n : Fin 512 := (2 : Fin 512); let r : Fin 16 := (15 : Fin 16); goes (.awfill h n r) .a h (withRings live (aRing 2 2 0)) fun s1 => decide (((fun s => n.val ≤ (s.core.ring r).count ∧ (s.core.ring r).waitable = true ∧ n.val ≤ (s.core.ring r).ready ∧ s.releaseDue r = false ∧
      AReady s ((s.core.ring r).frontLab n.val))) s1)) ∧
    (let h := plain; let n : Fin 512 := (2 : Fin 512); let r : Fin 16 := (15 : Fin 16); goes (.awfree h n r) .a h (withRings live (aRing 2 2 0)) fun s1 => decide (((fun s => (s.core.ring r).count ≠ 0 ∧ ((s.core.ring r).mode = 0 ∨ (s.core.ring r).mode = 2) ∧ (s.core.ring r).used + n.val ≤ (s.core.ring r).count)) s1)) ∧
    (let h := plain; let n : Fin 512 := (5 : Fin 512); let r : Fin 16 := (15 : Fin 16); goes (.awfill h n r) .a h (withRings live (aRing 2 2 0)) fun s1 => decide (((fun s => (s.core.ring r).count < n.val)) s1)) ∧
    (let h := plain; let n : Fin 512 := (5 : Fin 512); let r : Fin 16 := (15 : Fin 16); goes (.awfree h n r) .a h (withRings live (aRing 2 2 0)) fun s1 => decide (((fun s => (s.core.ring r).count < n.val)) s1)) ∧
    (let h := plain; let d := (31 : Fin 32); let r : Fin 16 := (15 : Fin 16); goes (.aidx h d r) .a h (withRings live { aRing 2 2 0 with peer := 0x8000 }) fun s1 => decide (((fun s => (s.core.ring r).waitable = false)) s1)) := by
  decide +kernel

theorem witness_RingLoadsEnterTheLoadQueue :
    (let h := plain; let a := (5 : Fin 32); let b := (6 : Fin 32); let r : Fin 16 := (15 : Fin 16); let c := Scope.sy; let e := El.w; let m := false; let s : State := withRings (withA live [(5, 0x1FFC), (6, 64)]) (aRing 3 3 0); goes (.ald h a b r c e m) .a h s fun s1 => decide (s1.core.aReady [a, b, pairHi b] = true) && (decide (AReady s1 (labA s1 a)) && (let w := elBytes e
      let cnt := (s1.core.va b).toNat
      let st := if m then s1.core.va (pairHi b) else BitVec.ofNat 64 w
      let u := viaA s1 (labA s1 a)
      let g := s1.core.ring r
      let rs := [a, b, pairHi b]
      decide (0 < cnt) && (decide (cnt * w ≤ g.slotSize) && (decide (g.claimable = true) && (decide (u.bindingOk r = true) && (decide (g.used + u.claimsDue r + 1 ≤ g.count) && (got (u.pieces .aLoad .read (s1.resultLabA rs) (elemRuns (s1.core.va a) cnt w st)) fun s2 ps => decide ((∀ p ∈ ps, s2.farOk p.pa = true)) && (decide (s2.poisoned .a (transScope c).isSome ps = none) && (let l := Label.join (s2.clab .a) (Label.joins (ps.map (·.tag)))
      decide (s2.publishOk r (g.claimed.toNat + s2.claimsDue r) 1 l = true) && (decide (s2.canIntern l = true) && (decide ((a = 0 ∨ (s2.intern l).canIntern (s2.resultLabA rs) = true)) && (true))))))))))))) ∧
    (let h := plain; let a := (5 : Fin 32); let b := (6 : Fin 32); let r : Fin 16 := (15 : Fin 16); let c := Scope.co; let e := El.q; let m := true; let s : State := withRings (withA live [(5, 0), (6, 16), (7, 0x1000)]) (aRing 0 0 0); goes (.ald h a b r c e m) .a h s fun s1 => decide (s1.core.aReady [a, b, pairHi b] = true) && (decide (AReady s1 (labA s1 a)) && (let w := elBytes e
      let cnt := (s1.core.va b).toNat
      let st := if m then s1.core.va (pairHi b) else BitVec.ofNat 64 w
      let u := viaA s1 (labA s1 a)
      let g := s1.core.ring r
      let rs := [a, b, pairHi b]
      decide (0 < cnt) && (decide (cnt * w ≤ g.slotSize) && (decide (g.claimable = true) && (decide (u.bindingOk r = true) && (decide (g.used + u.claimsDue r + 1 ≤ g.count) && (got (u.pieces .aLoad .read (s1.resultLabA rs) (elemRuns (s1.core.va a) cnt w st)) fun s2 ps => decide ((∀ p ∈ ps, s2.farOk p.pa = true)) && (decide (s2.poisoned .a (transScope c).isSome ps = none) && (let l := Label.join (s2.clab .a) (Label.joins (ps.map (·.tag)))
      decide (s2.publishOk r (g.claimed.toNat + s2.claimsDue r) 1 l = true) && (decide (s2.canIntern l = true) && (decide ((a = 0 ∨ (s2.intern l).canIntern (s2.resultLabA rs) = true)) && (true))))))))))))) ∧
    (goes (.agath plain 5 8 15 3 false .w) .a plain (withRings (withA live [(8, 0x40040), (5, 0x10)]) (aRing 2 2 0)) fun s1 =>
      let v := s1.core.va 8
      let n := v.toNat / 65536 % 65536
      let row := v.toNat % 65536 * 4
      let g := s1.core.ring 15
      let ix := s1.core.ring 3
      let u := viaA s1 (Label.joins (s1.core.labsA [5, 8, pairHi 8]))
      let u' := viaA u (ix.frontLab 1)
      let lab := Label.join (s1.resultLabA [5, 8, pairHi 8]) (ix.frontLab 1)
      decide (s1.core.aReady [5, 8, pairHi 8] = true ∧ (15 : Fin 16) ≠ 3 ∧ AReady s1 (Label.joins (s1.core.labsA [5, 8, pairHi 8])) ∧ AReady u (ix.frontLab 1) ∧ v.toNat < 2 ^ 32 ∧ n ≠ 0 ∧ row ≠ 0 ∧ n ≤ g.count ∧ 4 * n ≤ ix.slotSize ∧
        row ≤ g.slotSize ∧ ix.waitable = true ∧ g.claimable = true ∧ u.bindingOk 15 = true ∧ u.filledFor 3 1 = true) &&
      (u'.rowAddrs 5 8 3 n).all (fun p => p.toNat % 4 == 0) &&
      got (u'.pieces .aLoad .read lab ((u'.rowAddrs 5 8 3 n).flatMap fun p => pageRuns p.toNat row)) fun s2 ps =>
        (ps.all fun p => s2.farOk p.pa) && (s2.poisoned .a false ps).isNone &&
        s2.publishOk 15 (g.claimed.toNat + s2.claimsDue 15) n (Label.join lab (Label.joins (ps.map (·.tag)))) && s2.canIntern (Label.join lab (Label.joins (ps.map (·.tag))))) ∧
    (let h := plain; let a := (5 : Fin 32); let b := (6 : Fin 32); let r : Fin 16 := (15 : Fin 16); let c := Scope.sy; let e := El.w; let m := false; goes (.ald h a b r c e m) .a h (withRings (withA live [(5, 0), (6, 65)]) (aRing 0 0 0)) fun s1 => decide (((fun s => s.core.aReady [a, b, pairHi b] = true ∧ AReady s (labA s a) ∧ ((s.core.va b).toNat = 0 ∨ (s.core.ring r).slotSize < (s.core.va b).toNat * elBytes e))) s1)) ∧
    (let h := plain; let a := (5 : Fin 32); let b := (6 : Fin 32); let r : Fin 16 := (15 : Fin 16); let c := Scope.sy; let e := El.w; let m := false; goes (.ald h a b r c e m) .a h (withRings (withA live [(5, 0), (6, 0)]) (aRing 0 0 0)) fun s1 => decide (((fun s => s.core.aReady [a, b, pairHi b] = true ∧ AReady s (labA s a) ∧ ((s.core.va b).toNat = 0 ∨ (s.core.ring r).slotSize < (s.core.va b).toNat * elBytes e))) s1)) ∧
    (let h := plain; let a := (5 : Fin 32); let b := (6 : Fin 32); let r : Fin 16 := (15 : Fin 16); let x : Fin 16 := (15 : Fin 16); let zs := false; let e := El.w; goes (.agath h a b r x zs e) .a h (withRings (withA live [(5, 0)]) (aRing 0 0 0)) fun s1 => decide (((fun s => s.core.aReady [a, b, pairHi b] = true ∧
      AReady s (Label.joins (s.core.labsA [a, b, pairHi b])) ∧ r = x)) s1)) := by
  decide +kernel

theorem witness_RingStoresEnterTheStoreQueue :
    (goes (.ast plain 5 6 15 .dv .w false) .a plain (withRings (withA live [(5, 0x1FFC), (6, 64)]) (aRing 1 1 0)) fun s1 =>
      let cnt := (s1.core.va 6).toNat
      let st : W64 := BitVec.ofNat 64 4
      let g := s1.core.ring 15
      let u := viaA s1 (labA s1 5)
      let lab := Label.join (s1.resultLabA [5, 6, pairHi 6]) (g.frontLab 1)
      decide (s1.core.aReady [5, 6, pairHi 6] = true ∧ AReady s1 (labA s1 5) ∧ 0 < cnt ∧ cnt * 4 ≤ g.slotSize ∧ g.waitable = true ∧ (false = true → (s1.core.va 5).toNat % 64 = 0 ∧ cnt * 4 % 64 = 0) ∧
        u.filledFor 15 1 = true ∧ AReady u (g.frontLab 1)) &&
      got ((viaA u (g.frontLab 1)).pieces .aStore .write lab (elemRuns (s1.core.va 5) cnt 4 st)) fun s2 ps =>
        decide ((∀ p ∈ ps, s2.farOk p.pa = true) ∧ (∀ p ∈ ps, paClass p.pa = 0 → Label.sub lab p.tag = true) ∧ s2.canIntern lab = true ∧ (s2.intern lab).canIntern (s2.resultLabA [5, 6, pairHi 6]) = true)) ∧
    (goes (.ast plain 5 6 15 .co .h true) .a plain (withRings (withA live [(5, 0), (6, 3), (7, 0x1000)]) (aRing 4 4 3)) fun s1 =>
      let cnt := (s1.core.va 6).toNat
      let st : W64 := s1.core.va (pairHi 6)
      let g := s1.core.ring 15
      let u := viaA s1 (labA s1 5)
      let lab := Label.join (s1.resultLabA [5, 6, pairHi 6]) (g.frontLab 1)
      decide (s1.core.aReady [5, 6, pairHi 6] = true ∧ AReady s1 (labA s1 5) ∧ 0 < cnt ∧ cnt * 2 ≤ g.slotSize ∧ g.waitable = true ∧ (false = true → (s1.core.va 5).toNat % 64 = 0 ∧ cnt * 2 % 64 = 0) ∧
        u.filledFor 15 1 = true ∧ AReady u (g.frontLab 1)) &&
      got ((viaA u (g.frontLab 1)).pieces .aStore .write lab (elemRuns (s1.core.va 5) cnt 2 st)) fun s2 ps =>
        decide ((∀ p ∈ ps, s2.farOk p.pa = true) ∧ (∀ p ∈ ps, paClass p.pa = 0 → Label.sub lab p.tag = true) ∧ s2.canIntern lab = true ∧ (s2.intern lab).canIntern (s2.resultLabA [5, 6, pairHi 6]) = true)) ∧
    (goes (.axput plain 5 6 15 .sy .d) .a plain (withRings (withA live [(5, 0x200040), (6, 32)]) (aRing 1 1 0)) fun s1 =>
      let cnt := (s1.core.va 6).toNat
      let st : W64 := BitVec.ofNat 64 8
      let g := s1.core.ring 15
      let u := viaA s1 (labA s1 5)
      let lab := Label.join (s1.resultLabA [5, 6, pairHi 6]) (g.frontLab 1)
      decide (s1.core.aReady [5, 6, pairHi 6] = true ∧ AReady s1 (labA s1 5) ∧ 0 < cnt ∧ cnt * 8 ≤ g.slotSize ∧ g.waitable = true ∧ (true = true → (s1.core.va 5).toNat % 64 = 0 ∧ cnt * 8 % 64 = 0) ∧
        u.filledFor 15 1 = true ∧ AReady u (g.frontLab 1)) &&
      got ((viaA u (g.frontLab 1)).pieces .aStore .write lab (elemRuns (s1.core.va 5) cnt 8 st)) fun s2 ps =>
        decide ((∀ p ∈ ps, s2.farOk p.pa = true) ∧ (∀ p ∈ ps, paClass p.pa = 0 → Label.sub lab p.tag = true) ∧ s2.canIntern lab = true ∧ (s2.intern lab).canIntern (s2.resultLabA [5, 6, pairHi 6]) = true)) ∧
    (goes (.ascat plain 5 8 15 3 .w) .a plain (withRings (withA live [(5, 0), (8, 0x40040)]) (aRing 4 4 0)) fun s1 =>
      let v := s1.core.va 8
      let n := v.toNat / 65536 % 65536
      let row := v.toNat % 65536 * 4
      let g := s1.core.ring 15
      let ix := s1.core.ring 3
      let u := viaA s1 (Label.joins (s1.core.labsA [5, 8, pairHi 8]))
      let slots := Label.join (ix.frontLab 1) (g.frontLab n)
      let u' := viaA u slots
      let lab := Label.join (s1.resultLabA [5, 8, pairHi 8]) slots
      let l := Label.join (u'.clab .a) (Label.join (s1.resultLabA [5, 8, pairHi 8]) (ix.frontLab 1))
      decide (s1.core.aReady [5, 8, pairHi 8] = true ∧ (15 : Fin 16) ≠ 3 ∧ AReady s1 (Label.joins (s1.core.labsA [5, 8, pairHi 8])) ∧ AReady u slots ∧ v.toNat < 2 ^ 32 ∧ n ≠ 0 ∧ row ≠ 0 ∧ n ≤ g.count ∧ 4 * n ≤ ix.slotSize ∧
        row ≤ g.slotSize ∧ ix.waitable = true ∧ g.waitable = true ∧ u.filledFor 3 1 = true ∧ u.filledFor 15 n = true) &&
      got ((u'.rowAddrs 5 8 3 n).foldlM (init := (u', ([] : List (List Piece)))) (fun acc p =>
        match acc.1.pieces .aStore .write lab (pageRuns p.toNat row) with
        | .ok (s, ps) => Except.ok (s, acc.2 ++ [ps])
        | .error x => Except.error x)) fun s2 per =>
        decide ((∀ p ∈ per.flatten, s2.farOk p.pa = true) ∧ s2.canIntern l = true ∧ ∀ ps ∈ per, ∀ p ∈ ps, paClass p.pa = 0 → Label.sub l p.tag = true)) ∧
    (let h := plain; let a := (5 : Fin 32); let b := (6 : Fin 32); let r : Fin 16 := (15 : Fin 16); let c := Scope.sy; let e := El.w; goes (.axput h a b r c e) .a h (withRings (withA live [(5, 0x20), (6, 16)]) (aRing 1 1 0)) fun s1 => decide (((fun s => s.core.aReady [a, b, pairHi b] = true ∧ AReady s (labA s a) ∧ 0 < (s.core.va b).toNat ∧ (s.core.va b).toNat * elBytes e ≤ (s.core.ring r).slotSize ∧ (s.core.ring r).waitable = true ∧
      ((s.core.va a).toNat % 64 ≠ 0 ∨ (s.core.va b).toNat * elBytes e % 64 ≠ 0))) s1)) := by
  decide +kernel

theorem witness_CopiesAndPrefetches :
    (let h := plain; let d := (4 : Fin 32); let a := (5 : Fin 32); let b := (6 : Fin 32); let c := Scope.sy; let s : State := withA live [(4, 0x1001), (5, 0x2003), (6, 4096)]; goes (.acopy h d a b c) .a h s fun s1 => decide (s1.core.aReady [d, a, b] = true) && (let n := (s1.core.va b).toNat
      let rs := [d, a, b]
      let ls := Label.joins (s1.core.labsA [d, a])
      let lab := s1.resultLabA rs
      decide (AReady s1 ls) && (decide (n ≤ 4096) && (decide (n ≠ 0) && (got ((viaA s1 ls).pieces .aLoad .read lab (pageRuns (s1.core.va a).toNat n)) fun s2 src => got (s2.pieces .aStore .write lab (pageRuns (s1.core.va d).toNat n)) fun s3 dst => decide ((∀ p ∈ src ++ dst, s3.farOk p.pa = true)) && (let l := Label.join lab (Label.joins (src.map (·.tag)))
      decide ((∀ p ∈ dst, paClass p.pa = 0 → Label.sub l p.tag = true)) && (decide (s3.poisoned .a false src = none) && (decide (s3.canIntern l = true) && (true))))))))) ∧
    (let h := plain; let d := (4 : Fin 32); let b := (6 : Fin 32); let c := Scope.sy; let s : State := withA live [(4, 0x1001), (6, 65536)]; goes (.azero h d b c) .a h s fun s1 => decide (s1.core.aReady [d, b] = true) && (let n := (s1.core.va b).toNat
      let lab := s1.resultLabA [d, b]
      decide (AReady s1 (labA s1 d)) && (decide (n ≤ 65536) && (decide (n ≠ 0) && (got ((viaA s1 (labA s1 d)).pieces .aStore .write lab (pageRuns (s1.core.va d).toNat n)) fun s2 dst => decide ((∀ p ∈ dst, s2.farOk p.pa = true)) && (decide (s2.canIntern lab = true) && (decide ((∀ p ∈ dst, paClass p.pa = 0 → Label.sub lab p.tag = true)) && (true)))))))) ∧
    (let h := plain; let d := (4 : Fin 32); let a := (5 : Fin 32); let b := (6 : Fin 32); let c := Scope.sy; goes (.acopy h d a b c) .a h (live) fun s1 => decide (((fun s => s.core.aReady [d, a, b] = true ∧ AReady s (Label.joins (s.core.labsA [d, a])) ∧ s.core.va b = 0)) s1)) ∧
    (let h := plain; let d := (4 : Fin 32); let b := (6 : Fin 32); let c := Scope.sy; goes (.azero h d b c) .a h (live) fun s1 => decide (((fun s => s.core.aReady [d, b] = true ∧ AReady s (labA s d) ∧ s.core.va b = 0)) s1)) ∧
    (let h := plain; let d := (4 : Fin 32); let a := (5 : Fin 32); let b := (6 : Fin 32); let c := Scope.sy; goes (.acopy h d a b c) .a h (withA live [(6, 4097)]) fun s1 => decide (((fun s => s.core.aReady [d, a, b] = true ∧ AReady s (Label.joins (s.core.labsA [d, a])) ∧ 4096 < (s.core.va b).toNat)) s1)) ∧
    (let h := plain; let d := (4 : Fin 32); let b := (6 : Fin 32); let c := Scope.sy; goes (.azero h d b c) .a h (withA live [(6, 65537)]) fun s1 => decide (((fun s => s.core.aReady [d, b] = true ∧ AReady s (labA s d) ∧ 65536 < (s.core.va b).toNat)) s1)) ∧
    (let h := plain; let a := (5 : Fin 32); let b := (6 : Fin 32); goes (.apref h a b) .a h (withA live [(5, 0xFFFF000000000000), (6, 0xFFFF)]) fun s1 => decide (((fun s => s.core.aReady [a, b] = true ∧ AReady s (Label.joins (s.core.labsA [a, b])))) s1)) := by
  decide +kernel

theorem witness_AamoActsAtTheTargetCore :
    (let h := plain; let d := (31 : Fin 32); let a := (5 : Fin 32); let b := (6 : Fin 32); let p := AtOp.add; let z := true; let s : State := withA live [(5, 393208)]; let k := 0; goes (.aamo h d a b p z) .a h s fun s1 => decide (s1.core.aReady [a, b] = true) && (decide (AReady s1 (labA s1 a)) && (let sz := if z then 8 else 4
      let v := s1.core.va a
      let sa := v.toNat % 2 ^ 19
      let u := viaA s1 (labA s1 a)
      let lab := s1.resultLabA [a, b]
      decide (v.toNat < 2 ^ 29) && (decide (sa < 393216) && (decide (u.launchCore (v.toNat / 2 ^ 19) = some k) && (decide (sa % sz = 0) && (decide (u.canIntern lab = true) && (decide ((u.coreOf k).segsAllow lab sa sz = true) && (decide (u.torn .a ((List.range sz).map fun i => .scr k (sa + i)) = false) && (decide (u.core.a.olderBoth u.core.next = true) && (decide (u.core.a.loadHeld u.core.next = false) && (decide (u.core.a.storeHeld u.core.next = false) && (let old := BitVec.ofNat 64 (leNat ((List.range sz).map fun i => u.homeByte (.scr k (sa + i))))
      let l := Label.join lab ((u.coreOf k).segsLabel sa sz)
      let x := ((u.intern lab).atomPut (.scr k sa) sz (p.applyBytes sz old (s1.core.va b))).noteWrites [.scr k sa] lab
      decide ((d = 0 ∨ x.canIntern l = true)) && (decide (Fits (x.resultA d (signExtendBytes sz old) l)) && (true))))))))))))))) ∧
    (let h := plain; let d := (31 : Fin 32); let a := (5 : Fin 32); let b := (6 : Fin 32); let p := AtOp.add; let z := false; let s : State := { withA live [(5, 0x1FF80004)] with others := [(130, { runCore 130 with task := some { aTask with lcore := 1023 } })] }; let k := 130; goes (.aamo h d a b p z) .a h s fun s1 => decide (s1.core.aReady [a, b] = true) && (decide (AReady s1 (labA s1 a)) && (let sz := if z then 8 else 4
      let v := s1.core.va a
      let sa := v.toNat % 2 ^ 19
      let u := viaA s1 (labA s1 a)
      let lab := s1.resultLabA [a, b]
      decide (v.toNat < 2 ^ 29) && (decide (sa < 393216) && (decide (u.launchCore (v.toNat / 2 ^ 19) = some k) && (decide (sa % sz = 0) && (decide (u.canIntern lab = true) && (decide ((u.coreOf k).segsAllow lab sa sz = true) && (decide (u.torn .a ((List.range sz).map fun i => .scr k (sa + i)) = false) && (decide (u.core.a.olderBoth u.core.next = true) && (decide (u.core.a.loadHeld u.core.next = false) && (decide (u.core.a.storeHeld u.core.next = false) && (let old := BitVec.ofNat 64 (leNat ((List.range sz).map fun i => u.homeByte (.scr k (sa + i))))
      let l := Label.join lab ((u.coreOf k).segsLabel sa sz)
      let x := ((u.intern lab).atomPut (.scr k sa) sz (p.applyBytes sz old (s1.core.va b))).noteWrites [.scr k sa] lab
      decide ((d = 0 ∨ x.canIntern l = true)) && (decide (Fits (x.resultA d (signExtendBytes sz old) l)) && (true))))))))))))))) ∧
    (let h := plain; let d := (31 : Fin 32); let a := (5 : Fin 32); let b := (6 : Fin 32); let p := AtOp.add; let z := true; goes (.aamo h d a b p z) .a h (withA live [(5, 0x20000000)]) fun s1 => decide (((fun s => s.core.aReady [a, b] = true ∧ AReady s (labA s a) ∧ (2 ^ 29 ≤ (s.core.va a).toNat ∨ 393216 ≤ (s.core.va a).toNat % 2 ^ 19))) s1)) ∧
    (let h := plain; let d := (31 : Fin 32); let a := (5 : Fin 32); let b := (6 : Fin 32); let p := AtOp.add; let z := true; goes (.aamo h d a b p z) .a h (withA live [(5, 393216)]) fun s1 => decide (((fun s => s.core.aReady [a, b] = true ∧ AReady s (labA s a) ∧ (2 ^ 29 ≤ (s.core.va a).toNat ∨ 393216 ≤ (s.core.va a).toNat % 2 ^ 19))) s1)) ∧
    (let h := plain; let d := (31 : Fin 32); let a := (5 : Fin 32); let b := (6 : Fin 32); let p := AtOp.add; let z := true; let k := 0; goes (.aamo h d a b p z) .a h (withA live [(5, 4)]) fun s1 => decide (((fun s => s.core.aReady [a, b] = true ∧ AReady s (labA s a) ∧ (s.core.va a).toNat < 2 ^ 29 ∧ (s.core.va a).toNat % 2 ^ 19 < 393216 ∧
      (viaA s (labA s a)).launchCore ((s.core.va a).toNat / 2 ^ 19) = some k ∧ (s.core.va a).toNat % 2 ^ 19 % (if z then 8 else 4) ≠ 0)) s1)) := by
  decide +kernel

theorem witness_VectorElementwiseWordsPendTheirResult :
    (let h := plain; let d := (⟨1, .c⟩ : VOp); let a := (⟨2, .c⟩ : VOp); let b := (⟨31, .d⟩ : VOp); let x := (3 : Fin 4); goes (.vadd h d a b x) .v h (live) fun s1 => decide (IxReady s1 [d.view, a.view, b.view] x ∧ CanPend (viaIx s1 [d.view, a.view, b.view] x) d.r ((viaIx s1 [d.view, a.view, b.view] x).vLab [a.r, b.r]) (d.view == .w))) ∧
    (let h := plain; let d := (⟨1, .c⟩ : VOp); let a := (⟨2, .c⟩ : VOp); let b := (⟨31, .d⟩ : VOp); let x := (3 : Fin 4); goes (.vsub h d a b x) .v h (live) fun s1 => decide (IxReady s1 [d.view, a.view, b.view] x ∧ CanPend (viaIx s1 [d.view, a.view, b.view] x) d.r ((viaIx s1 [d.view, a.view, b.view] x).vLab [a.r, b.r]) (d.view == .w))) ∧
    (let h := plain; let d := (⟨1, .c⟩ : VOp); let a := (⟨2, .c⟩ : VOp); let b := (⟨31, .d⟩ : VOp); let x := (3 : Fin 4); goes (.vmul h d a b x) .v h (live) fun s1 => decide (IxReady s1 [d.view, a.view, b.view] x ∧ CanPend (viaIx s1 [d.view, a.view, b.view] x) d.r ((viaIx s1 [d.view, a.view, b.view] x).vLab [a.r, b.r]) (d.view == .w))) ∧
    (let h := plain; let d := (⟨1, .c⟩ : VOp); let a := (⟨2, .c⟩ : VOp); let b := (⟨31, .d⟩ : VOp); let x := (3 : Fin 4); goes (.vmin h d a b x) .v h (live) fun s1 => decide (IxReady s1 [d.view, a.view, b.view] x ∧ CanPend (viaIx s1 [d.view, a.view, b.view] x) d.r ((viaIx s1 [d.view, a.view, b.view] x).vLab [a.r, b.r]) (d.view == .w))) ∧
    (let h := plain; let d := (⟨1, .c⟩ : VOp); let a := (⟨2, .c⟩ : VOp); let b := (⟨31, .d⟩ : VOp); let x := (3 : Fin 4); goes (.vmax h d a b x) .v h (live) fun s1 => decide (IxReady s1 [d.view, a.view, b.view] x ∧ CanPend (viaIx s1 [d.view, a.view, b.view] x) d.r ((viaIx s1 [d.view, a.view, b.view] x).vLab [a.r, b.r]) (d.view == .w))) ∧
    (let h := plain; let d := (⟨1, .c⟩ : VOp); let a := (⟨2, .c⟩ : VOp); let b := (⟨31, .d⟩ : VOp); let x := (3 : Fin 4); goes (.vand h d a b x) .v h (live) fun s1 => decide (IxReady s1 [d.view, a.view, b.view] x ∧ CanPend (viaIx s1 [d.view, a.view, b.view] x) d.r ((viaIx s1 [d.view, a.view, b.view] x).vLab [a.r, b.r]) (d.view == .w))) ∧
    (let h := plain; let d := (⟨1, .c⟩ : VOp); let a := (⟨2, .c⟩ : VOp); let b := (⟨31, .d⟩ : VOp); let x := (3 : Fin 4); goes (.vor h d a b x) .v h (live) fun s1 => decide (IxReady s1 [d.view, a.view, b.view] x ∧ CanPend (viaIx s1 [d.view, a.view, b.view] x) d.r ((viaIx s1 [d.view, a.view, b.view] x).vLab [a.r, b.r]) (d.view == .w))) ∧
    (let h := plain; let d := (⟨1, .c⟩ : VOp); let a := (⟨2, .c⟩ : VOp); let b := (⟨31, .d⟩ : VOp); let x := (3 : Fin 4); goes (.vxor h d a b x) .v h (live) fun s1 => decide (IxReady s1 [d.view, a.view, b.view] x ∧ CanPend (viaIx s1 [d.view, a.view, b.view] x) d.r ((viaIx s1 [d.view, a.view, b.view] x).vLab [a.r, b.r]) (d.view == .w))) ∧
    (let h := plain; let d := (⟨1, .c⟩ : VOp); let a := (⟨2, .c⟩ : VOp); let b := (⟨31, .d⟩ : VOp); let x := (3 : Fin 4); goes (.vshl h d a b x) .v h (live) fun s1 => decide (IxReady s1 [d.view, a.view, b.view] x ∧ CanPend (viaIx s1 [d.view, a.view, b.view] x) d.r ((viaIx s1 [d.view, a.view, b.view] x).vLab [a.r, b.r]) (d.view == .w))) ∧
    (let h := plain; let d := (⟨1, .c⟩ : VOp); let a := (⟨2, .c⟩ : VOp); let b := (⟨31, .d⟩ : VOp); let x := (3 : Fin 4); goes (.vshr h d a b x) .v h (live) fun s1 => decide (IxReady s1 [d.view, a.view, b.view] x ∧ CanPend (viaIx s1 [d.view, a.view, b.view] x) d.r ((viaIx s1 [d.view, a.view, b.view] x).vLab [a.r, b.r]) (d.view == .w))) ∧
    (let h := plain; let d := (⟨1, .c⟩ : VOp); let a := (⟨2, .c⟩ : VOp); let x := (3 : Fin 4); goes (.vabs h d a x) .v h (live) fun s1 => decide (IxReady s1 [(d : VOp).view, a.view] x ∧ CanPend (viaIx s1 [(d : VOp).view, a.view] x) (d : VOp).r ((viaIx s1 [(d : VOp).view, a.view] x).vLab [a.r]) ((d : VOp).view == .w))) ∧
    (let h := plain; let d := (⟨1, .c⟩ : VOp); let a := (⟨2, .c⟩ : VOp); let x := (3 : Fin 4); goes (.vmov h d a x) .v h (live) fun s1 => decide (IxReady s1 [(d : VOp).view, a.view] x ∧ CanPend (viaIx s1 [(d : VOp).view, a.view] x) (d : VOp).r ((viaIx s1 [(d : VOp).view, a.view] x).vLab [a.r]) ((d : VOp).view == .w))) ∧
    (let h := plain; let d := (1 : Fin 32); let a := (⟨2, .c⟩ : VOp); let x := (3 : Fin 4); goes (.vbcr h d a x) .v h (live) fun s1 => decide (IxReady s1 [(⟨d, .w⟩ : VOp).view, a.view] x ∧ CanPend (viaIx s1 [(⟨d, .w⟩ : VOp).view, a.view] x) (⟨d, .w⟩ : VOp).r ((viaIx s1 [(⟨d, .w⟩ : VOp).view, a.view] x).vLab [a.r]) ((⟨d, .w⟩ : VOp).view == .w))) ∧
    (let h := plain; let d := (1 : Fin 32); let a := (⟨2, .r⟩ : VOp); let x := (3 : Fin 4); goes (.vbcc h d a x) .v h (live) fun s1 => decide (IxReady s1 [(⟨d, .w⟩ : VOp).view, a.view] x ∧ CanPend (viaIx s1 [(⟨d, .w⟩ : VOp).view, a.view] x) (⟨d, .w⟩ : VOp).r ((viaIx s1 [(⟨d, .w⟩ : VOp).view, a.view] x).vLab [a.r]) ((⟨d, .w⟩ : VOp).view == .w))) := by
  decide +kernel

theorem witness_VectorFusedAndConvertingWords :
    (goes (.vfma plain ⟨1, .w⟩ ⟨5, .w⟩ ⟨9, .w⟩ 3) .v plain live fun s1 =>
      let u := viaIx s1 [.w, .w, .w] 3
      let c := if u.core.threeInBank 1 5 9 then u.modCore fun k => { k with csr := { k.csr with bankstall := k.csr.bankstall + 1 }.joinLab .bankstall k.v.clab } else u
      decide (IxReady s1 [.w, .w, .w] 3 ∧ CanPend c 1 (c.vLab [5, 9, 1]) true)) ∧
    (goes (.vfma plain ⟨1, .c⟩ ⟨5, .w⟩ ⟨9, .w⟩ 3) .v plain live fun s1 =>
      let u := viaIx s1 [.c, .w, .w] 3
      let c := if u.core.threeInBank 1 5 9 then u.modCore fun k => { k with csr := { k.csr with bankstall := k.csr.bankstall + 1 }.joinLab .bankstall k.v.clab } else u
      decide (IxReady s1 [.c, .w, .w] 3 ∧ CanPend c 1 (c.vLab [5, 9, 1]) false)) ∧
    (let h := plain; let d := (⟨1, .c⟩ : VOp); let a := (⟨2, .c⟩ : VOp); let b := (⟨31, .d⟩ : VOp); let x := (3 : Fin 4); let vs := [d.view, a.view, b.view]
      let lab := fun (u : State) => Label.join (u.vLab [a.r, b.r]) u.core.cm.lab
      goes (.vsel h d a b x) .v h (live) fun s1 => decide (((fun s => IxReady s vs x ∧ CanPend (viaIx s vs x) d.r (lab (viaIx s vs x)) (d.view == .w && s.core.em.bits == BitVec.allOnes 1024))) s1)) ∧
    (let h := plain; let d := (1 : Fin 32); let i := (0x80 : BitVec 8); goes (.vmovImm h d i) .v h (live) fun s1 => decide (CanPend s1 d (s1.vLab ([] : List (Fin 32))) (s1.core.em.bits == BitVec.allOnes 1024))) ∧
    (let h := plain; let d := (1 : Fin 32); let i := (0x1FC : BitVec 9); goes (.viota h d i) .v h (live) fun s1 => decide (CanPend s1 d (s1.vLab ([] : List (Fin 32))) (s1.core.em.bits == BitVec.allOnes 1024))) ∧
    (let h := plain; let d := (1 : Fin 32); let a := (2 : Fin 32); let t := VTy.bf16; let u := VTy.i8; let n := Rnd.rtz; let q := true; goes (.vcvt h d a t u n q) .v h (live) fun s1 => decide (CanPend s1 d (s1.vLab [a]) (s1.core.em.bits == BitVec.allOnes 1024))) ∧
    (let h := plain; let d := (1 : Fin 32); let a := (2 : Fin 32); let f := Sfu.tanh; goes (.vsfu h d a f) .v h (live) fun s1 => decide (CanPend s1 d (s1.vLab [a]) (s1.core.em.bits == BitVec.allOnes 1024))) ∧
    (let h := plain; let d := (1 : Fin 32); let a := (2 : Fin 32); let b := (3 : Fin 32); let m := Scheme.mom2; goes (.vdqnt h d a b m) .v h (live) fun s1 => decide (CanPend s1 d (s1.vLab [a, b]) (s1.core.em.bits == BitVec.allOnes 1024))) := by
  decide +kernel

theorem witness_VectorPermutesAndReductions :
    (goes (.vrotr plain 1 2 63) .v plain live fun s1 => decide (CanPend s1 1 (s1.vLab [2]) true ∧ CanPend s1 1 (s1.vLab [2]) false)) ∧
    (goes (.vrotc plain 1 2 15) .v plain live fun s1 => decide (CanPend s1 1 (s1.vLab [2]) true ∧ CanPend s1 1 (s1.vLab [2]) false)) ∧
    (goes (.vtrn plain 1 2) .v plain live fun s1 => decide (CanPend s1 1 (s1.vLab [2]) true ∧ CanPend s1 1 (s1.vLab [2]) false)) ∧
    (goes (.vredr plain 1 2 .min) .v plain live fun s1 => decide (CanPend s1 1 (s1.vLab [2]) true ∧ CanPend s1 1 (s1.vLab [2]) false)) ∧
    (goes (.vredc plain 1 2 .add) .v plain live fun s1 => decide (CanPend s1 1 (s1.vLab [2]) true ∧ CanPend s1 1 (s1.vLab [2]) false)) ∧
    (goes (.vtopk plain 30 2 64) .v plain live fun s1 => decide (CanPend s1 30 (s1.vLab [2]) true ∧ CanPend s1 31 (s1.vLab [2]) false)) ∧
    (goes (.vqnt plain 1 2 3 .fp4) .v plain live fun s1 => decide (CanPend s1 1 (s1.vLab [2]) true ∧ CanPend s1 3 (s1.vLab [2]) false)) ∧
    (goes (.vqnt plain 1 2 3 .mom1) .v plain live fun s1 => decide (CanPend s1 1 (s1.vLab [2]) true ∧ CanPend s1 3 (s1.vLab [2]) false)) := by
  decide +kernel

theorem witness_VectorComparesAndMasks :
    (let h := plain; let c := VCond.ge; let a := (⟨2, .c⟩ : VOp); let b := (⟨31, .d⟩ : VOp); let x := (3 : Fin 4); let s : State := live; goes (.vcmp h c a b x) .v h s fun s1 => decide (IxReady s1 [a.view, b.view] x) && (let u := viaIx s1 [a.view, b.view] x
      let n := u.core.ixVal x
      decide (u.canIntern (u.vLab [a.r, b.r]) = true) && (decide ((u.intern (u.vLab [a.r, b.r])).canIntern (Label.join u.core.cm.lab (u.vLab [a.r, b.r])) = true) && (decide (Fits s1) && (true))))) ∧
    (let h := plain; goes (.vmask h .push) .v h ((live.modCore fun k => { k with mstack := List.replicate 7 ⟨1, 0⟩ })) fun s1 => decide (((fun s => s.core.mstack.length < 8)) s1)) ∧
    (goes (.vmask plain .pop) .v plain (live.modCore fun k => { k with mstack := List.replicate 1 ⟨1, 0⟩ }) fun s1 => decide (s1.core.mstack ≠ [] ∧ s1.canIntern (Label.join 0 (s1.clab .v)) = true)) ∧
    (goes (.vmask plain .setem) .v plain (live.modCore fun k => { k with mstack := List.replicate 1 ⟨1, 0⟩ }) fun s1 => decide (s1.core.mstack ≠ [] ∧ s1.canIntern (Label.join 0 (s1.clab .v)) = true)) ∧
    (goes (.vmask plain .and) .v plain (live.modCore fun k => { k with mstack := List.replicate 1 ⟨1, 0⟩ }) fun s1 => decide (s1.core.mstack ≠ [] ∧ s1.canIntern (Label.join 0 (s1.clab .v)) = true)) ∧
    (goes (.vmask plain .or) .v plain (live.modCore fun k => { k with mstack := List.replicate 1 ⟨1, 0⟩ }) fun s1 => decide (s1.core.mstack ≠ [] ∧ s1.canIntern (Label.join 0 (s1.clab .v)) = true)) ∧
    (goes (.vmask plain .andn) .v plain (live.modCore fun k => { k with mstack := List.replicate 1 ⟨1, 0⟩ }) fun s1 => decide (s1.core.mstack ≠ [] ∧ s1.canIntern (Label.join 0 (s1.clab .v)) = true)) ∧
    (goes (.vmask plain .not) .v plain (live.modCore fun k => { k with mstack := List.replicate 1 ⟨1, 0⟩ }) fun s1 => decide (s1.core.mstack ≠ [] ∧ s1.canIntern (Label.join 0 (s1.clab .v)) = true)) ∧
    (goes (.vmask plain .all) .v plain (live.modCore fun k => { k with mstack := List.replicate 1 ⟨1, 0⟩ }) fun s1 => decide (s1.core.mstack ≠ [] ∧ s1.canIntern (Label.join 0 (s1.clab .v)) = true)) ∧
    (let h := plain; goes (.vmask h .push) .v h ((live.modCore fun k => { k with mstack := List.replicate 8 ⟨1, 0⟩ })) fun s1 => decide (((fun s => 8 ≤ s.core.mstack.length)) s1)) ∧
    (let h := plain; goes (.vmask h .pop) .v h (live) fun s1 => decide (((fun s => s.core.mstack = [])) s1)) := by
  decide +kernel

theorem witness_VectorScratchpadWordsStartLandings :
    (goes (.vld plain 31 3 7 0) .v plain (live.modCore fun k => { k with p := k.p.set 3 (389120, 0) }) fun s1 => decide (s1.canIntern (Label.join (s1.clab .v) s1.core.p[(3 : Fin 4)].2) = true) &&
      let u := s1.raised .v s1.core.p[(3 : Fin 4)].2
      decide (s1.core.p[(3 : Fin 4)].1 + 4096 ≤ 393216 ∧ (vtMty s1.core.csr.vtype).bytes = 4 ∧ s1.core.lt[(7 : Fin 8)] < 15 ∧ CanLand u (s1.core.vphys 31) (u.vLab []) true) &&
        (s1.core.scrPoison s1.core.p[(3 : Fin 4)].1 4096).isNone) ∧
    (goes (.vst plain 31 3 7 0) .v plain (live.modCore fun k => { k with p := k.p.set 3 (389120, 0), em := ⟨1#1024, 0⟩ }) fun s1 => decide (s1.canIntern (Label.join (s1.clab .v) s1.core.p[(3 : Fin 4)].2) = true ∧ s1.core.p[(3 : Fin 4)].1 + 4096 ≤ 393216 ∧
        s1.core.lt[(7 : Fin 8)] < 15) && (let u := s1.raised .v s1.core.p[(3 : Fin 4)].2; u.canIntern (u.vLab [31])) && (s1.core.locsAllow ((s1.raised .v s1.core.p[(3 : Fin 4)].2).vLab [31]) ((s1.raised .v s1.core.p[(3 : Fin 4)].2).vstBytes 31 389120)).isNone) ∧
    (goes (.vamo plain 31 3 7 .min 255) .v plain (live.modCore fun k => { k with p := k.p.set 3 (372800, 0) }) fun s1 => decide (s1.canIntern (Label.join (s1.clab .v) s1.core.p[(3 : Fin 4)].2) = true ∧ s1.core.p[(3 : Fin 4)].1 + 64 * 255 + 4096 ≤ 393216 ∧
        s1.core.segsAllow 0 (s1.core.p[(3 : Fin 4)].1 + 64 * 255) 4096 = true ∧ s1.core.lt[(7 : Fin 8)] < 15) && (s1.core.scrPoison (s1.core.p[(3 : Fin 4)].1 + 64 * 255) 4096).isNone &&
      (let u := s1.raised .v s1.core.p[(3 : Fin 4)].2; u.canIntern (u.vLab [31]) && decide (CanLand (u.intern (u.vLab [31])) (s1.core.vphys 31) (Label.join (u.vLab [31]) (s1.core.segsLabel (s1.core.p[(3 : Fin 4)].1 + 64 * 255) 4096)) true))) ∧
    (let h := plain; let d := (31 : Fin 32); let p := (3 : Fin 4); let l := (7 : Fin 8); let o : Fin 2048 := (1 : Fin 2048); goes (.vld h d p l o) .v h ((live.modCore fun k => { k with p := k.p.set 3 (389120, 0) })) fun s1 => decide (((fun s => s.canIntern (Label.join (s.clab .v) s.core.p[p].2) = true ∧ 393216 < s.core.p[p].1 + 64 * o.val + 1024 * (vtMty s.core.csr.vtype).bytes)) s1)) ∧
    (let h := plain; let d := (31 : Fin 32); let p := (3 : Fin 4); let l := (7 : Fin 8); let o := VAmoOp.add; let f : Fin 256 := (1 : Fin 256); goes (.vamo h d p l o f) .v h ((live.modCore fun k => { k with p := k.p.set 3 (389120, 0) })) fun s1 => decide (((fun s => s.canIntern (Label.join (s.clab .v) s.core.p[p].2) = true ∧ 393216 < s.core.p[p].1 + 64 * f.val + 4096)) s1)) := by
  decide +kernel

theorem witness_VectorRingWordsStartLandings :
    (goes (.vpop plain ⟨1, .r⟩ 15 .f32 3 7) .v plain (withRings live (aRing 2 2 0)) fun s1 =>
      let u := viaIx s1 [.r] 3
      let g := s1.core.ring 15
      let slot := g.freed.toNat + s1.core.popsDue 15
      decide (IxReady s1 [.r] 3 ∧ g.waitable = true ∧ 64 * 4 ≤ g.slotSize ∧ s1.core.lt[(7 : Fin 8)] < 15 ∧ s1.core.popsDue 15 < g.ready ∧
        u.canIntern (Label.join (u.clab .v) (g.slotLabel slot)) = true) && (s1.core.scrPoison (g.slotAddr slot) 256).isNone &&
      decide (CanLand (u.raised .v (g.slotLabel slot)) (s1.core.vphys 1) ((u.raised .v (g.slotLabel slot)).vLab []) false)) ∧
    (goes (.vpush plain ⟨1, .r⟩ 15 .f32 3 7) .v plain (withRings live (aRing 3 2 0)) fun s1 =>
      let u := viaIx s1 [.r] 3
      let g := s1.core.ring 15
      let lab := Label.join (u.clab .v) (s1.core.vreg 1).lab
      decide (IxReady s1 [.r] 3 ∧ g.claimable = true ∧ 64 * 4 ≤ g.slotSize ∧ u.bindingOk 15 = true ∧ s1.core.lt[(7 : Fin 8)] < 15 ∧ g.used + 1 ≤ g.count ∧
        u.publishOk 15 g.claimed.toNat 1 lab = true ∧ u.canIntern lab = true)) ∧
    (let h := plain; let d := (⟨1, .r⟩ : VOp); let r : Fin 16 := (15 : Fin 16); let ty := VTy.f32; let x := (3 : Fin 4); let l := (7 : Fin 8); goes (.vpop h d r ty x l) .v h (live) fun s1 => decide (((fun s => IxReady s [d.view] x ∧ ((s.core.ring r).waitable = false ∨
      (s.core.ring r).slotSize < (viewOrder d.view (s.core.ixVal x)).length * ty.bytes))) s1)) ∧
    (let h := plain; let d := (⟨1, .r⟩ : VOp); let r : Fin 16 := (15 : Fin 16); let ty := VTy.f32; let x := (3 : Fin 4); let l := (7 : Fin 8); goes (.vpush h d r ty x l) .v h (live) fun s1 => decide (((fun s => IxReady s [d.view] x ∧ ((s.core.ring r).claimable = false ∨
      (s.core.ring r).slotSize < (viewOrder d.view (s.core.ixVal x)).length * ty.bytes ∨ (viaIx s [d.view] x).bindingOk r = false))) s1)) ∧
    (let h := plain; let d := (⟨1, .r⟩ : VOp); let r : Fin 16 := (15 : Fin 16); let ty := VTy.f32; let x := (3 : Fin 4); let l := (7 : Fin 8); let s : State := withRings live (aRing 2 2 2); goes (.vpop h d r ty x l) .v h s fun s1 => decide (IxReady s1 [d.view] x) && (let g := s1.core.ring r
      decide (g.waitable = true) && (decide ((viewOrder d.view (s1.core.ixVal x)).length * ty.bytes ≤ g.slotSize) && (decide ((15 ≤ s1.core.lt[l] ∨ g.ready ≤ s1.core.popsDue r)) && (true))))) ∧
    (let h := plain; let d := (⟨1, .r⟩ : VOp); let r : Fin 16 := (15 : Fin 16); let ty := VTy.f32; let x := (3 : Fin 4); let l := (7 : Fin 8); let s : State := withRings (live.modCore fun k => { k with lt := k.lt.set 7 15 }) (aRing 2 2 0); goes (.vpop h d r ty x l) .v h s fun s1 => decide (IxReady s1 [d.view] x) && (let g := s1.core.ring r
      decide (g.waitable = true) && (decide ((viewOrder d.view (s1.core.ixVal x)).length * ty.bytes ≤ g.slotSize) && (decide ((15 ≤ s1.core.lt[l] ∨ g.ready ≤ s1.core.popsDue r)) && (true))))) ∧
    (let h := plain; let d := (⟨1, .r⟩ : VOp); let r : Fin 16 := (15 : Fin 16); let ty := VTy.f32; let x := (3 : Fin 4); let l := (7 : Fin 8); let s : State := withRings live (aRing 4 2 0); goes (.vpush h d r ty x l) .v h s fun s1 => decide (IxReady s1 [d.view] x) && (let g := s1.core.ring r
      decide (g.claimable = true) && (decide ((viewOrder d.view (s1.core.ixVal x)).length * ty.bytes ≤ g.slotSize) && (decide ((viaIx s1 [d.view] x).bindingOk r = true) && (decide ((15 ≤ s1.core.lt[l] ∨ g.count < g.used + 1)) && (true)))))) ∧
    (let h := plain; let d := (⟨1, .r⟩ : VOp); let r : Fin 16 := (15 : Fin 16); let ty := VTy.f32; let x := (3 : Fin 4); let l := (7 : Fin 8); let s : State := withRings (live.modCore fun k => { k with lt := k.lt.set 7 15 }) (aRing 3 2 0); goes (.vpush h d r ty x l) .v h s fun s1 => decide (IxReady s1 [d.view] x) && (let g := s1.core.ring r
      decide (g.claimable = true) && (decide ((viewOrder d.view (s1.core.ixVal x)).length * ty.bytes ≤ g.slotSize) && (decide ((viaIx s1 [d.view] x).bindingOk r = true) && (decide ((15 ≤ s1.core.lt[l] ∨ g.count < g.used + 1)) && (true)))))) := by
  decide +kernel

theorem witness_VectorQueueTypeAndPointerWords :
    (goes (.vcqpop plain 31) .v plain (live.modCore fun k => { k with cqV := [⟨393215, 0⟩, ⟨8, 0⟩] }) fun s1 => cons s1.core.cqV fun e r => decide (s1.canIntern (Label.join (s1.clab .v) e.lab) = true) &&
      let u := (s1.raised .v e.lab).modCore fun k => { k with cqV := r }
      decide (CanPend u 31 (u.vLab []) true)) ∧
    (let h := plain; let z := true; let ty := VTy.n8; let n := Rnd.rdn; let u := true; let e := true; goes (.vsett h z ty n u e) .v h (live) fun s1 => decide (((fun s => s.canIntern (Label.join (s.core.csr.labOf .vtype) (s.clab .v)) = true)) s1)) ∧
    (let h := plain; let g := (3 : Fin 4); let v := (0xFFFF : BitVec 17); goes (.vsetix h false false g v) .v h (live) fun s1 => decide (((fun _ => True)) s1)) ∧
    (let h := plain; let g := (3 : Fin 4); let v : BitVec 17 := (6143 : BitVec 17); goes (.vsetix h true false g v) .v h (live) fun s1 => decide (((fun _ => True)) s1)) ∧
    (let h := plain; let g := (3 : Fin 4); let v := (0 : BitVec 17); let e := (⟨393215, 0⟩ : LW); let r := ([⟨8, 0⟩] : List LW); goes (.vsetix h false true g v) .v h ((live.modCore fun k => { k with cqV := [⟨393215, 0⟩, ⟨8, 0⟩] })) fun s1 => decide (((fun s => s.core.cqV = e :: r ∧ s.canIntern (Label.join (s.clab .v) e.lab) = true)) s1)) ∧
    (let h := plain; let g := (3 : Fin 4); let v := (0 : BitVec 17); let e := (⟨393215, 0⟩ : LW); let r := ([⟨8, 0⟩] : List LW); goes (.vsetix h true true g v) .v h ((live.modCore fun k => { k with cqV := [⟨393215, 0⟩, ⟨8, 0⟩] })) fun s1 => decide (((fun s => s.core.cqV = e :: r ∧ s.canIntern (Label.join (s.clab .v) e.lab) = true ∧ e.val.toNat / 64 * 64 ≤ 393152)) s1)) ∧
    (let h := plain; let m : BitVec 8 := (0xFF : BitVec 8); goes (.vwaitl h m) .v h (live) fun s1 => decide (((fun s => ∀ (t : Fin 8), m.getLsbD t = true → s.core.lt[t] = 0)) s1)) ∧
    (let h := plain; let d := (31 : Fin 32); goes (.vcqpop h d) .v h (withStrm live .c fun t => { t with ended := true }) fun s1 => decide (((fun s => s.core.cqV = [] ∧ s.core.c.ended = true)) s1)) := by
  decide +kernel

theorem witness_VectorLoopWords :
    (goes (.vloop plain 63 7 3) .v plain (live.modCore fun k => { k with ix := k.ix.set 3 (0xFFFF, 0) }) fun s1 => decide (s1.core.loop = none ∧ s1.core.again = none ∧
      s1.canIntern (Label.join (s1.clab .v) s1.core.ix[(3 : Fin 4)].2) = true ∧ 0 < s1.core.ix[(3 : Fin 4)].1.toNat)) ∧
    (goes (.vloop plain 63 7 3) .v plain live fun s1 => decide (s1.core.loop = none ∧ s1.core.again = none ∧
      s1.canIntern (Label.join (s1.clab .v) s1.core.ix[(3 : Fin 4)].2) = true ∧ s1.core.ix[(3 : Fin 4)].1.toNat = 0)) ∧
    ((fun (s : State) => (decide (Unhindered (.vloop plain 63 7 3) { s with core := { s.core with loop := none } } .v) && s.core.inBody && !s.core.inert && has s.core.loop fun l => decide (l.stages ≤ 7) : Bool)) (live.modCore fun k => { k with loop := some ⟨0x1000, 4, 7, 3, 0, 0, 3, 0⟩, csr := { k.csr with act := 1 } })) ∧
    ((fun (s : State) => (decide (Unhindered (.vstg plain 7) { s with core := { s.core with loop := none } } .v) && s.core.inBody && !s.core.inert && has s.core.loop fun l => decide (l.stages ≤ 7) : Bool)) (live.modCore fun k => { k with loop := some ⟨0x1000, 4, 7, 3, 0, 0, 3, 0⟩, csr := { k.csr with act := 1 } })) ∧
    (let h := plain; let g := (7 : Fin 8); goes (.vstg h g) .v h (live) fun s1 => decide (((fun s => ∀ l ∈ s.core.loop.toList, l.inside s.core.v.pc = false)) s1)) ∧
    (goes (.vstg plain 2) .v plain (live.modCore fun k => { k with loop := some ⟨0x1000, 4, 7, 3, 0, 0, 3, 0⟩, csr := { k.csr with act := 1 } }) fun s1 => has s1.core.loop fun l => l.inside s1.core.v.pc && decide (2 < l.stages)) := by
  decide +kernel

theorem witness_VmrdReadsAccumulatorRows :
    (goes (.vmrd plain ⟨1, .w⟩ true 80 true 0) .v plain live fun s1 => decide (IxReady s1 [.w] 0 ∧ s1.core.vrows = [] ∧ 80 + 16 ≤ (s1.core.plane true).wm ∧
      CanPend (viaIx s1 [.w] 0) 1 (Label.join ((viaIx s1 [.w] 0).vLab []) (s1.core.plane true).lab) true)) ∧
    (goes (.vmrd plain ⟨1, .r⟩ true 95 false 3) .v plain live fun s1 => decide (IxReady s1 [.r] 3 ∧ s1.core.vrows = [] ∧ 95 + 1 ≤ (s1.core.plane true).wm ∧
      CanPend (viaIx s1 [.r] 3) 1 (Label.join ((viaIx s1 [.r] 3).vLab []) (s1.core.plane true).lab) false)) ∧
    (let h := plain; let d := (⟨1, .r⟩ : VOp); let p := true; let r : Fin 128 := (95 : Fin 128); let c := true; let x := (3 : Fin 4); let s : State := (live.modCore fun k => { k with plane1 := { Plane.reset with wm := 95 } }); goes (.vmrd h d p r c x) .v h s fun s1 => decide (IxReady s1 [d.view] x) && (decide (s1.core.vrows = []) && (decide ((s1.core.plane p).wm ≤ r.val) && (true)))) := by
  decide +kernel

theorem witness_MatrixCommandsEnterTheFifo :
    (let h := plain; let p := true; let a := (1 : Fin 16); let b := (2 : Fin 16); let c := (15 : Fin 16); let l := true; let z := true; let t := true; goes (.mma h p a b c l z t) .m h ((matrix.modCore fun k => { k with fifo := List.replicate 15 aCmd })) fun s1 => decide ((Accepts) s1)) ∧
    (let h := plain; let p := true; let a := (1 : Fin 16); let b := (2 : Fin 16); let c := (15 : Fin 16); let z := true; let t := true; goes (.mmas h p a b c z t) .m h ((matrix.modCore fun k => { k with fifo := List.replicate 15 aCmd })) fun s1 => decide ((Accepts) s1)) ∧
    (let h := plain; let n := (7 : Fin 8); let p := true; goes (.mdrainMem h n p) .m h ((matrix.modCore fun k => { k with fifo := List.replicate 15 aCmd })) fun s1 => decide ((Accepts) s1)) ∧
    (let h := plain; let p := true; let c := (15 : Fin 16); goes (.mdrainRing h p c) .m h ((matrix.modCore fun k => { k with fifo := List.replicate 15 aCmd })) fun s1 => decide ((Accepts) s1)) ∧
    (let h := plain; let n := (7 : Fin 8); let p := true; let l := true; let z := true; let t := true; goes (.mgo h n p l z t) .m h ((matrix.modCore fun k => { k with fifo := List.replicate 15 aCmd })) fun s1 => decide (((fun s => (s.core.slotBusy n = false ∧ s.core.stopAt = none) ∧ Accepts s ∧ s.core.shadow[n].ok = true)) s1)) ∧
    (let h := plain; let n := (7 : Fin 8); let p := true; let l := true; let z := true; let t := true; let i := 5; let d := true; goes (.mgo h n p l z t) .m h ((matrix.modCore fun k => { k with stopAt := some (7, 5, true) })) fun s1 => decide (((fun s => s.core.slotBusy n = false ∧ s.core.stopAt = some (n, i, d) ∧ Accepts s)) s1)) ∧
    (let h := plain; let n := (7 : Fin 8); let p := true; let l := true; let z := true; let t := true; goes (.mgo h n p l z t) .m h (live) fun s1 => decide (((fun s => (s.core.slotBusy n = false ∧ s.core.stopAt = none) ∧ Accepts s ∧ s.core.shadow[n].ok = false)) s1)) := by
  decide +kernel

theorem witness_MatrixWordsThatActAtIssue :
    (let h := plain; let p := PlSel.p0; goes (.mzero h p) .m h (live) fun s1 => decide (((fun s => s.core.fifo = [] ∧ s.core.mgo = none ∧ ∀ b ∈ planesOf p, s.core.planeFree b = true)) s1)) ∧
    (let h := plain; let p := PlSel.both; goes (.mzero h p) .m h (live) fun s1 => decide (((fun s => s.core.fifo = [] ∧ s.core.mgo = none ∧ ∀ b ∈ planesOf p, s.core.planeFree b = true)) s1)) ∧
    (let h := plain; goes (.mswap h) .m h (live) fun s1 => decide (((fun s => s.core.fifo = [] ∧ s.core.mgo = none ∧ s.core.run = none ∧ ∀ b, s.core.planeFree b = true)) s1)) ∧
    (let h := plain; let p := true; let r : Fin 256 := (96 : Fin 256); goes (.mwait h p r) .m h (live) fun s1 => decide (((fun s => r.val ≤ (s.core.plane p).wm ∧ s.canIntern (Label.join (s.clab .m) (s.core.plane p).lab) = true)) s1)) ∧
    (let h := plain; let p := false; let r : Fin 256 := (0 : Fin 256); goes (.mwait h p r) .m h (running) fun s1 => decide (((fun s => r.val ≤ (s.core.plane p).wm ∧ s.canIntern (Label.join (s.clab .m) (s.core.plane p).lab) = true)) s1)) ∧
    (let h := plain; let s : State := live; goes (.mbar h) .m h s fun s1 => decide (s1.core.m.infl = []) && (decide (s1.core.m.posted = []) && (true))) ∧
    (let h := plain; let n := (7 : Fin 8); let x := true; goes (.mcfg h n x) .m h ((matrix.modCore fun k => { k with plane1 := { k.plane1 with dirty := true } })) fun s1 => decide (((fun s => s.core.m.infl = [] ∧ s.core.shadow[n].shapeOk = true ∧ (x = true ∨ s.core.plane0.dirty = false ∧ s.core.plane1.dirty = false))) s1)) ∧
    (let h := plain; let n := (7 : Fin 8); let x := false; goes (.mcfg h n x) .m h (matrix) fun s1 => decide (((fun s => s.core.m.infl = [] ∧ s.core.shadow[n].shapeOk = true ∧ (x = true ∨ s.core.plane0.dirty = false ∧ s.core.plane1.dirty = false))) s1)) ∧
    (let h := plain; let n := (7 : Fin 8); goes (.mcfg h n false) .m h (running) fun s1 => decide (((fun s => s.core.m.infl = [] ∧ s.core.plane0.dirty = true)) s1)) ∧
    (let h := plain; let n := (7 : Fin 8); goes (.mcfg h n false) .m h ((matrix.modCore fun k => { k with plane1 := { k.plane1 with dirty := true } })) fun s1 => decide (((fun s => s.core.m.infl = [] ∧ s.core.plane0.dirty = false ∧ s.core.plane1.dirty = true)) s1)) ∧
    (let h := plain; let n := (7 : Fin 8); goes (.mcfg h n false) .m h (live) fun s1 => decide (((fun s => s.core.m.infl = [] ∧ s.core.plane0.dirty = false ∧ s.core.plane1.dirty = false ∧ s.core.shadow[n].shapeOk = false)) s1)) ∧
    (decide (live.core.m.infl = [] ∧ live.core.shadow[(7 : Fin 8)].shapeOk = false) && (goes (.mcfg plain 7 true) .m plain live fun _ => true) && goes (.mcfg plain 7 true) .m plain live.mcfgClear fun s1 => decide (s1.core.m.infl = [])) := by
  decide +kernel

theorem witness_MweltCutsTheArray :
    (goes (.mwelt plain 7) .m plain matrix fun s1 => s1.flight.isNone &&
      let w := s1.weltNone
      let save := (s1.core.shadow[(7 : Fin 8)].wide 14).toNat
      got (s1.imagePieces w.xlab (pageRuns save 0x100 ++ pageRuns (save + 0x300) 0x100)) fun _ _ => true) ∧
    (goes (.mwelt plain 7) .m plain (running) fun s1 => has s1.flight fun y => let s2 := y.1; let r := y.2; r.cutReady &&
      let x := s2.evenOut r
      let w := x.1.weltOf x.2 false x.2.due
      got (x.1.imagePieces (Label.join w.plab w.xlab) (pageRuns (s1.core.shadow[(7 : Fin 8)].wide 14).toNat (weltSize w.m w.n))) fun _ _ => true) ∧
    (goes (.mwelt plain 7) .m plain (running.modCore fun k => { k with run := some { aRun with due := some ⟨0, 0, 1, 0x48, 0x1000, 0⟩, entered := 1, ops := [⟨0, false, .ring 1 0, 1, [], [[.wait]]⟩, ⟨1, false, .ring 2 0, 1, [], [[.val 3]]⟩] } }) fun s1 => has s1.flight fun y => !y.2.cutReady) ∧
    (goes (.mwelt plain 7) .m plain (matrix.modCore fun k => { k with shadow := Vector.replicate 8 { aNest with f := aNest.f.set 50 0x800000000000 } }) fun s1 => s1.flight.isNone &&
      let save := (s1.core.shadow[(7 : Fin 8)].wide 14).toNat
      match s1.imagePieces s1.weltNone.xlab (pageRuns save 0x100 ++ pageRuns (save + 0x300) 0x100) with | .error (.trap _ _ _) => true | _ => false) := by
  decide +kernel

set_option maxRecDepth 20000 in
theorem witness_MrstrResumesTheImage :
    (goes (.mrstr plain 7) .m plain ({ matrix with mem := [(0x200001, 1)] }) fun s1 => decide (s1.core.m.infl = []) &&
      let save := s1.core.shadow[(7 : Fin 8)].wide 14
      let l0 := Label.join (s1.clab .m) s1.core.shadow[(7 : Fin 8)].lab
      got3 (s1.readImage l0 save 0x800) fun s2 hd _ => weltHeadOk hd &&
      got3 (s2.readImage l0 save (weltSize (fieldAt hd 6 1) (fieldAt hd 7 1))) fun s3 bs fl =>
        let w := Welt.read bs
        w.mapOk && decide (w.fmts.length + s3.core.fmtq.length ≤ 16 ∧ w.kind = 0 ∧ (w.kind ≠ 0 → s3.core.weltCmds w = true) ∧ (s3.core.plane w.plane).dirty = false) &&
          match s3.needAll fl [Label.clear0 w.plab, Label.clear0 w.xlab] with
          | .ok s4 => s4.canIntern (Label.joins [Label.clear0 w.plab, Label.clear0 w.xlab, fl, s4.clab .m])
          | .error _ => false) ∧
    (goes (.mrstr plain 7) .m plain ({ matrix with mem := imageCells }) fun s1 => decide (s1.core.m.infl = []) &&
      let save := s1.core.shadow[(7 : Fin 8)].wide 14
      let l0 := Label.join (s1.clab .m) s1.core.shadow[(7 : Fin 8)].lab
      got3 (s1.readImage l0 save 0x800) fun s2 hd _ => weltHeadOk hd &&
      got3 (s2.readImage l0 save (weltSize (fieldAt hd 6 1) (fieldAt hd 7 1))) fun s3 bs fl =>
        let w := Welt.read bs
        w.mapOk && decide (w.fmts.length + s3.core.fmtq.length ≤ 16 ∧ w.kind = 1 ∧ (w.kind ≠ 0 → s3.core.weltCmds w = true) ∧ (s3.core.plane w.plane).dirty = false) &&
          match s3.needAll fl [Label.clear0 w.plab, Label.clear0 w.xlab] with
          | .ok s4 => s4.canIntern (Label.joins [Label.clear0 w.plab, Label.clear0 w.xlab, fl, s4.clab .m])
          | .error _ => false) ∧
    (goes (.mrstr plain 7) .m plain (withStrm matrix .m fun t => { t with infl := [⟨0, 0, false, [], [], [], false, none, none⟩] }) fun s1 => decide (s1.core.m.infl ≠ [])) := by
  decide +kernel

set_option maxRecDepth 20000 in
theorem witness_MrstrRefusesABadImage :
    (goes (.mrstr plain 7) .m plain matrix fun s1 => decide (s1.core.m.infl = [] ∧ matrix.olderMay .m = false) &&
      got3 (s1.readImage (Label.join (s1.clab .m) s1.core.shadow[(7 : Fin 8)].lab) (s1.core.shadow[(7 : Fin 8)].wide 14) 0x800) fun _ hd _ => !weltHeadOk hd) ∧
    (goes (.mrstr plain 7) .m plain ((State.modCore ({ matrix with mem := memPut (memPut imageCells 0x20000C [1]) 0x200300 [64, 68] }) fun k => { k with fmtq := List.replicate 16 intWord })) fun s1 => decide (s1.core.m.infl = []) &&
      let save := s1.core.shadow[(7 : Fin 8)].wide 14
      let l0 := Label.join (s1.clab .m) s1.core.shadow[(7 : Fin 8)].lab
      got3 (s1.readImage l0 save 0x800) fun s2 hd _ => weltHeadOk hd &&
      got3 (s2.readImage l0 save (weltSize (fieldAt hd 6 1) (fieldAt hd 7 1))) fun s3 bs fl =>
        let w := Welt.read bs
        decide (16 < w.fmts.length + s3.core.fmtq.length)) ∧
    (goes (.mrstr plain 7) .m plain (State.modCore ({ matrix with mem := imageCells }) fun k => { k with plane0 := { k.plane0 with dirty := true } }) fun s1 => decide (s1.core.m.infl = []) &&
      let save := s1.core.shadow[(7 : Fin 8)].wide 14
      let l0 := Label.join (s1.clab .m) s1.core.shadow[(7 : Fin 8)].lab
      got3 (s1.readImage l0 save 0x800) fun s2 hd _ => weltHeadOk hd &&
      got3 (s2.readImage l0 save (weltSize (fieldAt hd 6 1) (fieldAt hd 7 1))) fun s3 bs fl =>
        let w := Welt.read bs
        w.mapOk && decide (w.fmts.length + s3.core.fmtq.length ≤ 16 ∧ (w.kind ≠ 0 → s3.core.weltCmds w = true) ∧ (s3.core.plane w.plane).dirty = true)) := by
  decide +kernel

theorem witness_HeadLoadsWriteTheirRegister :
    (atCore 0 ((withStrm (live) .c fun t => { t with lq := [(⟨3, 3, .load ([(0, .mem 0x201FFC, false), (0, .mem 0x201FFD, false)] : List (Nat × Loc × Bool)) [none, none] (.x 63 0), some .dv⟩ : LEnt)] })) fun f => let e : LEnt := (⟨3, 3, .load ([(0, .mem 0x201FFC, false), (0, .mem 0x201FFD, false)] : List (Nat × Loc × Bool)) [none, none] (.x 63 0), some .dv⟩ : LEnt); decide (HeadLoad f .c e) && (f.strm .c).refused.isEmpty && let need := ([(0, .mem 0x201FFC, false), (0, .mem 0x201FFD, false)] : List (Nat × Loc × Bool)); (need.all fun x => decide (pageKey x.1 = pageKey 0)) && e.farNeed.isEmpty && (f.badNeed .c e).isNone && f.canIntern (Label.join 0 (arrivalLab f e)) && f.mayRead .c e.seq (need.map fun x => x.2.1)) ∧
    (atCore 0 ((withStrm ({ live with poison := [lineOf 0x201FFC] }) .c fun t => { t with lq := [(⟨3, 3, .load ([(0, .mem 0x201FFC, false), (0, .mem 0x201FFD, false)] : List (Nat × Loc × Bool)) [none, none] (.x 63 0), some .dv⟩ : LEnt)] })) fun f => let e : LEnt := (⟨3, 3, .load ([(0, .mem 0x201FFC, false), (0, .mem 0x201FFD, false)] : List (Nat × Loc × Bool)) [none, none] (.x 63 0), some .dv⟩ : LEnt); decide (HeadLoad f .c e) && (f.strm .c).refused.isEmpty && e.farNeed.isEmpty && (f.badNeed .c e).isSome) := by
  decide +kernel

theorem witness_LcwaitPerformsAtTheHead :
    (atCore 0 ((withStrm ({ live with lqueues := [⟨0x200000, some 9, []⟩], core := { live.core with lace := { Lace.reset with st := .submitted, tiles := [⟨0, 0x200000, false, 0⟩], num := 9 } } }) .c fun t => { t with lq := [⟨3, 3, .lcwait, some .dv⟩] })) fun f => let e : LEnt := ⟨3, 3, .lcwait, some .dv⟩; decide (HeadLoad f .c e) && (f.strm .c).refused.isEmpty && f.core.lace.tiles.all fun t => f.holds t.pa f.core.lace.num) ∧
    (atCore 0 ((withStrm ({ live with lqueues := [⟨0x200000, some 8, [9]⟩], core := { live.core with lace := { Lace.reset with st := .submitted, tiles := [⟨0, 0x200000, false, 0⟩], num := 9 } } }) .c fun t => { t with lq := [⟨3, 3, .lcwait, some .dv⟩] })) fun f => let e : LEnt := ⟨3, 3, .lcwait, some .dv⟩; decide (HeadLoad f .c e) && (f.strm .c).refused.isEmpty && f.core.lace.tiles.any fun t => !f.holds t.pa f.core.lace.num) := by
  decide +kernel

theorem witness_HeadStoresWriteTheirBytes :
    (atCore 0 ((withStrm (live) .c fun t => { t with sq := [(⟨3, 3, .store ([(.mem 0x201FFC, 1), (.mem 0x201FFD, 2), (.scr 0 5, 3)] : List (Loc × Byte)) true false none [], 0, 0x1FFC, [], none⟩ : SEnt)] })) fun f => let e := (⟨3, 3, .store ([(.mem 0x201FFC, 1), (.mem 0x201FFD, 2), (.scr 0 5, 3)] : List (Loc × Byte)) true false none [], 0, 0x1FFC, [], none⟩ : SEnt); let b := ([(.mem 0x201FFC, 1), (.mem 0x201FFD, 2), (.scr 0 5, 3)] : List (Loc × Byte)); decide (Sound f ∧ HeadStore f .c e ∧ farBytes b = []) && (f.strm .c).clearOf e.seq b && ((none : Option Scope).all fun sc => (f.strm .c).mayRelease e.seq sc) && (f.strm .c).refused.isEmpty && !(b.filter fun x => !([] : List Loc).contains x.1).isEmpty) ∧
    (atCore 0 ((withStrm (live) .c fun t => { t with sq := [(⟨3, 3, .store ([(.mem 0x201FFC, 1), (.mem 0x201FFD, 2), (.scr 0 5, 3)] : List (Loc × Byte)) true false (some .dv) [], 0, 0x1FFC, [], none⟩ : SEnt)] })) fun f => let e := (⟨3, 3, .store ([(.mem 0x201FFC, 1), (.mem 0x201FFD, 2), (.scr 0 5, 3)] : List (Loc × Byte)) true false (some .dv) [], 0, 0x1FFC, [], none⟩ : SEnt); let b := ([(.mem 0x201FFC, 1), (.mem 0x201FFD, 2), (.scr 0 5, 3)] : List (Loc × Byte)); decide (Sound f ∧ HeadStore f .c e ∧ farBytes b = []) && (f.strm .c).clearOf e.seq b && (((some .dv) : Option Scope).all fun sc => (f.strm .c).mayRelease e.seq sc) && (f.strm .c).refused.isEmpty && !(b.filter fun x => !([] : List Loc).contains x.1).isEmpty) ∧
    (atCore 0 ((withStrm (live) .c fun t => { t with sq := [(⟨3, 3, .store ([(.mem 0x201FFC, 1), (.mem 0x201FFD, 2), (.scr 0 5, 3)] : List (Loc × Byte)) true false none [.mem 0x201FFC], 0, 0x1FFC, [], none⟩ : SEnt)] })) fun f => let e := (⟨3, 3, .store ([(.mem 0x201FFC, 1), (.mem 0x201FFD, 2), (.scr 0 5, 3)] : List (Loc × Byte)) true false none [.mem 0x201FFC], 0, 0x1FFC, [], none⟩ : SEnt); let b := ([(.mem 0x201FFC, 1), (.mem 0x201FFD, 2), (.scr 0 5, 3)] : List (Loc × Byte)); decide (Sound f ∧ HeadStore f .c e ∧ farBytes b = []) && (f.strm .c).clearOf e.seq b && ((none : Option Scope).all fun sc => (f.strm .c).mayRelease e.seq sc) && (f.strm .c).refused.isEmpty && !(b.filter fun x => !([.mem 0x201FFC] : List Loc).contains x.1).isEmpty) := by
  decide +kernel

theorem witness_HeadAtomicsReadAndWrite :
    (atCore 0 ((withStrm (live) .c fun t => { t with sq := [(⟨3, 3, .atomic (.amo (.mem 0x201FF8) 4 (some .add) 1 2 63 0 .dv 0x1FF8), 0, 0x1FFC, [], none⟩ : SEnt)], lq := [⟨3, 3, .atomic, some .dv⟩] })) fun f => let e := (⟨3, 3, .atomic (.amo (.mem 0x201FF8) 4 (some .add) 1 2 63 0 .dv 0x1FF8), 0, 0x1FFC, [], none⟩ : SEnt); decide (Sound f ∧ HeadStore f .c e ∧ f.core.c.refused = []) && f.core.c.atomReady e && f.core.c.mayRelease 3 .dv &&
      f.mayAct .c 3 ((List.range 4).map fun i => .mem (0x201FF8 + i)) && !f.poison.contains (lineOf 0x201FF8) && f.canIntern (Label.join 0 (f.readLab 0x201FF8)) && (List.range 4).all fun i => paClass (0x201FF8 + i) == 0) ∧
    (atCore 0 ((withStrm (live) .c fun t => { t with sq := [(⟨3, 3, .atomic (.amo (.mem 0x201FF8) 8 none 1 2 63 0 .dv 0x1FF8), 0, 0x1FFC, [], none⟩ : SEnt)], lq := [⟨3, 3, .atomic, some .dv⟩] })) fun f => let e := (⟨3, 3, .atomic (.amo (.mem 0x201FF8) 8 none 1 2 63 0 .dv 0x1FF8), 0, 0x1FFC, [], none⟩ : SEnt); decide (Sound f ∧ HeadStore f .c e ∧ f.core.c.refused = []) && f.core.c.atomReady e && f.core.c.mayRelease 3 .dv &&
      f.mayAct .c 3 ((List.range 8).map fun i => .mem (0x201FF8 + i)) && !f.poison.contains (lineOf 0x201FF8) && f.canIntern (Label.join 0 (f.readLab 0x201FF8)) && (List.range 8).all fun i => paClass (0x201FF8 + i) == 0) := by
  decide +kernel

theorem witness_MarkersLeaveTheQueues :
    (atCore 0 ((withStrm (live) .a fun t => { t with lq := [(⟨3, 3, .fence .fl .dv, none⟩ : LEnt)], sq := [⟨3, 3, .fence .fl .dv, 0, 0, [], none⟩] })) fun f => let ms := (f.strm .a).lq.filter isMarker; has ms[7 % ms.length]? fun e => e.kind == .fence .fl .dv && !(f.strm .a).loadHeld e.seq && (f.strm .a).fenceReady e.seq .fl .dv && (f.strm .a).refused.isEmpty) ∧
    (atCore 0 ((withStrm (live) .a fun t => { t with lq := [(⟨3, 3, .fence .rl .co, none⟩ : LEnt)], sq := [⟨3, 3, .fence .rl .co, 0, 0, [], none⟩] })) fun f => let ms := (f.strm .a).lq.filter isMarker; has ms[7 % ms.length]? fun e => e.kind == .fence .rl .co && !(f.strm .a).loadHeld e.seq && (f.strm .a).fenceReady e.seq .rl .co && (f.strm .a).refused.isEmpty) ∧
    (atCore 0 ((withStrm (live) .a fun t => { t with lq := [(⟨3, 3, .fence .aq .sy, none⟩ : LEnt)], sq := [⟨3, 3, .fence .aq .sy, 0, 0, [], none⟩] })) fun f => let ms := (f.strm .a).lq.filter isMarker; has ms[7 % ms.length]? fun e => e.kind == .fence .aq .sy && !(f.strm .a).loadHeld e.seq && (f.strm .a).fenceReady e.seq .aq .sy && (f.strm .a).refused.isEmpty) ∧
    (atCore 0 ((withStrm (live) .c fun t => { t with lq := [(⟨3, 3, .qalign, none⟩ : LEnt)], sq := [⟨3, 3, .qalign, 0, 0, [], none⟩] })) fun f => let ms := (f.strm .c).lq.filter isMarker; has ms[0 % ms.length]? fun e => e.kind == .qalign && (f.strm .c).olderBoth e.seq && !(f.strm .c).loadHeld e.seq) := by
  decide +kernel

theorem witness_WordFetchReadsTheWord :
    ((fun (f : State) => (!f.fetchIdle .c && got3 (f.translate .fetch (f.pc .c) (.fetch .c)) fun s' pa _ => (match s'.fetchCheck (f.pc .c) pa with | .ok _ => true | .error _ => false) && decide (decode s'.core.dispatch .c (s'.codeAt pa) = .ok (.add plain 4 4 5)) : Bool)) (((((live.withFetchWord 32 0x008820A0)).focus 0).retireAll .c).modCore fun k => { k with cur := .c })) := by
  decide +kernel

theorem witness_RetiringWordsSignal :
    ((fun (s : State) => (!s.inReset && cons (((s.focus 0).core).strm .c).infl fun w r => w.done && (r.all fun v => !v.done) && w.sigs == [1] && w.route.isNone && !(s.strm .a).ended : Bool)) ((withStrm (live.modCore fun k => { k with tok := k.tok.set 1 14 }) .c fun t => { t with infl := [⟨3, 0x1000, true, [1], [], [], false, none, none⟩, ⟨4, 0x1004, false, [], [], [], false, none, none⟩] }))) ∧
    ((fun (s : State) => (!s.inReset && cons (((s.focus 0).core).strm .c).infl fun w r => w.done && (r.all fun v => !v.done) && w.sigs == [1] && w.route.isNone : Bool)) ((withStrm (live.modCore fun k => { k with tok := k.tok.set 1 15 }) .c fun t => { t with infl := [⟨3, 0x1000, true, [1], [], [], false, none, none⟩, ⟨4, 0x1004, false, [], [], [], false, none, none⟩] }))) ∧
    ((fun (s : State) => (!s.inReset && cons (((s.focus 0).core).strm .c).infl fun w r => w.done && (r.all fun v => !v.done) && w.sigs == [1] && w.route.isNone && (s.strm .a).ended : Bool)) ((withStrm (withStrm (live.modCore fun k => { k with tok := k.tok.set 1 3 }) .c fun t => { t with infl := [⟨3, 0x1000, true, [1], [], [], false, none, none⟩, ⟨4, 0x1004, false, [], [], [], false, none, none⟩] }) .a fun t => { t with ended := true }))) ∧
    ((fun (s : State) => (!s.inReset && cons (((s.focus 0).core).strm .c).infl fun w r => w.done && (r.all fun v => !v.done) && w.sigs.isEmpty && w.route.isSome : Bool)) ((withStrm (live.modCore fun k => { k with tok := k.tok.set 1 14 }) .c fun t => { t with infl := [⟨3, 0x1000, true, [], [], [], false, some (4, 1), none⟩, ⟨4, 0x1004, false, [], [], [], false, none, none⟩] }))) := by
  decide +kernel

theorem witness_FixedLatencyWordsRetire :
    (atCore 0 ({ live with clk := 20, core := { live.core with v := { live.core.v with infl := [⟨3, 0, false, [], [], [], true, none, none⟩] }, vpend := [⟨2, 1, 0, Vector.replicate 1024 0, 0, 0, true, 3, 20⟩] } }) fun f => f.core.v.infl.any fun w => f.core.vpend.any fun p => p.id == w.id && decide (p.due ≤ f.clk)) ∧
    (atCore 0 ({ live with clk := 20, core := { live.core with v := { live.core.v with infl := [⟨3, 0, false, [], [], [], true, none, none⟩] }, vpend := [⟨2, 1, 0, Vector.replicate 1024 0, 0, 0, true, 3, 21⟩] } }) fun f => f.core.vpend.all fun p => decide (f.clk < p.due)) := by
  decide +kernel

theorem witness_LandingsWriteTheirRegister :
    (let c := 0; let n := 0; let l := (⟨3, .vld, 7, some 31, [1023, 0], BitVec.allOnes 1024, .f32, 0, none, 0, 0, false, some (List.replicate 8 1), []⟩ : Landing); let r := (31 : Fin 32); let f0 : State := (live.modCore fun k => { k with landings := [(⟨3, .vld, 7, some 31, [1023, 0], BitVec.allOnes 1024, .f32, 0, none, 0, 0, false, some (List.replicate 8 1), []⟩ : Landing)], lt := k.lt.set 7 1 }); held f0.viral f0.inReset (decide (((fun f => let ls := f.core.landings.filter f.canLand
      ls[n % ls.length]? = some l ∧ (l.kind = .vld ∨ l.kind = .vpop) ∧ l.reg = some r ∧ l.order.Nodup ∧ ∀ x ∈ l.order, x < 1024)) (f0.focus c)))) ∧
    (let c := 0; let n := 0; let l := (⟨3, .vpop, 7, some 31, [1023, 0], BitVec.allOnes 1024, .f32, 0, none, 0, 0, false, some (List.replicate 8 1), []⟩ : Landing); let r := (31 : Fin 32); let f0 : State := (live.modCore fun k => { k with landings := [(⟨3, .vpop, 7, some 31, [1023, 0], BitVec.allOnes 1024, .f32, 0, none, 0, 0, false, some (List.replicate 8 1), []⟩ : Landing)], lt := k.lt.set 7 1 }); held f0.viral f0.inReset (decide (((fun f => let ls := f.core.landings.filter f.canLand
      ls[n % ls.length]? = some l ∧ (l.kind = .vld ∨ l.kind = .vpop) ∧ l.reg = some r ∧ l.order.Nodup ∧ ∀ x ∈ l.order, x < 1024)) (f0.focus c)))) ∧
    (let c := 0; let n := 0; let l := (⟨3, .vst, 7, none, [1023, 0], BitVec.allOnes 1024, .f32, 0, none, 0, 0, false, none, []⟩ : Landing); let f0 : State := (live.modCore fun k => { k with landings := [(⟨3, .vst, 7, none, [1023, 0], BitVec.allOnes 1024, .f32, 0, none, 0, 0, false, none, []⟩ : Landing)], lt := k.lt.set 7 1 }); held f0.viral f0.inReset (decide (((fun f => let ls := f.core.landings.filter f.canLand
      ls[n % ls.length]? = some l ∧ (l.kind = .vst ∨ l.kind = .vpush))) (f0.focus c)))) := by
  decide +kernel

theorem witness_StitchedStreamsAreReleased :
    (let c := 0; let f0 : State := (withStrm (withStrm (live.modCore fun k => { k with csr := { k.csr with stitchset := 3 } }) .c fun t => { t with stitch := .waiting }) .a fun t => { t with stitch := .waiting }); held f0.viral f0.inReset (decide (((fun f => 2 ≤ f.core.stitchers.length ∧ (∀ st ∈ f.core.stitchers, (f.strm st).stitch = .waiting) ∧
      f.canIntern (Label.joins (f.core.stitchers.map f.clab)) = true)) (f0.focus c)))) := by
  decide +kernel

theorem witness_StandingRegionsTrap :
    (let c := 0; let st := Stream.c; let h := (⟨1, 0, 0x1000, false, none⟩ : HoldRegion); let f0 : State := { (withStrm (live) .c fun t => { t with hold := some (⟨1, 0, 0x1000, false, none⟩ : HoldRegion) }) with clk := 256 }; held f0.viral f0.inReset (decide (((fun f => (f.strm st).hold = some h ∧ 256 ≤ f.clk - h.start ∧ (f.strm st).barred = false ∧
      ¬(st = .c ∧ h.first = true ∧ f.core.lace.st = .submitted) ∧ f.olderMay st = false)) (f0.focus c)))) ∧
    (let c := 0; let st := Stream.a; let h := (⟨1, 0, 0x1000, false, none⟩ : HoldRegion); let f0 : State := { (withStrm (live) .a fun t => { t with hold := some (⟨1, 0, 0x1000, false, none⟩ : HoldRegion) }) with clk := 256 }; held f0.viral f0.inReset (decide (((fun f => (f.strm st).hold = some h ∧ 256 ≤ f.clk - h.start ∧ (f.strm st).barred = false ∧
      ¬(st = .c ∧ h.first = true ∧ f.core.lace.st = .submitted) ∧ f.olderMay st = false)) (f0.focus c)))) ∧
    (let c := 0; let st := Stream.v; let h := (⟨1, 0, 0x1000, false, none⟩ : HoldRegion); let f0 : State := { (withStrm (live) .v fun t => { t with hold := some (⟨1, 0, 0x1000, false, none⟩ : HoldRegion) }) with clk := 256 }; held f0.viral f0.inReset (decide (((fun f => (f.strm st).hold = some h ∧ 256 ≤ f.clk - h.start ∧ (f.strm st).barred = false ∧
      ¬(st = .c ∧ h.first = true ∧ f.core.lace.st = .submitted) ∧ f.olderMay st = false)) (f0.focus c)))) ∧
    (let c := 0; let st := Stream.m; let h := (⟨1, 0, 0x1000, false, none⟩ : HoldRegion); let f0 : State := { (withStrm (live) .m fun t => { t with hold := some (⟨1, 0, 0x1000, false, none⟩ : HoldRegion) }) with clk := 256 }; held f0.viral f0.inReset (decide (((fun f => (f.strm st).hold = some h ∧ 256 ≤ f.clk - h.start ∧ (f.strm st).barred = false ∧
      ¬(st = .c ∧ h.first = true ∧ f.core.lace.st = .submitted) ∧ f.olderMay st = false)) (f0.focus c)))) := by
  decide +kernel

theorem witness_FarStoresArePosted :
    (atCore 0 ((withStrm (live) .c fun t => { t with sq := [(⟨3, 3, .store ([(.mem (2 ^ 50 + 8), 1), (.mem (2 ^ 50 + 9), 2)] : List (Loc × Byte)) true false (some .sy) [], 0, 0x1FFC, [⟨2 ^ 50 + 8, 0x1FFC, 2⟩], none⟩ : SEnt)] })) fun f => let e := (⟨3, 3, .store ([(.mem (2 ^ 50 + 8), 1), (.mem (2 ^ 50 + 9), 2)] : List (Loc × Byte)) true false (some .sy) [], 0, 0x1FFC, [⟨2 ^ 50 + 8, 0x1FFC, 2⟩], none⟩ : SEnt); let b := ([(.mem (2 ^ 50 + 8), 1), (.mem (2 ^ 50 + 9), 2)] : List (Loc × Byte)); decide (HeadStore f .c e) && (b.any fun x => x.1.far && !([] : List Loc).contains x.1) && (f.strm .c).clearOf e.seq b && (f.strm .c).mayRelease e.seq .sy && (f.strm .c).refused.isEmpty) ∧
    (atCore 0 ((withStrm (live) .c fun t => { t with sq := [(⟨3, 3, .store ([(.mem 0x201FFF, 3), (.mem (2 ^ 50 + 9), 2)] : List (Loc × Byte)) true false (some .sy) [], 0, 0x1FFC, [⟨2 ^ 50 + 9, 0x1FFD, 1⟩], none⟩ : SEnt)] })) fun f => let e := (⟨3, 3, .store ([(.mem 0x201FFF, 3), (.mem (2 ^ 50 + 9), 2)] : List (Loc × Byte)) true false (some .sy) [], 0, 0x1FFC, [⟨2 ^ 50 + 9, 0x1FFD, 1⟩], none⟩ : SEnt); let b := ([(.mem 0x201FFF, 3), (.mem (2 ^ 50 + 9), 2)] : List (Loc × Byte)); decide (HeadStore f .c e) && (b.any fun x => x.1.far && !([] : List Loc).contains x.1) && (f.strm .c).clearOf e.seq b && (f.strm .c).mayRelease e.seq .sy && (f.strm .c).refused.isEmpty) ∧
    (atCore 0 ((withStrm (live) .c fun t => { t with sq := [(⟨3, 3, .store ([(.mem (3 * 2 ^ 50 + 9), 2)] : List (Loc × Byte)) true false (some .sy) [], 0, 0x1FFC, [⟨3 * 2 ^ 50 + 9, 0x1FFD, 1⟩], none⟩ : SEnt)] })) fun f => let e := (⟨3, 3, .store ([(.mem (3 * 2 ^ 50 + 9), 2)] : List (Loc × Byte)) true false (some .sy) [], 0, 0x1FFC, [⟨3 * 2 ^ 50 + 9, 0x1FFD, 1⟩], none⟩ : SEnt); let b := ([(.mem (3 * 2 ^ 50 + 9), 2)] : List (Loc × Byte)); decide (HeadStore f .c e) && (b.any fun x => x.1.far && !([] : List Loc).contains x.1) && (f.strm .c).clearOf e.seq b && (f.strm .c).mayRelease e.seq .sy && (f.strm .c).refused.isEmpty) := by
  decide +kernel

theorem witness_ClassingDecidesByLabel :
    (decide (Label.count (BitVec.ofNat 256 24) = 2 ∧ Label.count (Label.ofSlot 3) = 1 ∧ Label.count 0 = 0)) ∧
    (decide (∀ p ∈ live.policies, p.releases live.tstep (BitVec.ofNat 256 24) 1 0 8 1 = false)) ∧
    (({ live with policies := [⟨0, 1, BitVec.ofNat 256 24, 1, 0, 2 ^ 51, 100, 10, 0, false, []⟩] } : State).classify (BitVec.ofNat 256 24) 1 (2 ^ 50) 8 1 |>.isSome) := by
  decide +kernel

theorem witness_EgressReleasesOrRefuses :
    (atCore 0 ((posting (aPosted 0x8000000000008 0 false))) fun f => has (f.strm .c).posted[0]? fun (p : Posted) => let w := f.hwinOf (winOf p.first); !p.released && paClass p.first != 1) ∧
    (atCore 0 ((posting (aPosted 0x4000000000008 0 false))) fun f => has (f.strm .c).posted[0]? fun (p : Posted) => let w := f.hwinOf (winOf p.first); !p.released && paClass p.first == 1 && w.en && (f.classify p.lab w.func p.first p.bytes.length p.graph).isSome) ∧
    (atCore 0 ((posting (aPosted 0x4000000000008 (Label.ofSlot 3) false))) fun f => has (f.strm .c).posted[0]? fun (p : Posted) => let w := f.hwinOf (winOf p.first); !p.released && paClass p.first == 1 && w.en && (f.classify p.lab w.func p.first p.bytes.length p.graph).isSome) ∧
    (atCore 0 ((posting (aPosted 0x4000000000008 (Label.ofSlot 4) false))) fun f => has (f.strm .c).posted[0]? fun (p : Posted) => let w := f.hwinOf (winOf p.first); !p.released && paClass p.first == 1 && w.en && (f.classify p.lab w.func p.first p.bytes.length p.graph).isNone) ∧
    (atCore 0 ((posting (aPosted 0x4000100000000 0 false))) fun f => has (f.strm .c).posted[0]? fun (p : Posted) => let w := f.hwinOf (winOf p.first); !p.released && paClass p.first == 1 && !w.en) ∧
    (atCore 0 ((posting (aPosted 0x4000000000008 0 true))) fun f => (f.strm .c).posted[0]?.all fun (p : Posted) => p.released) := by
  decide +kernel

theorem witness_ReleasedWritesLand :
    (atCore 0 ((posting (aPosted 0x4000000000008 0 true))) fun f => has (f.strm .c).posted[0]? fun (p : Posted) => p.released && decide (Sound f) && (p.bytes.all fun b => !f.awaitsZero b.1) && ((f.strm .c).posted.all fun q => !decide (q.seq < p.seq) || q.bytes.all fun b => p.bytes.all fun x => x.1 != b.1) && (paClass p.first == 1)) ∧
    (atCore 0 ((posting (aPosted 0x8080000001000 0 true))) fun f => has (f.strm .c).posted[0]? fun (p : Posted) => p.released && decide (Sound f) && (p.bytes.all fun b => !f.awaitsZero b.1) && ((f.strm .c).posted.all fun q => !decide (q.seq < p.seq) || q.bytes.all fun b => p.bytes.all fun x => x.1 != b.1) && (paClass p.first == 2 && !f.ownPeer p.first && p.bytes.all fun b => Label.sub p.lab (f.peerLab b.1))) ∧
    (atCore 0 ((posting (aPosted 0x8080000001000 (Label.ofSlot 3) true))) fun f => has (f.strm .c).posted[0]? fun (p : Posted) => p.released && decide (Sound f) && (p.bytes.all fun b => !f.awaitsZero b.1) && ((f.strm .c).posted.all fun q => !decide (q.seq < p.seq) || q.bytes.all fun b => p.bytes.all fun x => x.1 != b.1) && (paClass p.first == 2 && !f.ownPeer p.first && p.bytes.any fun b => !Label.sub p.lab (f.peerLab b.1))) ∧
    (atCore 0 (({ (posting (aPosted 0x8060000001000 0 true)) with domain := some 3, members := [3, 4] } : State)) fun f => has (f.strm .c).posted[0]? fun (p : Posted) => p.released && decide (Sound f) && (p.bytes.all fun b => !f.awaitsZero b.1) && ((f.strm .c).posted.all fun q => !decide (q.seq < p.seq) || q.bytes.all fun b => p.bytes.all fun x => x.1 != b.1) && (paClass p.first == 2 && f.ownPeer p.first && f.framesAllow p.lab (p.bytes.map fun b => peerPa b.1))) ∧
    (atCore 0 (({ (posting (aPosted 0x8060000001000 (Label.ofSlot 3) true)) with domain := some 3, members := [3, 4] } : State)) fun f => has (f.strm .c).posted[0]? fun (p : Posted) => p.released && decide (Sound f) && (p.bytes.all fun b => !f.awaitsZero b.1) && ((f.strm .c).posted.all fun q => !decide (q.seq < p.seq) || q.bytes.all fun b => p.bytes.all fun x => x.1 != b.1) && (paClass p.first == 2 && f.ownPeer p.first && !f.framesAllow p.lab (p.bytes.map fun b => peerPa b.1))) ∧
    (atCore 0 ((posting ⟨3, 9, 0, (List.range 8).map fun n => (3 * 2 ^ 50 + 0x480 + n, 1), 0, 0, 1, 1, true, 0⟩)) fun f => has (f.strm .c).posted[0]? fun (p : Posted) => p.released && decide (Sound f) && (p.bytes.all fun b => !f.awaitsZero b.1) && ((f.strm .c).posted.all fun q => !decide (q.seq < p.seq) || q.bytes.all fun b => p.bytes.all fun x => x.1 != b.1) && (paClass p.first == 3 && p.bytes.length == 8 && p.first % 8 == 0)) ∧
    (atCore 0 ((posting (aPosted 0xc000000000480 0 true))) fun f => has (f.strm .c).posted[0]? fun (p : Posted) => p.released && decide (Sound f) && (p.bytes.all fun b => !f.awaitsZero b.1) && ((f.strm .c).posted.all fun q => !decide (q.seq < p.seq) || q.bytes.all fun b => p.bytes.all fun x => x.1 != b.1) && (paClass p.first == 3 && !(p.bytes.length == 8))) ∧
    (atCore 0 ((posting (aPosted 0x4000000000008 0 false))) fun f => (f.strm .c).posted[0]?.all fun (p : Posted) => !p.released) ∧
    (atCore 0 (({ (posting (aPosted 0x8060000001000 0 true)) with domain := some 3, members := [3, 4], tags := [⟨1, 0, none, true⟩] } : State)) fun f => (f.strm .c).posted[0]?.all fun (p : Posted) => p.released && p.bytes.any fun b => f.awaitsZero b.1) := by
  decide +kernel

theorem witness_InboundRequestsAreClassed :
    (serve ({ live with tags := [⟨1, Label.ofSlot 3, none, false⟩, ⟨2, Label.ofSlot 3, none, true⟩] }) fun s => let o : Origin := .func 1; let bs : List Byte := [1, 2]; let pa : Nat := 0x1FFF; (match o with | .func f => !s.tdiError f | _ => true) && decide (Sound s) && s.rangeOk pa 2 && s.framesAllow (originLabel s o).1 ((List.range bs.length).map (pa + ·)) && (s.tagOf 0x2000).zeroing) ∧
    (serve (live) fun s => let o : Origin := .outsider 3; let bs : List Byte := [1]; let pa : Nat := 2 ^ 41; (match o with | .func f => !s.tdiError f | _ => true) && !s.rangeOk pa 1) ∧
    (serve (live) fun s => let o : Origin := .func 1; let bs : List Byte := [1]; let pa : Nat := 2 ^ 41; (match o with | .func f => !s.tdiError f | _ => true) && !s.rangeOk pa 1) ∧
    (serve (live) fun s => let o : Origin := .func 1; let bs : List Byte := [1, 2]; let pa : Nat := 0x1FFF; (match o with | .func f => !s.tdiError f | _ => true) && s.rangeOk pa 2 && !s.framesAllow (originLabel s o).1 ((List.range bs.length).map (pa + ·))) ∧
    (serve (live) fun s => let o : Origin := .domain 0; let bs : List Byte := []; let pa : Nat := 0; (match o with | .func f => !s.tdiError f | _ => true) && bs.isEmpty) ∧
    (serve { live with tdi := [(1, .error)] } fun s => s.tdiError 1) ∧
    (serve ({ live with tags := [⟨1, Label.ofSlot 3, none, false⟩, ⟨2, Label.ofSlot 3, none, true⟩] }) fun s => !s.tdiError 1 && s.rangeOk 0x1FFF 2 && (let z := s.zeroFirst 0x1FFF 2; Label.joins (((List.range 2).map fun i => frameOf (0x1FFF + i)).dedup.map fun f => z.frameLab (4096 * f)) == s.funcLab 1)) ∧
    (serve ({ live with tags := [⟨1, Label.ofSlot 3, none, false⟩, ⟨2, Label.ofSlot 3, none, true⟩] }) fun s => !s.tdiError 2 && s.rangeOk 0x1FFF 2 && (let z := s.zeroFirst 0x1FFF 2; let lab := Label.joins (((List.range 2).map fun i => frameOf (0x1FFF + i)).dedup.map fun f => z.frameLab (4096 * f)); lab != 0 && lab != s.funcLab 2)) ∧
    (serve live fun s => s.tdiError 1 == false && !s.rangeOk (2 ^ 41) 1) := by
  decide +kernel

theorem witness_CopiesComeAndGo :
    (decide ((live.coreOf 0).id = 0 ∧ (live.coreOf 5).id = 5)) ∧
    ((fun (f : State) => (f.core.pref.contains 5 && !f.lineTorn 5 && homeDie (5 * 64) == coreDie f.core.id : Bool)) (State.focus (live.modCore fun k => { k with pref := [5] }) 0)) ∧
    ((fun (f : State) => (f.core.pref.contains 0x500000041 && !f.lineTorn 0x500000041 && homeDie (0x500000041 * 64) != coreDie f.core.id : Bool)) (State.focus (live.modCore fun k => { k with pref := [0x500000041] }) 0)) ∧
    ((fun (f : State) => (f.core.pref.contains 5 && f.lineTorn 5 : Bool)) (State.focus (live.modCore fun k => { k with pref := [5], c := { k.c with sq := [⟨3, 3, .store [(.mem 320, 1), (.mem 321, 2)] true false none [.mem 320], 0, 0x1FFC, [], none⟩] } }) 0)) := by
  decide +kernel

theorem witness_AdUpdatesTouchTablesAlone :
    (atCore 0 (live) fun f => got3 (f.translate .c 0x1FFF .rdwr) fun _ _ _ => true) ∧
    (atCore 0 (live.withFetchWord 32 0) fun f => got3 (f.translate .fetch 0x1000 (.fetch .c)) fun _ _ _ => true) ∧
    (atCore 0 (({ live with poison := [lineOf 0x1000] } : State)) fun f => match f.translate .c 0x800000 .read with | .error (.poisoned _) => true | _ => false) ∧
    (atCore 0 (live) fun f => match f.translate .c 0x800000 .read with | .error (.fault _) => true | _ => false) := by
  decide +kernel

theorem witness_RingMessagesReachThePeer :
    (atCore 0 (({ withRings live ({ aRing 2 1 0 with peer := 2 ^ 15 + 2 * 2 ^ 10 + 9, publishes := [(3, 1, 0), (4, 1, 0)], credits := [1] }) with others := [(7, { runCore 7 with task := some { aTask with lcore := 9 }, rings := Vector.replicate 16 (aRing 1 0 0) })] } : State)) fun f => let g := f.core.ring 15; !g.publishes.isEmpty && has (f.launchCore g.peerCore) fun p => decide (p ≠ f.core.id ∧ (f.coreOf p).id = p) && ((f.coreOf p).ring g.peerRing).mayPublish 1) ∧
    (atCore 0 (({ withRings live ({ aRing 2 1 0 with peer := 2 ^ 15 + 2 * 2 ^ 10 + 9, publishes := [(3, 1, 0), (4, 1, 0)], credits := [1] }) with others := [(7, { runCore 7 with task := some { aTask with lcore := 9 }, rings := Vector.replicate 16 (aRing 0 0 0) })] } : State)) fun f => let g := f.core.ring 15; !g.publishes.isEmpty && has (f.launchCore g.peerCore) fun p => decide (p ≠ f.core.id ∧ (f.coreOf p).id = p) && !((f.coreOf p).ring g.peerRing).mayPublish 1) ∧
    (atCore 0 (({ withRings live ({ aRing 2 1 0 with peer := 2 ^ 15 + 2 * 2 ^ 10 + 9, publishes := [(3, 1, 0), (4, 1, 0)], credits := [1] }) with others := [(7, { runCore 7 with task := some { aTask with lcore := 9 }, rings := Vector.replicate 16 (aRing 1 0 0) })] } : State)) fun f => let g := f.core.ring 15; !g.credits.isEmpty && has (f.launchCore g.peerCore) fun p => decide (p ≠ f.core.id ∧ (f.coreOf p).id = p) && true) := by
  decide +kernel

theorem witness_DaccEntriesPerform :
    ((fun (f : State) => (let q := (⟨.open_ 0, 3, 0x1FFC, [], 0, none⟩ : DaccReq); !f.viral && !f.inReset && decide (Sound f) && f.core.c.daccReady q && (f.daccCheck q).isNone : Bool)) ((State.modCore live fun k => { k with dacc := some (⟨.open_ 0, 3, 0x1FFC, [], 0, none⟩ : DaccReq) }))) ∧
    ((fun (f : State) => (let q := (⟨.add 0x3F800000 false, 3, 0x1FFC, [0x201FFC], 0, none⟩ : DaccReq); !f.viral && !f.inReset && decide (Sound f) && f.core.c.daccReady q && (f.daccCheck q).isNone : Bool)) ((State.modCore ({ live with regions := [⟨0, [(0x201FFC, Acc256.zero)]⟩] } : State) fun k => { k with dacc := some (⟨.add 0x3F800000 false, 3, 0x1FFC, [0x201FFC], 0, none⟩ : DaccReq) }))) ∧
    ((fun (f : State) => (let q := (⟨.add 0x3F8000003F800000 true, 3, 0x1FFC, [0x201FFC], 0, none⟩ : DaccReq); !f.viral && !f.inReset && decide (Sound f) && f.core.c.daccReady q && (f.daccCheck q).isNone : Bool)) ((State.modCore ({ live with regions := [⟨0, [(0x201FFC, Acc256.zero)]⟩] } : State) fun k => { k with dacc := some (⟨.add 0x3F8000003F800000 true, 3, 0x1FFC, [0x201FFC], 0, none⟩ : DaccReq) }))) ∧
    ((fun (f : State) => (let q := (⟨.read 63, 3, 0x1FFC, [0x201FFC], 0, none⟩ : DaccReq); !f.viral && !f.inReset && decide (Sound f) && f.core.c.daccReady q && (f.daccCheck q).isNone && f.canIntern (Label.join q.lab (q.tag.getD (f.frameLab (q.pas.headD 0)))) : Bool)) ((State.modCore ({ live with regions := [⟨0, [(0x201FFC, Acc256.zero)]⟩] } : State) fun k => { k with dacc := some (⟨.read 63, 3, 0x1FFC, [0x201FFC], 0, none⟩ : DaccReq) }))) ∧
    ((fun (f : State) => (let q := (⟨.close, 3, 0x1FFC, [0x201FFC], 0, none⟩ : DaccReq); !f.viral && !f.inReset && decide (Sound f) && f.core.c.daccReady q && (f.daccCheck q).isNone && has (f.regionAt (q.pas.headD 0)) fun g => g.words.all fun w => (List.range 4).all fun n => paClass (w.1 + n) == 0 : Bool)) ((State.modCore ({ live with regions := [⟨0, [(0x201FFC, Acc256.zero)]⟩] } : State) fun k => { k with dacc := some (⟨.close, 3, 0x1FFC, [0x201FFC], 0, none⟩ : DaccReq) }))) ∧
    ((fun (f : State) => (let q := (⟨.add 0 false, 3, 0x1FFC, [0x201FFC], 0, none⟩ : DaccReq); !f.viral && !f.inReset && decide (Sound f) && f.core.c.daccReady q && (f.daccCheck q).isSome : Bool)) ((State.modCore live fun k => { k with dacc := some (⟨.add 0 false, 3, 0x1FFC, [0x201FFC], 0, none⟩ : DaccReq) }))) := by
  decide +kernel

theorem witness_TilesStart :
    (atCore 0 ({ matrix with core := { matrix.core with fifo := [aCmd], fmtq := [intWord], cfg := TileCfg.reset } }) fun f => decide (NextTile f aCmd) && ((startOf f aCmd).tileCheck aCmd ((startOf f aCmd).tileFor aCmd)).isSome) ∧
    (atCore 0 ({ matrix with core := { matrix.core with fifo := [aCmd], fmtq := [] } }) fun f => decide (NextTile f aCmd) && let g := startOf f aCmd; (g.tileCheck aCmd (g.tileFor aCmd)).isNone && (g.core.drains.all fun d => d.plane != (g.tileFor aCmd).plane) && aCmd.again.isNone && g.core.headWord.isNone) ∧
    (atCore 0 ({ matrix with core := { matrix.core with fifo := [aCmd], fmtq := [⟨0xFFFF, 0⟩] } }) fun f => decide (TileReady f aCmd ⟨0xFFFF, 0⟩) && ((startOf f aCmd).core.tileFault ((startOf f aCmd).tileFor aCmd) 0xFFFF).isSome) ∧
    (atCore 0 ({ matrix with core := { matrix.core with fifo := [aCmd], fmtq := [intWord] } }) fun f => decide (TileReady f aCmd intWord) && let g := startOf f aCmd
      decide (g.core.tileFault (g.tileFor aCmd) (intWord : LW).val = none) &&
      match g.fetchOps (aCmd : Cmd).id (g.keptRows aCmd (intWord : LW).val) (opShapes (g.tileFor aCmd) (intWord : LW).val) (intWord : LW).lab with 
      | .ok x => let r := newRun aCmd (g.tileFor aCmd) intWord x.2.1 x.2.2; decide (SlotsThere x.1 r) && decide (x.1.labels.length + 2 < 4096)
      | .error _ => false) ∧
    (atCore 0 ({ matrix with core := { matrix.core with fifo := [aCmd], fmtq := [intWord], rings := Vector.replicate 16 (aRing 2 0 0) } }) fun f => decide (TileReady f aCmd intWord) && let g := startOf f aCmd
      decide (g.core.tileFault (g.tileFor aCmd) (intWord : LW).val = none) &&
      match g.fetchOps (aCmd : Cmd).id (g.keptRows aCmd (intWord : LW).val) (opShapes (g.tileFor aCmd) (intWord : LW).val) (intWord : LW).lab with 
      | .ok x => let r := newRun aCmd (g.tileFor aCmd) intWord x.2.1 x.2.2; !decide (SlotsThere x.1 r)
      | .error _ => false) ∧
    (atCore 0 ({ matrix with poison := [lineOf 0x1000], core := { matrix.core with fifo := [(⟨.mgo 0 false true true true, (wordOf (.mgo plain 0 false true true true)).setWidth 32, 4, 0x1000, 0, 0, false, none⟩ : Cmd)], fmtq := [intWord], active := Vector.replicate 8 { aNest with f := (aNest.f.set 36 0x800000).set 38 0x800000 } } }) fun f => decide (TileReady f (⟨.mgo 0 false true true true, (wordOf (.mgo plain 0 false true true true)).setWidth 32, 4, 0x1000, 0, 0, false, none⟩ : Cmd) intWord) && let g := startOf f (⟨.mgo 0 false true true true, (wordOf (.mgo plain 0 false true true true)).setWidth 32, 4, 0x1000, 0, 0, false, none⟩ : Cmd); decide (g.core.tileFault (g.tileFor (⟨.mgo 0 false true true true, (wordOf (.mgo plain 0 false true true true)).setWidth 32, 4, 0x1000, 0, 0, false, none⟩ : Cmd)) intWord.val = none) && match g.fetchOps 4 (g.keptRows (⟨.mgo 0 false true true true, (wordOf (.mgo plain 0 false true true true)).setWidth 32, 4, 0x1000, 0, 0, false, none⟩ : Cmd) intWord.val) (opShapes (g.tileFor (⟨.mgo 0 false true true true, (wordOf (.mgo plain 0 false true true true)).setWidth 32, 4, 0x1000, 0, 0, false, none⟩ : Cmd)) intWord.val) intWord.lab with | .ok _ => false | .error _ => true) ∧
    (atCore 0 ((matrix.modCore fun k => { k with run := some { aRun with began := false } })) fun f => has f.core.run fun r => !r.began && decide (SlotsThere f r) && decide (f.labels.length + 2 < 4096)) ∧
    (atCore 0 (running) fun f => has f.core.run fun r => r.began) ∧
    (atCore 0 ((matrix.modCore fun k => { k with run := some { aRun with began := false }, rings := Vector.replicate 16 (aRing 2 0 0) })) fun f => has f.core.run fun r => !r.began && !decide (SlotsThere f r)) ∧
    (atCore 0 ({ matrix with core := { matrix.core with fifo := [aCmd], fmtq := [intWord], drains := [⟨3, 0x0FFC, none, false, .ring 15, true, 0, [], 0, 0⟩] } }) fun f => decide (NextTile f aCmd) && let g := startOf f aCmd; (g.tileCheck aCmd (g.tileFor aCmd)).isNone && g.core.drains.any fun d => d.plane == (g.tileFor aCmd).plane) ∧
    (atCore 0 ({ matrix with core := { matrix.core with fifo := [aCmd], fmtq := [intWord], drains := [⟨3, 0x0FFC, none, false, .ring 15, false, 0, [], 0, 0⟩] } }) fun f => f.core.run.isNone && f.core.drains.any fun d => !d.began) ∧
    (atCore 0 (matrix) fun f => f.core.run.isNone && (f.core.drains.all fun d => d.began) && f.loadMgo.core.nextCmd.isNone) := by
  decide +kernel

theorem witness_TilesStep :
    (atCore 0 ((live.modCore fun k => { k with plane0 := { Plane.reset with fin := some 4, m := 96, wm := 94 } })) fun f => decide ((f.core.plane false).fin = some 4) && (false == false || f.core.plane0.fin.isNone)) ∧
    (atCore 0 ((live.modCore fun k => { k with plane1 := { Plane.reset with fin := some 4, m := 96, wm := 95 } })) fun f => decide ((f.core.plane true).fin = some 4) && (true == false || f.core.plane0.fin.isNone)) ∧
    (atCore 0 (running) fun f => has f.core.run fun r => f.core.plane0.fin.isNone && f.core.plane1.fin.isNone && r.began && !(r.due.isNone && decide (r.q ≤ r.entered)) && decide (r.entered < r.limit) && (r.entering r.entered).all fun v => match v with | .wait => false | .bad _ => false | _ => true) ∧
    (atCore 0 ((running.modCore fun k => { k with run := some { aRun with entered := 1 } })) fun f => has f.core.run fun r => f.core.plane0.fin.isNone && f.core.plane1.fin.isNone && r.began && r.due.isNone && decide (r.q ≤ r.entered)) ∧
    (atCore 0 ((running.modCore fun k => { k with run := some { aRun with due := some ⟨0, 0, 0, 0x48, 0x1000, 0⟩, stopA := [0] } })) fun f => has f.core.run fun r => f.core.plane0.fin.isNone && f.core.plane1.fin.isNone && r.began && !(r.due.isNone && decide (r.q ≤ r.entered)) && decide (r.limit ≤ r.entered)) ∧
    (atCore 0 ((running.modCore fun k => { k with run := some { aRun with ops := [⟨0, false, .ring 1 0, 1, [], [[.wait]]⟩, ⟨1, false, .ring 2 0, 1, [], [[.val 3]]⟩] } })) fun f => has f.core.run fun r => f.core.plane0.fin.isNone && f.core.plane1.fin.isNone && r.began && !(r.due.isNone && decide (r.q ≤ r.entered)) && (r.entering r.entered).contains OpVal.wait) ∧
    (atCore 0 ((running.modCore fun k => { k with run := some { aRun with ops := [⟨0, false, .ring 1 0, 1, [], [[.bad]]⟩, ⟨1, false, .ring 2 0, 1, [], [[.val 3]]⟩] } })) fun f => has f.core.run fun r => f.core.plane0.fin.isNone && f.core.plane1.fin.isNone && r.began && !(r.due.isNone && decide (r.q ≤ r.entered)) && decide (r.entered < r.limit) && !(r.entering r.entered).contains OpVal.wait && (r.entering r.entered).any fun v => match v with | .bad _ => true | _ => false) ∧
    (atCore 0 (matrix) fun f => f.core.plane0.fin.isNone && f.core.plane1.fin.isNone && f.core.run.isNone) ∧
    (decide (0 < aRun.t.m ∧ aRun.t.m ≤ 96 ∧ aRun.t.n ≤ 128 ∧ mClass (fwA aRun.fmt) = 2 ∧ aRun.t.sparse = none)) ∧
    (decide (mClass (fwA 0x0660) ≤ 1 ∨ mClass (fwA 0x0220) ≤ 1)) := by
  decide +kernel

theorem witness_DrainsReadFinalRows :
    (atCore 0 ((matrix.modCore fun k => { k with drains := [⟨4, 0x1000, none, false, .ring 15, true, 95, [], 0, 0⟩], plane0 := { Plane.reset with m := 96, n := 1, wm := 96 } })) fun f => has f.core.drains.head? fun d => d.began && decide (d.row < (f.core.plane d.plane).wm) && decide (d.dst = .ring 15)) ∧
    (atCore 0 ((matrix.modCore fun k => { k with drains := [⟨4, 0x1000, none, false, .ring 15, true, 0, [], 0, 0⟩], plane0 := { Plane.reset with m := 96, n := 1, wm := 1 } })) fun f => has f.core.drains.head? fun d => d.began && decide (d.row < (f.core.plane d.plane).wm) && decide (d.dst = .ring 15)) ∧
    (atCore 0 ((matrix.modCore fun k => { k with drains := [⟨4, 0x1000, none, false, .mem 0x1FF0 0x10 0, true, 0, [[⟨0x201FF0, 0x1FF0, 4⟩], [⟨0x202000, 0x2000, 4⟩]], 0, 0⟩], plane0 := { Plane.reset with m := 2, n := 1, wm := 2 } })) fun f => has f.core.drains.head? fun d => d.began && decide (d.row < (f.core.plane d.plane).wm) && decide (d.dst ≠ .ring 15)) ∧
    (atCore 0 ((matrix.modCore fun k => { k with drains := [⟨4, 0x1000, none, false, .mem 0x1FF0 0x10 0, true, 1, [[⟨0x201FF0, 0x1FF0, 4⟩], [⟨0x202000, 0x2000, 4⟩]], 0, 0⟩], plane0 := { Plane.reset with m := 2, n := 1, wm := 2 } })) fun f => has f.core.drains.head? fun d => d.began && decide (d.row < (f.core.plane d.plane).wm) && decide (d.dst ≠ .ring 15)) ∧
    (atCore 0 ((matrix.modCore fun k => { k with drains := [⟨4, 0x1000, none, false, .ring 15, true, 3, [], 0, 0⟩], plane0 := { Plane.reset with m := 96, n := 1, wm := 3 } })) fun f => has f.core.drains.head? fun d => d.began && decide ((f.core.plane d.plane).wm ≤ d.row)) ∧
    (atCore 0 ((matrix.modCore fun k => { k with drains := [⟨4, 0x1000, none, false, .mem 0x1FF0 0x10 0, false, 0, [], 0, 0⟩], plane0 := { Plane.reset with m := 2, n := 1, wm := 96 } })) fun f => has f.core.drains.head? fun d => !d.began && match f.beginDrain d with | .ok _ => true | .error _ => false) ∧
    (atCore 0 ((matrix.modCore fun k => { k with drains := [⟨4, 0x1000, none, false, .mem 0x1FF1 0x10 0, false, 0, [], 0, 0⟩], plane0 := { Plane.reset with m := 2, n := 1, wm := 96 } })) fun f => has f.core.drains.head? fun d => !d.began && match f.beginDrain d with | .error (.trap _ _ _) => true | _ => false) ∧
    (atCore 0 ({ (matrix.modCore fun k => { k with drains := [⟨4, 0x1000, none, false, .mem 0x800000 0x10 0, false, 0, [], 0, 0⟩], plane0 := { Plane.reset with m := 2, n := 1, wm := 96 } }) with poison := [lineOf 0x1000] }) fun f => has f.core.drains.head? fun d => !d.began && match f.beginDrain d with | .error (.viral _) => true | _ => false) ∧
    (atCore 0 ((matrix.modCore fun k => { k with drains := [⟨4, 0x1000, none, false, .ring 15, false, 0, [], 0, 0⟩], plane0 := { Plane.reset with m := 1, n := 1, wm := 96 }, rings := Vector.replicate 16 (aRing 4 2 0) })) fun f => has f.core.drains.head? fun d => !d.began && match f.beginDrain d with | .error .stall => true | _ => false) ∧
    ((fun (f : State) => (let rg := f.core.ring 15; let o := f.core.plane false; let lab := Label.join o.lab (f.clab .m)
      rg.claimable && decide (o.m * roundUp (o.n * o.oty.bytes) 64 ≤ rg.slotSize) && f.bindingOk 15 && f.publishOk 15 rg.claimed.toNat 1 lab && decide (rg.used < rg.count) && f.canIntern lab && rg.mode == 0 : Bool)) ((matrix.modCore fun k => { k with drains := [⟨4, 0x1000, none, false, .ring 15, false, 0, [], 0, 0⟩], plane0 := { Plane.reset with m := 1, n := 1, wm := 96 } }))) ∧
    (atCore 0 ({ matrix with core := { matrix.core with fifo := [{ aCmd with cmd := .drain true (.ring 15) }], fmtq := [intWord] } }) fun f => f.core.drains.isEmpty && f.core.mgo.isNone && f.core.run.isNone && has f.core.fifo.head? fun cm => (match cm.cmd with | .drain _ _ => true | _ => false) && (f.core.plane true).m == 0) ∧
    (atCore 0 ({ matrix with core := { matrix.core with fifo := [{ aCmd with cmd := .drain true (.ring 15) }], fmtq := [intWord], plane1 := { matrix.core.plane1 with m := 1, n := 1 } } }) fun f => f.core.drains.isEmpty && f.core.mgo.isNone && f.core.run.isNone && has f.core.fifo.head? fun cm => (match cm.cmd with | .drain _ _ => true | _ => false) && (f.core.plane true).m != 0) := by
  decide +kernel

theorem witness_FaultingTilesAreCut :
    (atCore 0 ((running.modCore fun k => { k with run := some { aRun with due := some ⟨0, 0, 1, 0x48, 0x1000, 0⟩, stopA := [0], entered := 0 } })) fun f => has f.core.run fun r => has r.due fun x => f.core.ragged.isNone && r.began && decide (r.limit ≤ r.entered) &&
      let m := f.modCore fun k => k.setRowProg r true
      let w := m.weltOf r true (some x)
      match m.imagePieces (Label.join w.plab w.xlab) (pageRuns r.t.save.toNat (weltSize r.t.m r.t.n)) with | .ok _ => true | .error _ => false) ∧
    (atCore 0 ((running.modCore fun k => { k with run := some { aRun with due := some ⟨0, 0, 1, 0x48, 0x1000, 0⟩, stopA := [0], entered := 0, t := { aRun.t with save := 0x800000000000 } } })) fun f => has f.core.run fun r => has r.due fun x => f.core.ragged.isNone && r.began && decide (r.limit ≤ r.entered) &&
      let m := f.modCore fun k => k.setRowProg r true
      let w := m.weltOf r true (some x)
      match m.imagePieces (Label.join w.plab w.xlab) (pageRuns r.t.save.toNat (weltSize r.t.m r.t.n)) with | .error (.trap _ _ _) => true | _ => false) ∧
    (atCore 0 (running) fun f => f.core.ragged.isNone && has f.core.run fun r => r.due.isNone) ∧
    (atCore 0 ((live.modCore fun k => { k with ragged := some ⟨4, 0x48, 0x1000, 0⟩ })) fun f => let b := f.modCore fun k => { k with ragged := none }; f.core.ragged.isSome && !b.wordOpen .m 4 && (b.settleWord .m 4).core.m.infl.isEmpty) ∧
    (atCore 0 ((live.modCore fun k => { k with ragged := some ⟨4, 0x48, 0x1000, 0⟩, m := { k.m with infl := [⟨3, 0, false, [], [], [], false, none, none⟩] } })) fun f => let b := f.modCore fun k => { k with ragged := none }; f.core.ragged.isSome && !(b.settleWord .m 4).core.m.infl.isEmpty) := by
  decide +kernel

theorem witness_TilesReplayOrCheck :
    (atCore 0 ((State.modCore (running) fun k => { k with plane0 := { k.plane0 with win := [⟨aCmd, 0x4440, 0, [], true, none, none, aRun.t⟩], used := false } })) fun f => has f.core.run fun r => r.began && let o := f.core.plane r.t.plane; !o.used && has o.win.head? fun k => k.image.isNone && k.ctx.isNone && k.point) ∧
    (atCore 0 ((State.modCore (running) fun k => { k with plane0 := { k.plane0 with win := [⟨aCmd, 0x4440, 0, [], true, none, some (Vector.replicate 12288 7, 0, [0]), aRun.t⟩], used := false } })) fun f => has f.core.run fun r => r.began && let o := f.core.plane r.t.plane; !o.used && has o.win.head? fun k => k.image.isNone && k.ctx.isSome) ∧
    (atCore 0 ((State.modCore ({ running with mem := imageCells }) fun k => { k with plane0 := { k.plane0 with win := [⟨aCmd, 0x4440, 0, [], true, some 0, none, aRun.t⟩], used := false } })) fun f => has f.core.run fun r => r.began && let o := f.core.plane r.t.plane; !o.used && has o.win.head? fun k => has k.image fun sv =>
      got3 (f.readImage 0 sv 0x800) fun s1 hd _ => weltHeadOk hd && got3 (s1.readImage 0 sv (weltSize (fieldAt hd 6 1) (fieldAt hd 7 1))) fun _ bs _ => (Welt.read bs).mapOk) ∧
    (atCore 0 ((State.modCore (running) fun k => { k with plane0 := { k.plane0 with win := [], used := false } })) fun f => has f.core.run fun r => r.began && let o := f.core.plane r.t.plane; (o.win.isEmpty || o.used || o.win.head?.any fun k => k.image.isNone && k.ctx.isNone && !k.point)) ∧
    (atCore 0 ((State.modCore (running) fun k => { k with plane0 := { k.plane0 with win := [⟨aCmd, 0x4440, 0, [], true, none, none, aRun.t⟩], used := true } })) fun f => has f.core.run fun r => r.began && let o := f.core.plane r.t.plane; (o.win.isEmpty || o.used || o.win.head?.any fun k => k.image.isNone && k.ctx.isNone && !k.point)) ∧
    (atCore 0 ((State.modCore (running) fun k => { k with plane0 := { k.plane0 with win := [⟨aCmd, 0x4440, 0, [], false, none, none, aRun.t⟩], used := false } })) fun f => has f.core.run fun r => r.began && let o := f.core.plane r.t.plane; (o.win.isEmpty || o.used || o.win.head?.any fun k => k.image.isNone && k.ctx.isNone && !k.point)) ∧
    (atCore 0 (matrix) fun f => f.core.run.isNone) := by
  decide +kernel

theorem witness_SubmissionsEnterTheirBatch :
    (let c := 0; let n := 0; let b := 5; let f0 : State := ({ live with tstep := 5, core := { live.core with lace := { Lace.reset with st := .submitted, sub := .sent 0 5, tiles := [⟨0, 0x200000, false, 0⟩] } } } : State); held f0.viral f0.inReset (decide (((fun f => f.core.lace.sub = .sent n b ∧ f.tstep ≤ b ∧ (f.batchOf (coreDie f.core.id) b).length < 64)) (f0.focus c)))) ∧
    (let c := 0; let n := 7; let b := 7; let f0 : State := ({ live with tstep := 5, core := { live.core with lace := { Lace.reset with st := .submitted, sub := .sent 7 7, tiles := [⟨0, 0x200000, false, 0⟩] } } } : State); held f0.viral f0.inReset (decide (((fun f => f.core.lace.sub = .sent n b ∧ f.tstep ≤ b ∧ (f.batchOf (coreDie f.core.id) b).length < 64)) (f0.focus c)))) ∧
    (let c := 0; let b := 4; let f0 : State := ({ live with tstep := 5, core := { live.core with lace := { Lace.reset with st := .submitted, sub := .sent 0 4, tiles := [⟨0, 0x200000, false, 0⟩] } } } : State); held f0.viral f0.inReset (decide (((fun f => f.core.lace.sub = .sent 0 b ∧ (b < f.tstep ∨ 64 ≤ (f.batchOf (coreDie f.core.id) b).length))) (f0.focus c)))) ∧
    (let c := 0; let b := 5; let f0 : State := { ({ live with tstep := 5, core := { live.core with lace := { Lace.reset with st := .submitted, sub := .sent 0 5, tiles := [⟨0, 0x200000, false, 0⟩] } } } : State) with batches := (List.replicate 64 (⟨0, 5, (0, 0, 0, 0), 1, [], none, false⟩ : LaceTx)) }; held f0.viral f0.inReset (decide (((fun f => f.core.lace.sub = .sent 0 b ∧ (b < f.tstep ∨ 64 ≤ (f.batchOf (coreDie f.core.id) b).length))) (f0.focus c)))) ∧
    (let c := 0; let n := 4; let b := 4; let f0 : State := ({ live with tstep := 5, core := { live.core with lace := { Lace.reset with st := .submitted, sub := .sent 4 4, tiles := [⟨0, 0x200000, false, 0⟩] }, csr := { live.core.csr with tvec := 0x2000 } } } : State); held f0.viral f0.inReset (decide (((fun f => f.core.lace.sub = .sent n b ∧ n ≠ 0 ∧ (b < f.tstep ∨ 64 ≤ (f.batchOf (coreDie f.core.id) b).length) ∧
      f.core.csr.nest = false ∧ f.core.csr.tvec ≠ 0)) (f0.focus c)))) := by
  decide +kernel

theorem witness_BeatsClose :
    (serve ({ live with beatClk := 256 }) fun s => s.ownBeat && decide (256 ≤ s.beatClk)) ∧
    (serve ({ live with beatClk := 255 }) fun s => decide (s.beatClk < 256)) ∧
    (serve ({ live with beatClk := 256, domain := some 3, members := [2, 3] }) fun s => !s.ownBeat) ∧
    (serve ({ live with domain := some 3, members := [2, 3] }) fun s => !s.ownBeat) ∧
    (serve (live) fun s => s.ownBeat) ∧
    (({ live with viral := true } : State).viral) ∧
    (decide ((∀ k ∈ live.cores, k.lace.st = .declaring → k.atSafePoint = false) ∧ openNow live = [])) ∧
    ((fun (s : State) => (decide ((∀ k ∈ s.cores, k.lace.st = .declaring → k.atSafePoint = false) ∧ (openNow s).length = 1 ∧ (∀ k ∈ s.kerns, s.isDet k = false) ∧ Sound s ∧ (s.coreOf 0).id = 0) : Bool)) ({ live with batches := [⟨0, 0, (0, 0, 0, 0), 0, [], none, false⟩] })) := by
  decide +kernel

theorem witness_TilesAreMergedGrantedAndReturned :
    (decide (live.exchanged 7 4 = false ∧ 4 < (5 : Nat))) ∧
    ((fun (s : State) => (has (s.nextMerge 0 1) fun b => (List.range 8).all (fun e => s.exchanged e b) && s.batches.all fun x => decide x.tiles.Nodup : Bool)) ({ live with tstep := 6, batches := [(⟨0, 5, (0, 0, 0, 0), 1, [0x200000], some 9, false⟩ : LaceTx)], sentTo := (List.range 8).map fun e => (e, 5) })) ∧
    ((live.nextMerge 0 1).isNone) ∧
    ((fun (s : State) => (has (s.nextMerge 0 1) fun b => (List.range 8).any (fun e => !s.exchanged e b) : Bool)) ({ live with tstep := 6, batches := [(⟨0, 5, (0, 0, 0, 0), 1, [0x200000], some 9, false⟩ : LaceTx)] })) ∧
    ((fun (s : State) => (let q := s.queueOf 0x200000; q.holder.isNone && has q.queue.head? fun n => has (s.txOf n) fun x => decide (x.beat + 2 ≤ s.tstep) : Bool)) (({ live with tstep := 7, batches := [(⟨0, 5, (0, 0, 0, 0), 1, [0x200000], some 9, false⟩ : LaceTx)], lqueues := [⟨0x200000, none, [9]⟩] } : State))) ∧
    ((fun (s : State) => (has (s.queueOf 0x200000).queue.head? fun n => has (s.txOf n) fun x => decide (s.tstep < x.beat + 2) : Bool)) (({ live with tstep := 6, batches := [(⟨0, 5, (0, 0, 0, 0), 1, [0x200000], some 9, false⟩ : LaceTx)], lqueues := [⟨0x200000, none, [9]⟩] } : State))) ∧
    ((fun (s : State) => ((s.queueOf 0x200000).holder.isSome : Bool)) ({ live with lqueues := [⟨0x200000, some 3, [9]⟩] })) ∧
    (atCore 0 ((withStrm (live) .c fun t => { t with sq := [(⟨3, 3, .laceReturn [0x200000], 0, 0x1FFC, [], none⟩ : SEnt)] })) fun f => let e := (⟨3, 3, .laceReturn [0x200000], 0, 0x1FFC, [], none⟩ : SEnt); decide (HeadStore f .c e) && (f.strm .c).mayRelease e.seq .dv) ∧
    (atCore 0 ((withStrm (live) .c fun t => { t with sq := [(⟨3, 3, .laceReturn [0x200000], 0, 0x1FFC, [], none⟩ : SEnt)], posted := [⟨1, 1, 0, [(2 ^ 50, 1)], 0, 0, 1, 1, false, 0⟩], lq := [⟨2, 2, .load [(0, .mem 0x201FF0, false)] [none] (.x 3 0), none⟩] })) fun f => let e := (⟨3, 3, .laceReturn [0x200000], 0, 0x1FFC, [], none⟩ : SEnt); decide (HeadStore f .c e) && !(f.strm .c).mayRelease e.seq .dv) := by
  decide +kernel

theorem witness_ControlStreamRoundTrip :
    ((([.add plain 63 62 61, .ld ⟨true, true, true⟩ 63 1 3 3 0x7F, .nop .c plain] : List Instr).all fun i => i.stream == .c && i.wellFormed && i.onCore false && (encode i).isSome) = true) ∧
    ((([.launch plain 63 62 61, .nop .c ⟨false, false, true⟩] : List Instr).all fun i => i.stream == .c && i.wellFormed && i.onCore true && (encode i).isSome) = true) := by
  decide +kernel

theorem witness_AddressStreamRoundTrip :
    ((([.aadd plain 31 1 2, .nop .a plain] : List Instr).all fun i => i.stream == .a && i.wellFormed && i.onCore false && (encode i).isSome) = true) := by
  decide +kernel

theorem witness_VectorStreamRoundTrip :
    ((([.nop .v plain, .vloop plain 1 2 3] : List Instr).all fun i => i.stream == .v && i.wellFormed && i.onCore false && (encode i).isSome) = true) := by
  decide +kernel

theorem witness_MatrixStreamRoundTrip :
    ((([.mma plain false 1 2 0 false true true, .nop .m plain] : List Instr).all fun i => i.stream == .m && i.wellFormed && i.onCore false && (encode i).isSome) = true) := by
  decide +kernel

theorem witness_DecodedWordsReencode :
    (((match decode false .c 0x0B082800 with | .ok _ => true | .error _ => false) && (0x0B082800 : Nat) < 2 ^ 32) = true) := by
  decide +kernel

theorem witness_StepRunsAFetchedWord :
    ((let s : State := { live with mem := memPut [] 0x201000 (natLe 4 0x0B082800) }
      let f := (({ s with agenda := [], ir := none } : State).retireAll .c).modCore fun k => { k with cur := .c }
      s.agenda.isEmpty && !(s.ownBeat && decide (256 ≤ s.beatClk) && !s.inReset) && s.core.cur == .c && !f.fetchIdle .c && got3 (f.translate .fetch (f.pc .c) (.fetch .c)) fun s1 pa _ => (match s1.fetchCheck (s1.pc .c) pa with | .ok _ => true | .error _ => false) && (match decode s1.core.dispatch .c (s1.codeAt pa) with | .ok _ => true | .error _ => !true)) = true) := by
  decide +kernel

theorem witness_FetchFaultsAreTaken :
    ((let f := (((live.modStrm .c fun t => { t with pc := 0x800000000000 }).focus 0).retireAll .c).modCore fun k => { k with cur := .c }; !f.fetchIdle .c && !f.olderMay .c && !f.core.atSafePoint && (f.strm .c).blocked.isNone && f.streamTrap.isNone && match f.translate .fetch (f.pc .c) (.fetch .c) with | .error (.fault _) => true | _ => false) = true) ∧
    ((let f := ((({ live with tags := [⟨0x201, 0, none, true⟩] }).focus 0).retireAll .c).modCore fun k => { k with cur := .c }; !f.fetchIdle .c && !f.olderMay .c && !f.core.atSafePoint && (f.strm .c).blocked.isNone && f.streamTrap.isNone && got3 (f.translate .fetch (f.pc .c) (.fetch .c)) fun s1 pa _ => !s1.olderMay .c && !s1.core.atSafePoint && (s1.strm .c).blocked.isNone && s1.streamTrap.isNone && s1.awaitsZero pa) = true) ∧
    ((let f := (((({ live with hwin := [] } : State).modStrm .c fun t => { t with pc := 0x200000 }).focus 0).retireAll .c).modCore fun k => { k with cur := .c }; !f.fetchIdle .c && !f.olderMay .c && !f.core.atSafePoint && (f.strm .c).blocked.isNone && f.streamTrap.isNone && got3 (f.translate .fetch (f.pc .c) (.fetch .c)) fun s1 pa _ => !s1.olderMay .c && !s1.core.atSafePoint && (s1.strm .c).blocked.isNone && s1.streamTrap.isNone && !s1.awaitsZero pa && !s1.farOk pa) = true) ∧
    ((let f := ((({ dispatching with tags := [⟨1, Label.ofSlot 3, none, false⟩] }).focus 1024).retireAll .c).modCore fun k => { k with cur := .c }; !f.fetchIdle .c && !f.olderMay .c && !f.core.atSafePoint && (f.strm .c).blocked.isNone && f.streamTrap.isNone && got3 (f.translate .fetch (f.pc .c) (.fetch .c)) fun s1 pa _ => !s1.olderMay .c && !s1.core.atSafePoint && (s1.strm .c).blocked.isNone && s1.streamTrap.isNone && !s1.awaitsZero pa && s1.farOk pa && s1.core.dispatch && paClass pa == 0 && decide (¬ s1.readLab pa = Label.empty)) = true) ∧
    ((let f := (((live).focus 0).retireAll .c).modCore fun k => { k with cur := .c }; !f.fetchIdle .c && !f.olderMay .c && !f.core.atSafePoint && (f.strm .c).blocked.isNone && f.streamTrap.isNone && got3 (f.translate .fetch (f.pc .c) (.fetch .c)) fun s1 pa _ => !s1.olderMay .c && !s1.core.atSafePoint && (s1.strm .c).blocked.isNone && s1.streamTrap.isNone && (match s1.fetchCheck (s1.pc .c) pa with | .ok _ => true | .error _ => false) && (match decode s1.core.dispatch .c (s1.codeAt pa) with | .ok _ => false | .error _ => !false)) = true) := by
  decide +kernel

theorem witness_StepRunsTheAgenda :
    (((match exec (.thermalThrottle 1 96) { live with agenda := [], ir := none } with | .next t => t.ir.isNone | _ => false) && (encode (.thermalThrottle 1 96)).isNone) = true) := by
  decide +kernel

theorem witness_StepKeepsMemoriesCanonical :
    ((let s : State := { live with mem := memPut [] 0x201000 (natLe 4 0x0B082800) }
      s.memoriesOk && match step s with | .next _ => true | _ => false) = true) := by
  decide +kernel

theorem witness_UnmarkedWordsIssueAtOnce :
    ((decide (Unhindered (.add plain 1 2 3) live .c) && !live.core.misplaced (.add plain 1 2 3) .c plain) = true) ∧
    ((decide (Unhindered (.aadd plain 1 2 3) live .a) && !live.core.misplaced (.aadd plain 1 2 3) .a plain) = true) ∧
    ((decide (Unhindered (.nop .v plain) live .v) && !live.core.misplaced (.nop .v plain) .v plain) = true) ∧
    ((decide (Unhindered (.nop .m plain) live .m) && !live.core.misplaced (.nop .m plain) .m plain) = true) := by
  decide +kernel

theorem witness_WaitMarksTakeATokenOrWait :
    ((let s := live.modStrm .c fun t => { t with routeIn := 4 }; decide (Unhindered (.add plain 1 2 3) s .c) && (!s.core.misplaced (.add ⟨true, false, false⟩ 1 2 3) .c ⟨true, false, false⟩) && s.core.tok[4] == 0 && !(s.strm (Stream.ofNum (4 / 4))).ended) = true) ∧
    ((let s := (live.modStrm .c fun t => { t with routeIn := 4 }).modStrm .a fun t => { t with ended := true }; decide (Unhindered (.add plain 1 2 3) s .c) && (!s.core.misplaced (.add ⟨true, false, false⟩ 1 2 3) .c ⟨true, false, false⟩) && s.core.tok[4] == 0 && (s.strm .a).ended) = true) ∧
    ((let s := (live.modStrm .c fun t => { t with routeIn := 4 }).modCore fun k => { k with tok := k.tok.set 4 15, owed := [] }; decide (Unhindered (.add plain 1 2 3) s .c) && (!s.core.misplaced (.add ⟨true, false, false⟩ 1 2 3) .c ⟨true, false, false⟩) && 0 < s.core.tok[4] && s.canIntern (Label.join (s.clab .c) s.core.tokLab[4]) && s.core.owed.contains 4 == false) = true) ∧
    ((let s := (live.modStrm .c fun t => { t with routeIn := 4 }).modCore fun k => { k with tok := k.tok.set 4 15, owed := [4] }; decide (Unhindered (.add plain 1 2 3) s .c) && (!s.core.misplaced (.add ⟨true, false, false⟩ 1 2 3) .c ⟨true, false, false⟩) && 0 < s.core.tok[4] && s.canIntern (Label.join (s.clab .c) s.core.tokLab[4]) && s.core.owed.contains 4 == true) = true) := by
  decide +kernel

theorem witness_UnroutedMarksAreIllegal :
    ((decide (Unhindered (.add ⟨true, false, false⟩ 1 2 3) live .c) && (live.strm .c).routeIn.val == noRoute .c && (live.strm .c).routeOut.val == noRoute .c) = true) ∧
    ((decide (Unhindered (.troute .c plain 5 3) live .c) && decide (¬ (5 % 4 = Stream.c.num ∧ 3 / 4 = Stream.c.num))) = true) ∧
    ((let s : State := live.modStrm .c fun t => { t with hold := some ⟨3, 0, 0x1000, false, none⟩ }; decide (Unhindered (.hold .c plain 3) { s with core := s.core.setStrm .c { s.strm .c with hold := none } } .c) && has (s.strm .c).hold fun r => r.wait.isNone) = true) := by
  decide +kernel

theorem witness_OverrunRegionsTrap :
    ((let s : State := { (live.modStrm .c fun t => { t with hold := some ⟨3, 0, 0x1000, false, none⟩ }) with clk := 256 }; decide (Unhindered (.add plain 1 2 3) { s with core := s.core.setStrm .c { s.strm .c with hold := none } } .c) && !s.core.misplaced (.add plain 1 2 3) .c plain && has (s.strm .c).hold fun r => r.wait.isNone && decide (256 ≤ s.clk - r.start)) = true) := by
  decide +kernel

theorem witness_ScalarWordsLeaveTheRestAlone :
    (((scalarDest (.add plain 63 1 2)).isSome && match exec (.add plain 63 1 2) live with | .next _ => true | _ => false) = true) := by
  decide +kernel

theorem witness_TrapEntersTheHandler :
    ((let s := live.modCore fun k => { k with csr := { k.csr with nest := false, tvec := 0x2000 } }; !s.core.csr.nest && s.core.csr.tvec != 0) = true) := by
  decide +kernel

theorem witness_UnhandledTrapStopsTheControlStream :
    ((let s := live.modCore fun k => { k with csr := { k.csr with nest := true, tvec := 0x2000 } }; s.core.csr.nest) = true) ∧
    ((!live.core.csr.nest && live.core.csr.tvec == 0) = true) := by
  decide +kernel

theorem witness_SoftwareTrapsReachTheHandler :
    ((let s := live.modCore fun k => { k with csr := { k.csr with nest := false, tvec := 0x2000 } }; !s.core.csr.nest && s.core.csr.tvec != 0 && (goes (.trap plain 7) .c plain s fun _ => true) && goes (.brk .c plain 7) .c plain s fun _ => true) = true) := by
  decide +kernel

theorem witness_DelegatedStopsReachTheHandler :
    ((atCore 0 (live.modCore fun k => { k with csr := { k.csr with deleg := 15, tvec := 0x2000 }, m := { k.m with stop := .delegated } }) fun f => f.core.firstStop == some .m && !f.core.csr.nest && f.core.c.hold.isNone && f.core.c.blocked.isNone && !f.core.c.ended && !f.core.c.stop.stopped && f.core.lace.st == .idle && f.core.csr.tvec != 0 && f.core.csr.deleg.toNat / 2 ^ Stream.m.num % 2 == 1) = true) ∧
    ((atCore 0 (live.modCore fun k => { k with csr := { k.csr with deleg := 0, tvec := 0x2000 }, m := { k.m with stop := .delegated } }) fun f => f.core.firstStop == some .m && !f.core.csr.nest && f.core.c.hold.isNone && f.core.c.blocked.isNone && !f.core.c.ended && !f.core.c.stop.stopped && f.core.lace.st == .idle && (f.core.csr.tvec == 0 || f.core.csr.deleg.toNat / 2 ^ Stream.m.num % 2 == 0)) = true) ∧
    ((atCore 0 (live.modCore fun k => { k with csr := { k.csr with deleg := 15, tvec := 0 }, m := { k.m with stop := .delegated } }) fun f => f.core.firstStop == some .m && !f.core.csr.nest && f.core.c.hold.isNone && f.core.c.blocked.isNone && !f.core.c.ended && !f.core.c.stop.stopped && f.core.lace.st == .idle && (f.core.csr.tvec == 0 || f.core.csr.deleg.toNat / 2 ^ Stream.m.num % 2 == 0)) = true) ∧
    ((atCore 0 (live) fun f => f.core.firstStop.isNone) = true) ∧
    ((atCore 0 (live.modCore fun k => { k with csr := { k.csr with deleg := 15, nest := true, tvec := 0x2000 }, m := { k.m with stop := .delegated } }) fun f => f.core.firstStop == some .m && f.core.csr.nest) = true) := by
  decide +kernel

theorem witness_StopsPostTheirRecord :
    ((atCore 0 ({ (live.modStrm .m fun t => { t with stop := .held, bank := ⟨0x48, 0x1000, 8, Label.ofSlot 3⟩ }) with mailboxes := [⟨1, [], 63, 0⟩] }) fun f => decide (Sound f) && (f.hubRecs.all fun x => f.mailFull x.1) && (f.strm .m).stop == .held && !f.mailFull f.core.func && Label.sub (f.strm .m).bank.lab (f.funcLab f.core.func)) = true) ∧
    ((atCore 0 ({ (live.modStrm .m fun t => { t with stop := .held, bank := ⟨0x48, 0x1000, 8, Label.ofSlot 4⟩ }) with mailboxes := [⟨1, [], 0, 0xFFFFFFFF⟩] }) fun f => decide (Sound f) && (f.hubRecs.all fun x => f.mailFull x.1) && (f.strm .m).stop == .held && !f.mailFull f.core.func && !Label.sub (f.strm .m).bank.lab (f.funcLab f.core.func)) = true) ∧
    ((atCore 0 ({ live with hubRecs := [default] }) fun f => (f.hubRecs.find? fun x => !f.mailFull x.1).isSome) = true) ∧
    ((atCore 0 ({ (live.modStrm .m fun t => { t with stop := .held, bank := ⟨0x48, 0x1000, 8, Label.ofSlot 3⟩ }) with mailboxes := [⟨1, [], 64, 0⟩] }) fun f => f.hubRecs.isEmpty && (f.strm .m).stop == .held && f.mailFull f.core.func) = true) ∧
    (((live.mailFull 1 == false) && (({ live with mailboxes := [⟨1, [], 3, 0xFFFFFFC3⟩] } : State).mailFull 1)) = true) ∧
    ((let s : State := { (live.modStrm .m fun t => { t with stop := .held, bank := ⟨0x48, 0x1000, 8, Label.ofSlot 3⟩ }) with mailboxes := [⟨1, [], 64, 0⟩] }; (s.strm .m).stop == .held) = true) := by
  decide +kernel

theorem witness_FmresumeResumesOrEnds :
    ((serve (live.modStrm .v fun t => { t with stop := .posted 9 }) fun s => !s.tdiError 1 && s.tlbiNow.isNone && s.core.ticketed 1 9 == some .v) = true) ∧
    ((serve (live.modStrm .v fun t => { t with stop := .posted 9 }) fun s => !s.tdiError 1 && s.tlbiNow.isNone && has (s.cores.find? fun k => (k.ticketed 1 9).isSome) fun k => k.ticketed 1 9 == some .v) = true) ∧
    ((serve ({ scheduled with core := Core.reset 0, images := [{ anImage with core := { anImage.core with v := { anImage.core.v with stop := .posted 9 } } }] }) fun s => !s.tdiError 1 && s.tlbiNow.isNone && (s.cores.find? fun k => (k.ticketed 1 9).isSome).isNone && one s.images fun im => im.live && im.core.ticketed 1 9 == some .v) = true) ∧
    ((serve ({ live with tlbiNow := some ⟨0, 0, 0, false⟩ }) fun s => !s.tdiError 1 && s.tlbiNow.isSome) = true) ∧
    ((serve (live.modStrm .v fun t => { t with stop := .posted 9 }) fun s => !s.tdiError 1 && (s.cores.find? fun k => (k.ticketed 1 9).isSome).isSome) = true) ∧
    ((serve ({ scheduled with core := Core.reset 0, images := [{ anImage with core := { anImage.core with v := { anImage.core.v with stop := .posted 9 } } }] }) fun s => !s.tdiError 1 && (s.cores.find? fun k => (k.ticketed 1 9).isSome).isNone && (s.images.find? fun i => i.live && (i.core.ticketed 1 9).isSome).isSome) = true) ∧
    ((serve ({ live with tdi := [(1, .error)] }) fun s => s.tdiError 1) = true) ∧
    ((scheduled.isMapped 5) = true) := by
  decide +kernel

theorem witness_HeelDisagreementsEndTheTask :
    ((atCore 0 (live) fun f => true) = true) ∧
    ((atCore 0 (live) fun f => f.core.task.isSome && !f.core.dispatch) = true) ∧
    ((atCore 1024 ({ live with others := [(1024, { Core.reset 1024 with c := runStrm .c })] }) fun f => f.core.dispatch) = true) := by
  decide +kernel

theorem witness_TasksLeave :
    ((atCore 0 (live.modCore fun k => { k with task := some { aTask with preempt := true, keep := false } }) fun f => f.core.atSafePoint && f.core.task.isSome && decide (AtRest f.withdraw)) = true) ∧
    ((atCore 0 (live.modCore fun k => { k with task := some { aTask with preempt := true, keep := true } }) fun f => f.core.atSafePoint && f.core.task.isSome && decide (AtRest f.withdraw)) = true) ∧
    ((atCore 0 ((live.modCore fun k => { k with task := some { aTask with preempt := true, keep := false } }).modStrm .c fun t => { t with sq := [⟨4, 4, .qalign, 0, 0x1000, [], none⟩] }) fun f => f.core.atSafePoint && f.core.task.isSome && !f.withdraw.core.c.atRest) = true) ∧
    ((atCore 0 (live) fun f => !f.core.atSafePoint) = true) ∧
    ((atCore 0 ((live.modCore fun k => { k with task := some { aTask with preempt := true, keep := false } }).modCore fun k => { k with lace := { k.lace with st := .declaring, sub := .accepted 3 } }) fun f => (match f.core.lace.sub with | .accepted _ => true | _ => false)) = true) := by
  decide +kernel

theorem witness_TasksComeBack :
    ((serve ({ scheduled with kerns := [aKern], images := [anImage], core := Core.reset 0 }) fun s => has (s.imageOf 5 7) fun im => s.headOk im && im.core.lace.tiles.isEmpty && has (s.restoreCore im) fun pc => let hold := ((s.graphOf ((im.core.task.map (·.graph)).getD 0)).map (·.holds)).getD 0; let b := im.coreOn (s.readCtx im) (s.coreOf pc) hold; (s.coreOf pc).id == pc && (s.coreOf pc).task.isNone && !s.bistHolds pc && ((s.coreOf pc).parked.isNone || (s.coreOf pc).parked == some (im.kern, im.taskidx)) && (b.labels.all fun l => Label.sub l hold) && (s.internAll b.labels).isSome) = true) ∧
    ((serve ({ scheduled with kerns := [aKern], images := [anImage], core := Core.reset 0, others := [(3, { Core.reset 3 with parked := some (1, 7) })] }) fun s => has (s.imageOf 5 7) fun im => s.headOk im && has (s.restoreCore im) fun pc => let hold := ((s.graphOf ((im.core.task.map (·.graph)).getD 0)).map (·.holds)).getD 0; let b := im.coreOn (s.readCtx im) (s.coreOf pc) hold; pc == 3 && (s.coreOf pc).task.isNone && !s.bistHolds pc && ((s.coreOf pc).parked.isNone || (s.coreOf pc).parked == some (im.kern, im.taskidx)) && (b.labels.all fun l => Label.sub l hold) && (s.internAll b.labels).isSome) = true) ∧
    ((serve ({ scheduled with kerns := [aKern], images := [anImage], core := Core.reset 0, others := [(3, runCore 3)] }) fun s => has (s.imageOf 5 7) fun im => s.headOk im && has (s.restoreCore im) fun pc => (s.coreOf pc).task.isSome) = true) ∧
    ((serve ({ scheduled with images := [{ anImage with magic := false }] }) fun s => has (s.imageOf 5 7) fun im => s.isMapped im.queue && !s.headOk im) = true) ∧
    ((serve ({ scheduled with kerns := [aKern], images := [{ anImage with hops := [] }], core := Core.reset 0 }) fun s => has (s.imageOf 5 7) fun im => s.isMapped im.queue && s.headOk im && (s.restoreCore im).isNone) = true) ∧
    ((serve ({ scheduled with kerns := [aKern], images := [{ anImage with core := { anImage.core with a := { anImage.core.a with clab := Label.ofSlot 4 } } }], core := Core.reset 0 }) fun s => has (s.imageOf 5 7) fun im => s.isMapped im.queue && s.headOk im && has (s.restoreCore im) fun pc => let hold := ((s.graphOf ((im.core.task.map (·.graph)).getD 0)).map (·.holds)).getD 0; let b := im.coreOn (s.readCtx im) (s.coreOf pc) hold; (s.coreOf pc).task.isNone && !s.bistHolds pc && ((s.coreOf pc).parked.isNone || (s.coreOf pc).parked == some (im.kern, im.taskidx)) && !(b.labels.all fun l => Label.sub l hold)) = true) ∧
    ((serve (scheduled) fun s => (s.imageOf 5 7).isNone) = true) ∧
    ((let s : State := { scheduled with kerns := [aKern], images := [anImage], core := Core.reset 0 }; (s.cores.all fun k => k.parked != some (anImage.kern, anImage.taskidx)) && (s.restoreCore anImage).isSome) = true) := by
  decide +kernel

theorem witness_KicksEnterTheFifo :
    ((serve ({ scheduled with qcbs := [{ aQcb with busy := true, kcount := 15 }] }) fun s => (s.qcb 5).func == 1 && s.kickOk (s.qcb 5) 1 && !s.tdiError 1 && s.isMapped 5 && (s.qcb 5).busy && decide ((s.qcb 5).kcount < 16) && (s.qcb 5).kicks.length == 16) = true) ∧
    ((serve ({ scheduled with origins := [(0, 3)] }) fun s => (s.qcb 4095).func == 0 && s.kickOk (s.qcb 4095) 1 && !s.tdiError 0 && !s.isMapped 4095 && decide ((s.qcb 4095).kcount < 16)) = true) ∧
    ((serve (scheduled) fun s => (s.qcb 5).func == 1 && !s.tdiError 1 && s.isMapped 5 && !s.kickOk (s.qcb 5) 2) = true) ∧
    ((serve ({ scheduled with qcbs := [{ aQcb with kcount := 16 }] }) fun s => (s.qcb 5).func == 1 && s.kickOk (s.qcb 5) 1 && !s.tdiError 1 && s.isMapped 5 && decide (16 ≤ (s.qcb 5).kcount)) = true) ∧
    ((serve ({ scheduled with tdi := [(1, .error)] }) fun s => s.tdiError 1) = true) ∧
    ((serve (scheduled) fun s => (s.qcb 5).func != 0) = true) := by
  decide +kernel

theorem witness_SlotCommandsMapAndUnmap :
    ((serve (scheduled) fun s => !s.slotBusy 0 && cmdOp 0x1000000700000002#64 == 1 && cmdQueue 0x1000000700000002#64 == 7 && !s.isMapped 7 && !s.offDie 0 0x1000000700000002#64 && !((s.dies (s.qcb (cmdQueue 0x1000000700000002#64)).part).any fun e => s.slots.any fun x => x.die == e && x.slot == cmdSlot 0x1000000700000002#64)) = true) ∧
    ((serve ({ (scheduled) with slotNow := [(0, 0x1000000700000002#64)] }) fun s => s.slotNow.contains (0, 0x1000000700000002#64) && cmdOp 0x1000000700000002#64 == 1 && cmdQueue 0x1000000700000002#64 == 7 && !s.isMapped 7 && !s.offDie 0 0x1000000700000002#64 && !((s.dies (s.qcb (cmdQueue 0x1000000700000002#64)).part).any fun e => s.slots.any fun x => x.die == e && x.slot == cmdSlot 0x1000000700000002#64)) = true) ∧
    ((serve (scheduled) fun s => !s.slotBusy 0 && cmdOp 0x1000000500000002#64 == 1 && s.isMapped (cmdQueue 0x1000000500000002#64)) = true) ∧
    ((serve ({ (scheduled) with slotNow := [(0, 0x1000000500000002#64)] }) fun s => s.slotNow.contains (0, 0x1000000500000002#64) && cmdOp 0x1000000500000002#64 == 1 && s.isMapped (cmdQueue 0x1000000500000002#64)) = true) ∧
    ((serve (scheduled) fun s => !s.slotBusy 7 && !s.isMapped (cmdQueue 0x1000000700000002#64) && s.offDie 7 0x1000000700000002#64) = true) ∧
    ((serve ({ (scheduled) with slotNow := [(7, 0x1000000700000002#64)] }) fun s => s.slotNow.contains (7, 0x1000000700000002#64) && !s.isMapped (cmdQueue 0x1000000700000002#64) && s.offDie 7 0x1000000700000002#64) = true) ∧
    ((serve (scheduled) fun s => !s.slotBusy 0 && !s.isMapped (cmdQueue 0x1000000700000001#64) && !s.offDie 0 0x1000000700000001#64 && ((s.dies (s.qcb (cmdQueue 0x1000000700000001#64)).part).any fun e => s.slots.any fun x => x.die == e && x.slot == cmdSlot 0x1000000700000001#64)) = true) ∧
    ((serve ({ (scheduled) with slotNow := [(0, 0x1000000700000001#64)] }) fun s => s.slotNow.contains (0, 0x1000000700000001#64) && !s.isMapped (cmdQueue 0x1000000700000001#64) && !s.offDie 0 0x1000000700000001#64 && ((s.dies (s.qcb (cmdQueue 0x1000000700000001#64)).part).any fun e => s.slots.any fun x => x.die == e && x.slot == cmdSlot 0x1000000700000001#64)) = true) ∧
    ((serve ({ scheduled with qcbs := [{ aQcb with kcount := 3 }] }) fun s => !s.slotBusy 0 && decide (Sound s) && cmdOp 0x2000000500000000#64 == 2 && s.isMapped (cmdQueue 0x2000000500000000#64) && !s.offDie 0 0x2000000500000000#64 && (s.qcb 5).kcount != 0) = true) ∧
    ((serve ({ ({ scheduled with qcbs := [{ aQcb with kcount := 3 }] }) with slotNow := [(0, 0x2000000500000000#64)] }) fun s => s.slotNow.contains (0, 0x2000000500000000#64) && decide (Sound s) && cmdOp 0x2000000500000000#64 == 2 && s.isMapped (cmdQueue 0x2000000500000000#64) && !s.offDie 0 0x2000000500000000#64 && (s.qcb 5).kcount != 0) = true) ∧
    ((serve (scheduled) fun s => !s.slotBusy 0 && cmdOp 0x2000000600000000#64 == 2 && !s.isMapped (cmdQueue 0x2000000600000000#64)) = true) ∧
    ((serve ({ (scheduled) with slotNow := [(0, 0x2000000600000000#64)] }) fun s => s.slotNow.contains (0, 0x2000000600000000#64) && cmdOp 0x2000000600000000#64 == 2 && !s.isMapped (cmdQueue 0x2000000600000000#64)) = true) ∧
    ((serve (scheduled) fun s => !s.slotBusy 7 && s.isMapped (cmdQueue 0x2000000500000000#64) && s.offDie 7 0x2000000500000000#64) = true) ∧
    ((serve ({ (scheduled) with slotNow := [(7, 0x2000000500000000#64)] }) fun s => s.slotNow.contains (7, 0x2000000500000000#64) && s.isMapped (cmdQueue 0x2000000500000000#64) && s.offDie 7 0x2000000500000000#64) = true) ∧
    ((serve ({ scheduled with slotNow := [(0, 0x2000000600000000#64)], slotHeld := [(1, 0), (0, 0x1000000700000002#64)] }) fun s => s.slotBusy 0 && !s.slotNow.contains (0, 0x1000000700000002#64) && has (s.slotHeld.find? fun x => x.1 == 0) fun x => x.2 == 0x1000000700000002#64) = true) := by
  decide +kernel

theorem witness_SchedulerRegistersAct :
    ((serve (scheduled) fun s => !s.slotBusy 0 && cmdOp 0x3000000500000000#64 == 3 && s.isMapped (cmdQueue 0x3000000500000000#64) && !s.offDie 0 0x3000000500000000#64) = true) ∧
    ((serve ({ (scheduled) with slotNow := [(0, 0x3000000500000000#64)] }) fun s => s.slotNow.contains (0, 0x3000000500000000#64) && cmdOp 0x3000000500000000#64 == 3 && s.isMapped (cmdQueue 0x3000000500000000#64) && !s.offDie 0 0x3000000500000000#64) = true) ∧
    ((serve (scheduled) fun s => !s.slotBusy 0 && decide (Sound s) && decide (s.cores.map (·.id)).Nodup && cmdOp 0x4000000500000000#64 == 4 && !s.offDie 0 0x4000000500000000#64 && s.core.task.any fun x => x.queue == cmdQueue 0x4000000500000000#64) = true) ∧
    ((serve ({ (scheduled) with slotNow := [(0, 0x4000000500000000#64)] }) fun s => s.slotNow.contains (0, 0x4000000500000000#64) && decide (Sound s) && decide (s.cores.map (·.id)).Nodup && cmdOp 0x4000000500000000#64 == 4 && !s.offDie 0 0x4000000500000000#64 && s.core.task.any fun x => x.queue == cmdQueue 0x4000000500000000#64) = true) ∧
    ((serve (scheduled) fun s => !s.slotBusy 7 && s.offDie 7 0x3000000500000000#64 && s.offDie 7 0x4000000500000000#64) = true) ∧
    ((serve ({ (scheduled) with slotNow := [(7, 0x3000000500000000#64)] }) fun s => s.slotNow.contains (7, 0x3000000500000000#64) && s.offDie 7 0x3000000500000000#64 && s.offDie 7 0x4000000500000000#64) = true) ∧
    ((decide ¬(1 ≤ cmdOp 0x5000000000000000#64 ∧ cmdOp 0x5000000000000000#64 ≤ 4) && decide ¬(1 ≤ cmdOp 0 ∧ cmdOp 0 ≤ 4)) = true) ∧
    ((serve ({ scheduled with qcbs := [{ aQcb with clen := 4096 }] }) fun s => s.isMapped 5 && (s.qcb 5).clen != 0 && s.jobs.all fun j => j.queue != 5) = true) ∧
    ((serve ({ scheduled with jobs := [⟨0, 5, 0⟩] }) fun s => (s.qcb 5).clen == 0 && s.jobs.any fun j => j.queue == 5) = true) ∧
    ((serve (scheduled) fun s => !s.slotBusy 0) = true) ∧
    ((serve (scheduled) fun s => s.disjoint 15 (·.pclust) 0xFF00 && pringOk 0xE && s.disjoint 15 (·.pring) 0xE) = true) ∧
    ((serve (scheduled) fun s => !s.disjoint 15 (·.pclust) 1 && !pringOk 1) = true) ∧
    ((decide ((0x101#64).toNat / 256 % 256 ≠ 0 ∧ (0x1#64).toNat / 256 % 256 = 0)) = true) := by
  decide +kernel

theorem witness_BulkCopiesMoveChunks :
    ((serve ({ { scheduled with qcbs := [{ aQcb with csrc := 0x200000, cdst := 0x300000, clen := 100000 }] } with jobs := [⟨0, 5, 0⟩] }) fun s => has (s.engineJob 0 3) fun j => let c := s.qcb j.queue
      let n := min 65536 (c.clen.toNat - c.cdone.toNat)
      let a := c.csrc.toNat + c.cdone.toNat
      let b := c.cdst.toNat + c.cdone.toNat
      let there := s.copyRange a n && s.copyRange b n && !s.rangeWaits a n && !s.rangeWaits b n && (s.badUnits a b n).all fun u => !s.unitInUse u
      s.isMapped j.queue && decide (0 < n) && decide (Sound s) && there && s.chunkOk a b n && decide (n < c.clen.toNat)) = true) ∧
    ((serve ({ { scheduled with qcbs := [{ aQcb with csrc := 0x200000, cdst := 0x300000, clen := 100000, cdone := 65536 }] } with jobs := [⟨0, 5, 0⟩] }) fun s => has (s.engineJob 0 3) fun j => let c := s.qcb j.queue
      let n := min 65536 (c.clen.toNat - c.cdone.toNat)
      let a := c.csrc.toNat + c.cdone.toNat
      let b := c.cdst.toNat + c.cdone.toNat
      let there := s.copyRange a n && s.copyRange b n && !s.rangeWaits a n && !s.rangeWaits b n && (s.badUnits a b n).all fun u => !s.unitInUse u
      s.isMapped j.queue && decide (0 < n) && decide (Sound s) && there && s.chunkOk a b n && decide (c.clen.toNat ≤ c.cdone.toNat + n)) = true) ∧
    ((serve ({ { scheduled with qcbs := [{ aQcb with csrc := 0x4000000000000, cdst := 0x300000, clen := 100000, cdone := 0 }] } with jobs := [⟨0, 5, 0⟩], tags := (List.range 32).map fun i => ⟨0x300 + i, Label.ofSlot 3, some 1, false⟩ }) fun s => has (s.engineJob 0 3) fun j => let c := s.qcb j.queue
      let n := min 65536 (c.clen.toNat - c.cdone.toNat)
      let a := c.csrc.toNat + c.cdone.toNat
      let b := c.cdst.toNat + c.cdone.toNat
      let there := s.copyRange a n && s.copyRange b n && !s.rangeWaits a n && !s.rangeWaits b n && (s.badUnits a b n).all fun u => !s.unitInUse u
      s.isMapped j.queue && decide (0 < n) && decide (Sound s) && there && s.chunkOk a b n && paClass a == 1) = true) ∧
    ((serve ({ { scheduled with qcbs := [{ aQcb with csrc := 0x200000, cdst := 0x300000, clen := 100000 }] } with jobs := [⟨0, 5, 0⟩], tags := [⟨0x20F, Label.ofSlot 3, some 1, false⟩] }) fun s => has (s.engineJob 0 3) fun j => let c := s.qcb j.queue
      let n := min 65536 (c.clen.toNat - c.cdone.toNat)
      let a := c.csrc.toNat + c.cdone.toNat
      let b := c.cdst.toNat + c.cdone.toNat
      let there := s.copyRange a n && s.copyRange b n && !s.rangeWaits a n && !s.rangeWaits b n && (s.badUnits a b n).all fun u => !s.unitInUse u
      s.isMapped j.queue && decide (0 < n) && there && !s.chunkOk a b n) = true) ∧
    ((serve ({ { scheduled with qcbs := [{ aQcb with csrc := 0x200000, cdst := 0x300000, clen := 100000 }] } with jobs := [⟨0, 5, 0⟩], tags := [⟨0x301, 0, none, true⟩] }) fun s => has (s.engineJob 0 3) fun j => let c := s.qcb j.queue
      let n := min 65536 (c.clen.toNat - c.cdone.toNat)
      let a := c.csrc.toNat + c.cdone.toNat
      let b := c.cdst.toNat + c.cdone.toNat
      let there := s.copyRange a n && s.copyRange b n && !s.rangeWaits a n && !s.rangeWaits b n && (s.badUnits a b n).all fun u => !s.unitInUse u
      s.isMapped j.queue && decide (0 < n) && !there && s.rangeWaits b n) = true) ∧
    ((serve ({ { scheduled with qcbs := [{ aQcb with csrc := 0x200000, cdst := 0x40000000000, clen := 100000 }] } with jobs := [⟨0, 5, 0⟩] }) fun s => has (s.engineJob 0 3) fun j => let c := s.qcb j.queue
      let n := min 65536 (c.clen.toNat - c.cdone.toNat)
      let a := c.csrc.toNat + c.cdone.toNat
      let b := c.cdst.toNat + c.cdone.toNat
      let there := s.copyRange a n && s.copyRange b n && !s.rangeWaits a n && !s.rangeWaits b n && (s.badUnits a b n).all fun u => !s.unitInUse u
      s.isMapped j.queue && decide (0 < n) && !there && !s.copyRange b n) = true) ∧
    ((serve (scheduled) fun s => (s.engineJob 0 0).isNone) = true) ∧
    ((serve ({ { scheduled with qcbs := [{ aQcb with csrc := 0x200000, cdst := 0x300000, clen := 100000 }] } with jobs := [⟨0, 5, 0⟩], engines := [(0, 3, 5)] }) fun s => has (s.engines.find? fun x => x.1 == 0 && x.2.1 == 3) fun x => (s.jobs.find? fun j => j.queue == x.2.2).isSome) = true) ∧
    ((serve ({ { scheduled with qcbs := [{ aQcb with csrc := 0x200000, cdst := 0x300000, clen := 100000 }] } with jobs := [⟨0, 5, 0⟩] }) fun s => (s.nextJob 0).isSome) = true) := by
  decide +kernel

theorem witness_KernelsIssueAndComplete :
    ((serve ({ scheduled with kerns := [aKern], core := Core.reset 0 }) fun s => decide (Sound s) && has (s.kern 1) fun k => has (s.kernReg k) fun g => s.mayIssue k 0 && has (s.binding g.part 0 (s.usedClusters k)) fun i => !((s.nextTasks k 0 i).filter fun x => !(s.takenFirst k 0).contains x.2).isEmpty) = true) ∧
    ((serve ({ { scheduled with kerns := [aKern], core := Core.reset 0 } with graphs := [⟨{ aReg with images := [⟨[], [], [⟨0, 0, 0, 32⟩, ⟨0, 0, 1, 1⟩], [], [], 0, [], []⟩], nodes := [⟨0, 32, 0, [], []⟩] }, Label.ofSlot 3⟩], parts := live.parts.set 0 ⟨1000, 1, 0, 0xFF00⟩ }) fun s => has (s.kern 1) fun k => has (s.kernReg k) fun g => s.mayIssue k 0 && (s.binding g.part 0 (s.usedClusters k)).isNone && !(s.tasksLeft k 0).isEmpty && s.isMapped k.queue) = true) ∧
    ((serve ({ scheduled with kerns := [{ aKern with done := true }], core := Core.reset 0 }) fun s => has (s.kern 1) fun k => has (s.kernReg k) fun g => !s.mayIssue k 0) = true) ∧
    ((serve ({ { scheduled with kerns := [{ aKern with waves := (List.range 32).map fun i => (0, i) }], core := Core.reset 0 } with graphs := [⟨{ aReg with images := [⟨[], [], [⟨0, 0, 0, 32⟩, ⟨0, 0, 1, 1⟩], [], [], 0, [], []⟩], nodes := [⟨0, 32, 0, [], []⟩] }, Label.ofSlot 3⟩], parts := live.parts.set 0 ⟨1000, 1, 0, 0xFF00⟩ }) fun s => has (s.kern 1) fun k => has (s.kernReg k) fun g => (s.binding g.part 0 (s.usedClusters k)).isNone && (s.tasksLeft k 0).isEmpty) = true) ∧
    ((serve ({ { scheduled with kerns := [aKern], core := Core.reset 0 } with others := (List.range 16).map fun i => (i, runCore i), core := runCore 0 }) fun s => has (s.kern 1) fun k => has (s.kernReg k) fun g => has (s.binding g.part 0 (s.usedClusters k)) fun i => (s.nextTasks k 0 i).all fun x => (s.takenFirst k 0).contains x.2) = true) ∧
    ((serve ({ { scheduled with kerns := [{ aKern with waves := [(0, 0)] }], core := Core.reset 0 } with kernNo := 5 }) fun s => has (s.kern 1) fun k => !k.done && !k.refused && decide ((s.kernImg k).tasks 1 * (s.kernImg k).tasks 2 ≤ k.waves.length) && !s.kernLive 1 && decide (1 ≤ s.kernNo)) = true) ∧
    ((serve ({ scheduled with kerns := [aKern], core := Core.reset 0 }) fun s => has (s.kern 1) fun k => decide (k.waves.length < (s.kernImg k).tasks 1 * (s.kernImg k).tasks 2)) = true) := by
  decide +kernel

theorem witness_ZeroingAndInvalidation :
    ((serve ({ live with tags := [⟨0x201, Label.ofSlot 3, none, true⟩] }) fun s => decide (Sound s) && (s.tagOf 0x201FFF).zeroing && deviceOk 0x201FFF) = true) ∧
    ((serve ({ live with tags := [⟨0x201, Label.ofSlot 3, some 1, true⟩] }) fun s => decide (Sound s) && (s.tagOf 0x201FFF).zeroing && deviceOk 0x201FFF) = true) ∧
    ((serve (live) fun s => !(s.tagOf 0x201FFF).zeroing) = true) ∧
    ((serve ({ live with others := [(3, { Core.reset 3 with tok := Vector.replicate 16 2 })] }) fun s => (s.coreOf 3).id == 3 && !(s.coreOf 3).dispatch && (s.coreOf 3).task.isNone && (s.coreOf 3).parked.isNone) = true) ∧
    ((serve ({ live with tlbiNow := some ⟨1, 1, 0, false⟩ }) fun s => has s.tlbiNow fun c => s.cores.all fun k => !k.usesPage c) = true) ∧
    ((serve ({ (live.modStrm .c fun t => { t with lq := [⟨1, 0, .load [(0x100000, .mem 0x201000, false)] [none] (.x 3 0), none⟩] }) with tlbiNow := some ⟨0, 0, 0, false⟩ }) fun s => has s.tlbiNow fun c => s.cores.any fun k => k.usesPage c) = true) ∧
    ((decide (((1 * 2 ^ 20 + 5 : Nat)) / 2 ^ 20 % 4 = 1)) = true) := by
  decide +kernel

theorem witness_FramesGetTheirTags :
    ((serve ({ scheduled with mem := memPut (memPut (memPut (memPut [] 0x1000 (natLe 8 0x2001)) 0x2000 (natLe 8 0x3001)) 0x3000 (natLe 8 0x4001)) 0x4000 (natLe 8 0x5001) }) fun s => decide (Sound s) && has (s.graphOf 1) fun g => has (s.entryAt 2093056 0 5 4 g.reg.root) fun pa => s.tableFrame pa &&
        (!pteV 2101263 || ((!pteLeaf 2101263 || decide (0 < 2)) && s.mapsOnly (s.mayMap g) 0 2101263))) = true) ∧
    ((serve ({ scheduled with mem := memPut (memPut (memPut (memPut [] 0x1000 (natLe 8 0x2001)) 0x2000 (natLe 8 0x3001)) 0x3000 (natLe 8 0x4001)) 0x4000 (natLe 8 0x5001) }) fun s => decide (Sound s) && has (s.graphOf 1) fun g => has (s.entryAt 2097152 1 5 4 g.reg.root) fun pa => s.tableFrame pa &&
        (!pteV 2097167 || ((!pteLeaf 2097167 || decide (1 < 2)) && s.mapsOnly (s.mayMap g) 1 2097167))) = true) ∧
    ((serve ({ scheduled with mem := memPut (memPut (memPut (memPut [] 0x1000 (natLe 8 0x2001)) 0x2000 (natLe 8 0x3001)) 0x3000 (natLe 8 0x4001)) 0x4000 (natLe 8 0x5001) }) fun s => decide (Sound s) && has (s.graphOf 1) fun g => has (s.entryAt 0 4 5 4 g.reg.root) fun pa => s.tableFrame pa &&
        (!pteV 0 || ((!pteLeaf 0 || decide (4 < 2)) && s.mapsOnly (s.mayMap g) 4 0))) = true) ∧
    ((serve ({ scheduled with mem := memPut (memPut (memPut (memPut [] 0x1000 (natLe 8 0x2001)) 0x2000 (natLe 8 0x3001)) 0x3000 (natLe 8 0x4001)) 0x4000 (natLe 8 0x5001) }) fun s => decide (Sound s) && has (s.graphOf 1) fun g => has (s.entryAt 2097152 1 5 4 g.reg.root) fun pa => s.tableFrame pa &&
        (!pteV 24577 || ((!pteLeaf 24577 || decide (1 < 2)) && s.mapsOnly (s.mayMap g) 1 24577))) = true) ∧
    ((serve ({ scheduled with mem := memPut (memPut (memPut (memPut [] 0x1000 (natLe 8 0x2001)) 0x2000 (natLe 8 0x3001)) 0x3000 (natLe 8 0x4001)) 0x4000 (natLe 8 0x5001), tags := [⟨0x201, Label.ofSlot 4, none, false⟩] }) fun s => decide (Sound s) && has (s.graphOf 1) fun g => has (s.entryAt 2093056 0 5 4 g.reg.root) fun pa => s.tableFrame pa &&
        !s.mapsOnly (s.mayMap g) 0 0x20100F) = true) ∧
    ((serve ({ scheduled with mem := memPut (memPut (memPut (memPut [] 0x1000 (natLe 8 0x2001)) 0x2000 (natLe 8 0x3001)) 0x3000 (natLe 8 0x4001)) 0x4000 (natLe 8 0x5001), tags := [⟨0x201, (Label.join (Label.ofSlot 3) (Label.ofSlot 4)), none, false⟩], jointFrames := [(0x201, (Label.join (Label.ofSlot 3) (Label.ofSlot 4)))], grants := [(1, (Label.join (Label.ofSlot 3) (Label.ofSlot 4)))], graphs := [⟨aReg, (Label.join (Label.ofSlot 3) (Label.ofSlot 4))⟩] }) fun s => decide (Sound s) && has (s.graphOf 1) fun g => has (s.entryAt 2093056 0 5 4 g.reg.root) fun pa => s.tableFrame pa &&
        (!pteV 2101263 || ((!pteLeaf 2101263 || decide (0 < 2)) && s.mapsOnly (s.mayMap g) 0 2101263))) = true) ∧
    ((pteV 0x201003 && !pteLeaf 0x2001 && pteLeaf 0x20000F) = true) ∧
    ((serve (scheduled) fun s => decide (Sound s) && deviceOk (4096 * frameOf 0x201000) && !s.outOfService (frameOf 0x201000) && !s.frameHeld (frameOf 0x201000) && s.tlbiNow.isNone && s.canIntern (Label.clear0 (Label.ofSlot 3)) && has (s.graphOf 1) fun g => Label.sub (Label.clear0 (Label.ofSlot 3)) g.holds) = true) ∧
    ((serve (scheduled) fun s => decide (Sound s) && deviceOk (4096 * frameOf 0x201000) && !s.outOfService (frameOf 0x201000) && !s.frameHeld (frameOf 0x201000) && s.tlbiNow.isNone && s.canIntern (Label.clear0 (Label.ofSlot 4)) && has (s.graphOf 1) fun g => !Label.sub (Label.clear0 (Label.ofSlot 4)) g.holds) = true) ∧
    ((serve ({ scheduled with jointFrames := [(0x201, (Label.join (Label.ofSlot 3) (Label.ofSlot 4)))] }) fun s => decide (Sound s) && deviceOk (4096 * frameOf 0x201000) && !s.outOfService (frameOf 0x201000) && !s.frameHeld (frameOf 0x201000) && s.tlbiNow.isNone && s.canIntern (Label.clear0 (Label.join (Label.ofSlot 3) (Label.ofSlot 4))) && s.jointFrames.contains (frameOf 0x201000, Label.clear0 (Label.join (Label.ofSlot 3) (Label.ofSlot 4)))) = true) ∧
    ((serve (scheduled) fun s => decide (Sound s) && deviceOk (4096 * frameOf 0x201000) && !s.outOfService (frameOf 0x201000) && !s.frameHeld (frameOf 0x201000) && s.tlbiNow.isNone && s.canIntern (Label.clear0 0) && !s.jointFrames.contains (frameOf 0x201000, 0)) = true) ∧
    ((serve ({ scheduled with retired := [0x201] }) fun s => s.outOfService 0x201 && !s.frameHeld 0x201 && s.tlbiNow.isNone) = true) ∧
    ((serve ({ scheduled with tlbiNow := some ⟨0, 0, 0, false⟩ }) fun s => s.tlbiNow.isSome) = true) ∧
    ((let r : JointReq := ⟨Label.ofSlot 3, [], [], [], []⟩; decide (Label.count (Label.clear0 r.lset) < 2)) = true) := by
  decide +kernel

set_option maxRecDepth 20000 in
theorem witness_PoliciesGraphsAndTenants :
    ((serve (tenanted) fun s => s.tlbiNow.isNone && s.regOk aBundle (Label.join (Label.ofSlot 3) (s.grantOf 2)) && has (((s.internRelocs aBundle).bind fun s => s.internAll (Label.join (Label.ofSlot 3) (s.grantOf 2) :: aBundle.nodes.map (·.clab)))) fun s1 => s1.handlesFit aBundle && ((aBundle.tables.foldl State.zeroFrame s1).mapPages aBundle.root ((aBundle.allPages.map fun p => (4096 * p.1, p.2.2)).dedup) (aBundle.tables.filter (· != aBundle.root / 4096))).isSome) = true) ∧
    ((serve (live) fun s => s.tlbiNow.isNone && !s.regOk aBundle (Label.join (Label.ofSlot 3) (s.grantOf 2))) = true) ∧
    ((serve ({ live with tlbiNow := some ⟨0, 0, 0, false⟩ }) fun s => s.tlbiNow.isSome) = true) ∧
    ((serve (live) fun s => (s.tenantKey 255).isNone) = true) ∧
    ((serve (tenanted) fun s => (s.tenantKey 4).isSome && !s.slotNamed 4) = true) ∧
    ((serve ({ tenanted with tags := [⟨0x201, Label.ofSlot 4, none, false⟩] }) fun s => (s.tenantKey 4).isSome && s.slotNamed 4) = true) ∧
    ((serve (live) fun s => !policyFieldsOk []) = true) ∧
    ((decide ([0, 31].Nodup ∧ (∀ m ∈ [0, 31], m < 32) ∧ 31 ∈ [0, 31])) = true) := by
  decide +kernel

theorem witness_ViewWritesReachTheirRegister :
    ((serve (live) fun s => !s.tdiError 0 && !s.tdiError 255) = true) ∧
    ((serve ({ live with tdi := [(255, .error)] }) fun s => s.tdiError 255) = true) := by
  decide +kernel

theorem witness_SelfTestResetAndKeys :
    ((serve (live) fun s => (0x8000000000000003#64).getLsbD 63 && s.bistSel.isNone) = true) ∧
    ((serve ({ live with bistSel := some 0x79 }) fun s => (s.cores.all fun k => k.task.isNone || !inBist 0x79 k.id) && unitOk (unitName 7 1 15 2 15)) = true) ∧
    ((serve ({ live with bistSel := some 0x79 }) fun s => !unitOk 0xFFFFFFFF) = true) ∧
    ((serve (live) fun s => s.bistSel.isNone) = true) ∧
    ((bistPasses ([0xF0000000].filter unitOk)) = true) ∧
    ((let s : State := { live with keys := Vector.replicate 4 ⟨[], false, false⟩ }; bistPasses [] && !s.imageOk ([], []) && !s.fwrec) = true) ∧
    ((!live.fwrec) = true) ∧
    ((has (({ live with logs := [⟨0, [(5, ⟨0x0203, 0, 0, 0, 0, 0, 0⟩)], 1, 0, false⟩] } : State).logOf 0 |>.recs.find? fun r => r.1 == 69 % 64) fun _ => true) = true) := by
  decide +kernel

theorem witness_MemoryErrorsAreRecorded :
    ((atCore 0 (live) fun f => (f.strm .c).lqHead.isNone && deviceOk 0x201000 && !f.unitInUse (lineOf 0x201000)) = true) ∧
    ((atCore 0 (live) fun f => (f.strm .c).lqHead.isNone && (f.coreOf 0).id == 0 && (f.coreOf 1023).id == 1023) = true) ∧
    ((atCore 0 (live) fun f => (f.strm .c).lqHead.isNone && f.labels.any fun e => e.1 == 1) = true) := by
  decide +kernel

theorem witness_PartsLeaveService :
    ((serve (live) fun s => (s.migrate 0x201 0x301).isSome) = true) ∧
    ((serve ({ live with retired := [0x301] }) fun s => (s.migrate 0x201 0x301).isNone) = true) ∧
    ((serve ({ live with tags := [⟨0x201, Label.ofSlot 3, some 1, false⟩] }) fun s => let on := fun (f : Nat) => homeDie (4096 * f) == 0 && channelOf (4096 * f) == 5
      let ms := [(0x201, 0x301), (5, 0x302), (132, 0x304)]
      (ms.all fun m => on m.1 && !on m.2) && !s.fenced.contains (0, 5) && (s.migrateAll ms).isSome &&
        ((s.tags.map (·.frame)) ++ (s.graphs.flatMap fun g => g.reg.tables) ++ (s.mem.map fun x => frameOf x.1) ++ (s.qcbMoved.map (·.2)) ++ (List.range 256).map (s.qcbBase / 4096 + ·)).all fun f => !on f || ms.any fun m => m.1 == f) = true) ∧
    ((serve (live) fun s => s.lanes[17] / 2 ^ 3 % 2 == 1 && s.lanes[17] != 2 ^ 3) = true) ∧
    ((serve ({ live with lanes := live.lanes.set 0 8 }) fun s => s.lanes[0] == 2 ^ 3) = true) ∧
    ((serve (live) fun s => decide (s.powerCap < 4000)) = true) := by
  decide +kernel

/-! ### Witnesses that need a value of an opaque constant: the signature check and the room of a region (log entries 4, 22) -/

/-- A policy of the set of slots 3 and 4, with its two signature records. -/
def aPolicy : List Byte :=
  natLe 4 0x31505945 ++ natLe 2 1 ++ natLe 1 2 ++ natLe 1 1 ++ natLe 32 0x18 ++ natLe 8 1 ++ natLe 8 (2 ^ 50) ++ natLe 8 (2 ^ 50 + 0xFFFF) ++
    natLe 8 4096 ++ natLe 8 1000 ++ natLe 2 0 ++ natLe 2 0 ++ natLe 44 0 ++ natLe 6 3 ++ natLe 114 0 ++ natLe 6 4 ++ natLe 114 0
theorem witness_PolicyInstall (all : Config.ed448Verify = fun _ _ _ => true) :
    serve tenanted (fun s => policyFieldsOk aPolicy && s.signedBy (policyLset aPolicy) (policySigs aPolicy) (aPolicy.take 128) &&
      decide (s.tstep < fieldAt aPolicy 0x48 8) && (List.range 256).any fun i => s.policies.all fun p => p.idx != i) = true := by
  unfold State.signedBy; rw [all]; decide +kernel
theorem witness_JointRegion (all : Config.ed448Verify = fun _ _ _ => true) :
    serve { tenanted with labels := [(1, BitVec.ofNat 256 0x18)] } (fun s => let r : JointReq := ⟨BitVec.ofNat 256 0x18, [0x400, 0x401], [1], [1, 2], [(3, [5]), (4, [6])]⟩
      decide (2 ≤ Label.count r.lset) && Label.clear0 r.lset == r.lset && s.signedBy r.lset r.sigs r.body && s.canIntern r.lset &&
        decide (Sound s) && s.tlbiNow.isNone && r.frames.all fun f => deviceOk (4096 * f) && !s.outOfService f && !s.frameHeld f && (s.tagOf (4096 * f)).owner.isNone) = true := by
  unfold State.signedBy; rw [all]; decide +kernel
/-- A module with two owner keys. -/
def keyed : State := { live with keys := (live.keys.set 0 ⟨[1], true, false⟩).set 3 ⟨[2], true, false⟩, fwrec := true }
theorem witness_ImagesAndKeys (all : Config.ed448Verify = fun _ _ _ => true) :
    (bistPasses ([unitName 0 1 0 2 3, unitName 0 15 31 0x12 5].filter unitOk) && unitOk (unitName 0 15 31 0x12 5) && keyed.imageOk ([7], [8]) && keyed.fwrec &&
      !(keyed.keySlot 2).filled && keyed.signedByOther 2 0 (natLe 1 2 ++ [9]) [8] &&
      (keyed.keySlot 3).usable && keyed.signedByOther 3 0 (natLe 1 3) [8] && (List.range 4).any fun i => i != 3 && (keyed.keySlot i).usable) = true := by
  unfold State.signedByOther State.imageOk; rw [all]; decide +kernel

/-! ### Single steps. The values are worked out by hand from the rules named. -/

/-- The instruction answers a next state of which `p` holds. -/
def after (i : Instr) (s : State) (p : State → Bool) : Bool :=
  match exec i s with
  | .next t => p t
  | _ => false
/-- x63 after a word that reads x1 = `a` and x2 = `b`, with the program counter moved on. -/
def gives (i : Instr) (a b v : W64) : Bool :=
  after i (withX live [(1, a), (2, b)]) fun t => t.core.vx 63 == v && t.pc .c == 0x1004

/-- R283, R351, R335: sums, differences and products wrap; the high half of a product is signed or not. -/
theorem test_arithmetic :
    gives (.add plain 63 1 2) 0xFFFFFFFFFFFFFFFF 2 1 ∧ gives (.addImm plain 63 1 0x7FF) 0 0 0xFFFFFFFFFFFFFFFF ∧
    gives (.sub plain 63 1 2) 3 5 0xFFFFFFFFFFFFFFFE ∧ gives (.mul plain 63 1 2) 0xFFFFFFFFFFFFFFFF 3 0xFFFFFFFFFFFFFFFD ∧
    gives (.mulh plain 63 1 2 false) 0xFFFFFFFFFFFFFFFF 0xFFFFFFFFFFFFFFFF 0 ∧
    gives (.mulh plain 63 1 2 true) 0xFFFFFFFFFFFFFFFF 0xFFFFFFFFFFFFFFFF 0xFFFFFFFFFFFFFFFE := by decide +kernel
/-- R311, R344: division truncates; its corners; the remainder takes the sign of the dividend. -/
theorem test_division :
    gives (.div plain 63 1 2 false) 0xFFFFFFFFFFFFFFF9 2 0xFFFFFFFFFFFFFFFD ∧ gives (.div plain 63 1 2 false) 0x8000000000000000 0xFFFFFFFFFFFFFFFF 0x8000000000000000 ∧
    gives (.div plain 63 1 2 true) 7 0 0xFFFFFFFFFFFFFFFF ∧ gives (.rem plain 63 1 2 false) 0xFFFFFFFFFFFFFFF9 2 0xFFFFFFFFFFFFFFFF ∧
    gives (.rem plain 63 1 2 true) 7 0 7 ∧ gives (.rem plain 63 1 2 false) 0x8000000000000000 0xFFFFFFFFFFFFFFFF 0 := by decide +kernel
/-- R347: amounts from a register are taken modulo 64; SRA copies bit 63. R291, R341, R384. -/
theorem test_shifts_and_logic :
    gives (.shl plain 63 1 2 false) 13 70 832 ∧ gives (.shl plain 63 1 6 true) 13 0 832 ∧ gives (.shr plain 63 1 61 true) 0x8000000000000000 0 4 ∧
    gives (.sra plain 63 1 2 false) 0xFFFFFFFFFFFFFFF8 1 0xFFFFFFFFFFFFFFFC ∧ gives (.and plain 63 1 2) 0xC 0xA 8 ∧ gives (.or plain 63 1 2) 0xC 0xA 0xE ∧
    gives (.xor plain 63 1 2) 0xC 0xA 6 ∧ gives (.andImm plain 63 1 0x7FE) 0xFFFFFFFFFFFFFFFF 0 0xFFFFFFFFFFFFFFFE := by decide +kernel
/-- R348, R326, R303, R342, R323, R305. -/
theorem test_compares_and_counts :
    gives (.slt plain 63 1 2) 0xFFFFFFFFFFFFFFFF 0 1 ∧ gives (.sltu plain 63 1 2) 0xFFFFFFFFFFFFFFFF 0 0 ∧ gives (.sltImm plain 63 1 0x400) 0 0 0 ∧
    gives (.min plain 63 1 2 false) 0xFFFFFFFFFFFFFFFF 1 0xFFFFFFFFFFFFFFFF ∧ gives (.max plain 63 1 2 false) 0xFFFFFFFFFFFFFFFF 1 1 ∧
    gives (.min plain 63 1 2 true) 0xFFFFFFFFFFFFFFFF 1 1 ∧ gives (.clz plain 63 1) 1 0 63 ∧ gives (.popc plain 63 1) 0xF0F 0 8 ∧
    gives (.lui plain 63 0x1FFFF) 0 0 0x0FFFF800 ∧ gives (.csel plain 63 1 2) 7 9 9 := by decide +kernel
/-- R300, R316, R317: branches and jumps count words from their own address; the link is the next word. -/
theorem test_branches :
    after (.br plain .lt 1 2 0xFF) (withX live [(1, 0xFFFFFFFFFFFFFFFF)]) (fun t => t.pc .c == 0xFFC) ∧
    after (.br plain .ltu 1 2 0xFF) (withX live [(1, 0xFFFFFFFFFFFFFFFF)]) (fun t => t.pc .c == 0x1004) ∧
    after (.jal plain 63 0x1FFFF) live (fun t => t.pc .c == 0xFFC && t.core.vx 63 == 0x1004) ∧
    after (.jalr plain 1 1 0x004) (withX live [(1, 0x2000)]) (fun t => t.core.vx 1 == 0x1004) := by decide +kernel
/-- R278, R288, R290, R294. -/
theorem test_address_words :
    after (.asub plain 31 1 2) (withA live [(1, 3), (2, 5)]) (fun t => t.core.va 31 == 0xFFFFFFFFFFFFFFFE && t.pc .a == 0x1004) ∧
    after (.aaddImm plain 31 1 0x1FFF) (withA live [(1, 3)]) (fun t => t.core.va 31 == 2) ∧
    after (.ashr plain 31 1 60) (withA live [(1, 0xF000000000000000)]) (fun t => t.core.va 31 == 15) ∧
    after (.aloop plain 1 0x3FD) (withA live []) (fun t => t.core.va 1 == 0xFFFFFFFFFFFFFFFF && t.pc .a == 0xFF4) ∧
    after (.aloop plain 1 0x3FD) (withA live [(1, 1)]) (fun t => t.core.va 1 == 0 && t.pc .a == 0x1004) := by decide +kernel

/-- R73, R357, R365, R369: FP32 sums and products round to nearest even, INT32 wraps, an index or an immediate as INT32 and as FP32. -/
theorem test_vector_elements :
    opAdd false false 0x3F800000 0x40000000 = 0x40400000 ∧ opAdd false false 0x4B800000 0x3F800000 = 0x4B800000 ∧
    opMul false false 0xC0000000 0x3F000000 = 0xBF800000 ∧ opSub true false 0 1 = 0xFFFFFFFF ∧ opFma false false 0x40000000 0x40400000 0x3F800000 = 0x40E00000 ∧
    opMin false false 0 0x80000000 = 0x80000000 ∧ opMax false false 0x7F800001 0 = 0x7FC00000 ∧
    intCont true (-4) = 0xFFFFFFFC ∧ intCont false (-4) = 0xC0800000 := by decide +kernel
/-- The examples of R373 (the tree of a row, the order of a column) and of R106. -/
theorem test_vector_reductions :
    let add := opAdd false false
    treeReduce add ([0x4B800000, 0x3F800000, 0x3F800000] ++ List.replicate 61 0) = 0x4B800000 ∧
    seqReduce add ([0x3F800000, 0x3F800000, 0x4B800000] ++ List.replicate 13 0) = 0x4B800001 ∧
    seqReduce add ([0x4B800000, 0x3F800000, 0x3F800000] ++ List.replicate 13 0) = 0x4B800000 ∧
    topK false 3 [(0x40400000, 70), (0x40A00000, 12), (0x40A00000, 9), (0x7FC00000, 2)] =
      [(0x40A00000, 9), (0x40A00000, 12), (0x40400000, 70)] := by decide +kernel
/-- The examples of R76 and R362: FP32 500.0 and 464.0 to E4M3 and back. -/
theorem test_conversions :
    convert .f32 .e4m3 .rne false false 0x43FA0000 = 0x7F ∧ convert .f32 .e4m3 .rne true false 0x43FA0000 = 0x7E ∧
    convert .f32 .e4m3 .rtz false false 0x43FA0000 = 0x7E ∧ convert .f32 .e4m3 .rne false false 0x43E80000 = 0x7E ∧
    convert .e4m3 .f32 .rne false false 0x7E = 0x43E00000 ∧ convert .e4m3 .f32 .rne false false 0x7F = 0x7FC00000 := by decide +kernel
/-- The example of R80 and R81: the fields of a format word. -/
theorem test_format_word :
    let w : W64 := 0x8045238010000660
    fwStrict w ∧ fwOty w = .bf16 ∧ fwOrnd w = .rne ∧ fwOsat w ∧ fwSparse w = 1 ∧ fwAsrg w = 2 ∧ fwBsrg w = 3 ∧ fwBand w ∧ fwBandPtr w = 0x1000 ∧
      fwA w = 6 ∧ fwB w = 6 := by decide
/-- The example of R86: four contributions with E = −4 read as −5.4375. -/
theorem test_accumulator :
    let add := fun (w : Acc256) (v : W32) (s : Int) => addContribution w v s (-4)
    (add (add (add (add .zero 0x3F800000 0) 0x3D000000 0) 0xC0500000 1) 0x3E400000 (-1)).readout (-4) = 0xC0AE0000 := by decide +kernel
/-- The examples of R153, R156 and R260: a home, and the name of a unit. -/
theorem test_homes :
    homeDie 0x14000001040 = 5 ∧ sliceOf 0x14000001040 = 3 ∧ unitName 3 5 12 6 17 = 0x35606011 := by decide
/-- An operand of one-byte elements, one of which could not be read. -/
def operand (side rows len row col : Nat) : OpRows :=
  ⟨side, false, .scr 0 0, len, [], (List.range rows).map fun r => (List.range len).map fun c => if r = row ∧ c = col then .fault 0x48 else .val 1⟩
/-- The example of R131: the maps of two cuts of a tile of 3 by 4 cells. -/
theorem test_progress_maps :
    let t := { aRun.t with m := 3, n := 4, kstep := 8 }
    let cut := fun (r : Run) (kr : Nat) =>
      let f := r.firstFault kr
      let r := { r with stopA := r.stops kr 0 3 f, stopB := r.stops kr 1 4 f }
      let r := { r with entered := r.limit }
      (f.map (·.e), r.cells.map fun c => r.count c.1 c.2)
    let r1 := { aRun with q := 8, t := t, nprev := List.replicate 12 0, entered := 0, ops := [operand 0 3 8 9 9, operand 1 8 4 5 2] }
    let r2 := { r1 with nprev := [7, 6, 5, 4, 6, 6, 5, 4, 5, 5, 5, 4], ops := [operand 0 3 8 1 7, operand 1 8 4 9 9] }
    cut r1 0 = (some 7, [7, 6, 5, 4, 6, 6, 5, 4, 5, 5, 5, 4]) ∧ cut r2 4 = (some 8, [8, 7, 6, 5, 7, 7, 6, 5, 6, 6, 6, 5]) := by decide +kernel
/-- R166, R322: bytes are read little-endian and zero-extended. R167: a store writes its bytes at its home. -/
theorem test_memory :
    after (.loadPerform 0 .c 0 ⟨false, none⟩) (State.modCore { live with mem := memPut [] 0x201000 [0x80, 0xFF] } fun k =>
      { k with c := { k.c with lq := [⟨4, 4, .load [(0x100000, .mem 0x201000, false), (0x100000, .mem 0x201001, false)] [none, none] (.x 63 0), none⟩] } })
      (fun t => t.core.vx 63 == 0xFF80) ∧
    after (.storePerform 0 .c []) (live.modCore fun k =>
      { k with c := { k.c with sq := [⟨4, 4, .store [(.mem 0x201000, 0x34), (.mem 0x201001, 0x12)] true false none [], 0, 0x1000, [], none⟩] } })
      (fun t => memBytes t.mem 0x201000 2 == [0x34, 0x12] && t.core.c.sq.isEmpty) := by decide +kernel
/-- R251, R354: TRAP enters the handler; R253: without one the stream stops. R235: PBADD adds to the budget. -/
theorem test_traps_and_services :
    after (.trap plain 9) (live.modCore fun k => { k with csr := { k.csr with tvec := 0x2000 } }) (fun t => t.pc .c == 0x2000 && t.core.c.bank.cause == 5 && t.core.c.bank.tval == 9 && t.core.c.bank.epc == 0x1000) ∧
    after (.trap plain 9) live (fun t => t.core.c.stop == .held) ∧ after (.pbadd 3 7) live (fun t => (t.part 3).budget == 7) ∧
    after (.overTempShutdown 1 110) live (fun t => t.viral) := by decide +kernel

/-- A VAMO at the heads of its queues, with its last container to do. -/
def vamoEntry : SEnt := ⟨3, 3, .atomic (.vamo .add 64 1023 false false (BitVec.allOnes 1024) (Vector.replicate 1024 0)), 0, 0x1FFC, [], none⟩
def vamoHeads : State := withStrm live .v fun t => { t with sq := [vamoEntry], lq := [⟨3, 3, .atomic, none⟩] }

theorem witness_VectorAtomicsReadAndWrite : nextOn (BitVec.allOnes 1024) 1024 1023 = 1023 ∧ Sound (vamoHeads.focus 0) ∧
    HeadStore (vamoHeads.focus 0) .v vamoEntry ∧ (vamoHeads.focus 0).core.v.atomReady vamoEntry = true :=
  ⟨by decide +kernel, by decide +kernel, ⟨rfl, by decide +kernel⟩, by decide +kernel⟩

end Sys2Proof.Tests
end

section
/-! SUPPORT. R303 and R301: the fields of a word of format CR, the count of leading zeros, and the two statements about CLZ and BRK. -/

namespace Sys2Proof.Proofs
open Sys2Proof Sys2Proof.Machine Sys2Proof.Claims

/-! ### Fields of a word of format CR (R38) -/

@[simp] theorem hdr_crWord (h : Hdr) {op : Nat} (hop : op < 64) (d a b : Fin 64) : hdr (crWord h op d a b) = h := by
  have hw := Bool.toNat_le h.w
  have hs := Bool.toNat_le h.s
  have hk := Bool.toNat_le h.k
  have h31 : fld (crWord h op d a b) 31 1 = h.w.toNat := by unfold fld crWord; omega
  have h30 : fld (crWord h op d a b) 30 1 = h.s.toNat := by unfold fld crWord; omega
  have h29 : fld (crWord h op d a b) 29 1 = h.k.toNat := by unfold fld crWord; omega
  simp only [hdr, h31, h30, h29, Bool.toNat_beq_one]

@[simp] theorem op_crWord (h : Hdr) {op : Nat} (hop : op < 64) (d a b : Fin 64) : fld (crWord h op d a b) 23 6 = op := by
  unfold fld crWord; omega

@[simp] theorem xd_crWord (h : Hdr) (op : Nat) (d a b : Fin 64) : fld (crWord h op d a b) 17 6 = d.val := by
  unfold fld crWord; omega

@[simp] theorem xa_crWord (h : Hdr) (op : Nat) (d a b : Fin 64) : fld (crWord h op d a b) 11 6 = a.val := by
  unfold fld crWord; omega

/-- The fields xb and fn together: fn is 0. -/
@[simp] theorem low_crWord (h : Hdr) (op : Nat) (d a b : Fin 64) : fld (crWord h op d a b) 0 11 = b.val * 32 := by
  unfold fld crWord; omega

theorem encWord_eq_crWord (h : Hdr) (op : Nat) (d a : Fin 64) :
    encWord h op (d.val * 131072 + a.val * 2048) = crWord h op d a 0 := by
  simp only [encWord, crWord, Fin.val_zero]; omega

/-! ### CLZ (R303) -/

theorem encode_clz (h : Hdr) (d a : Fin 64) : encode (.clz h d a) = some (crWord h 0x16 d a 0) :=
  congrArg some (encWord_eq_crWord h 0x16 d a)

theorem decode_crWord_clz (h : Hdr) (d a : Fin 64) : decode false .c (crWord h 0x16 d a 0) = .ok (.clz h d a) := by
  have raw : rawDecode .c (crWord h 0x16 d a 0) = .ok (.clz h d a) := by
    simp [rawDecode, rawC, zeros]
  rw [decode, raw]
  rfl

theorem leadingZeros_zero : leadingZeros 0 = 64 := rfl

/-- Bit `63 - leadingZeros x` is the highest set bit of `x`. -/
theorem leadingZeros_of_ne_zero {x : W64} (hx : x ≠ 0) :
    leadingZeros x < 64 ∧ 2 ^ (63 - leadingZeros x) ≤ x.toNat ∧ x.toNat < 2 ^ (64 - leadingZeros x) := by
  have hn : x.toNat ≠ 0 := fun h => hx (BitVec.eq_of_toNat_eq h)
  have hlog : x.toNat.log2 < 64 := (Nat.log2_lt hn).2 x.isLt
  have hlz : leadingZeros x = 63 - x.toNat.log2 := if_neg hx
  have low : 63 - leadingZeros x = x.toNat.log2 := by omega
  have high : 64 - leadingZeros x = x.toNat.log2 + 1 := by omega
  rw [low, high]
  exact ⟨by omega, Nat.log2_self_le hn, Nat.lt_log2_self⟩

/-- A word whose whole effect is `xd := f`, read from the registers `rs` (R299). -/
theorem scalar_completes {i : Instr} {h : Hdr} {rs : List (Fin 64)} {d : Fin 64} {f : Core → W64}
    (hx : ∀ s, exec i s = runWord i .c h (scalar rs d f) s) : Scalar i h rs d fun s => f s.core :=
  completes_of (by decide) hx fun s1 hok =>
    ⟨_, scalar_ok rs d f s1 hok.1 hok.2, rfl, rfl, rfl, fun hb => absurd hb Bool.false_ne_true⟩

theorem clz_scalar (h : Hdr) (d a : Fin 64) :
    Scalar (.clz h d a) h [a] d fun s => BitVec.ofNat 64 (leadingZeros (s.core.vx a)) :=
  scalar_completes (f := fun k => BitVec.ofNat 64 (leadingZeros (k.vx a))) fun _ => rfl

/-- Settles O13: the fields of the word, and the count read off the binary logarithm. -/
theorem clzCountsLeadingZeros : Obligations.ClzCountsLeadingZeros := by
  unfold Obligations.ClzCountsLeadingZeros
  exact ⟨fun h d a => ⟨encode_clz h d a, decode_crWord_clz h d a⟩, decode_crWord_clz plain 4 5, leadingZeros, clz_scalar,
    leadingZeros_zero, fun _ => leadingZeros_of_ne_zero⟩

/-! ### BRK (R301) -/

theorem encode_brk (st : Stream) (h : Hdr) (c : BitVec 18) : encode (.brk st h c) =
    some (h.w.toNat * 2 ^ 31 + h.s.toNat * 2 ^ 30 + h.k.toNat * 2 ^ 29 + 0x3F * 2 ^ 23 + 5 * 2 ^ 18 + c.toNat) := by
  simp only [encode, encWord, Option.some.injEq]; omega

/-- The common group comes before the table of any stream (R51). -/
theorem decode_brk_seven (st : Stream) : decode false st 0x1F940007 = .ok (.brk st plain 7#18) := rfl

theorem quietly_of_quiet {st : Stream} {s : State} (f : Body) (hq : st = .m → s.core.m.infl = []) : quietly st f s = f s := by
  refine if_pos ?_
  cases st with
  | m => simp [State.mQuiet, hq rfl]
  | c | a | v => rfl

theorem brk_traps (st : Stream) (h : Hdr) (c : BitVec 18) :
    Traps (.brk st h c) st h (fun s => st = .m → s.core.m.infl = []) 4 (fun _ => c.setWidth 64) fun s => s.clab st :=
  traps_of (fun _ => rfl) fun _ hq => quietly_of_quiet _ hq

/-- Settles O20: with no older word of the M-stream in flight, the word's body is the trap alone. -/
theorem brkRaisesTheBreakpointTrap : Obligations.BrkRaisesTheBreakpointTrap := by
  unfold Obligations.BrkRaisesTheBreakpointTrap
  exact ⟨encode_brk, decode_brk_seven, rfl, brk_traps⟩

end Sys2Proof.Proofs
end

section
/-! SUPPORT. R342: the count of set bits, and the statement about POPC. -/

namespace Sys2Proof.Proofs
open Sys2Proof Sys2Proof.Machine Sys2Proof.Claims

theorem encode_popc (h : Hdr) (d a : Fin 64) : encode (.popc h d a) = some (crWord h 0x17 d a 0) :=
  congrArg some (encWord_eq_crWord h 0x17 d a)

theorem decode_crWord_popc (h : Hdr) (d a : Fin 64) : decode false .c (crWord h 0x17 d a 0) = .ok (.popc h d a) := by
  have raw : rawDecode .c (crWord h 0x17 d a 0) = .ok (.popc h d a) := by
    simp [rawDecode, rawC, zeros]
  rw [decode, raw]
  rfl

/-- The elements that satisfy a test, counted one by one. -/
theorem length_filter_eq_sum_toNat {α : Type} (p : α → Bool) (l : List α) :
    (l.filter p).length = (l.map fun x => (p x).toNat).sum := by
  induction l with
  | nil => rfl
  | cons x xs ih =>
    rw [List.map_cons, List.sum_cons, ← ih]
    cases hp : p x with
    | false => simp [hp]
    | true => simp [hp, Nat.add_comm]

theorem popCount_eq_sum (x : W64) : popCount x = ((List.range 64).map fun i => (x.getLsbD i).toNat).sum :=
  length_filter_eq_sum_toNat _ _

theorem popCount_le (x : W64) : popCount x ≤ 64 :=
  calc popCount x ≤ (List.range 64).length := List.length_filter_le _ _
    _ = 64 := List.length_range

theorem popc_scalar (h : Hdr) (d a : Fin 64) :
    Scalar (.popc h d a) h [a] d fun s => BitVec.ofNat 64 (popCount (s.core.vx a)) :=
  scalar_completes (f := fun k => BitVec.ofNat 64 (popCount (k.vx a))) fun _ => rfl

/-- Settles O14: the fields of the word, and the length of a filtered list as a sum over its bits. -/
theorem popcCountsSetBits : Obligations.PopcCountsSetBits := by
  unfold Obligations.PopcCountsSetBits
  exact ⟨fun h d a => ⟨encode_popc h d a, decode_crWord_popc h d a⟩, decode_crWord_popc plain 4 5, popCount, popc_scalar,
    fun x => ⟨popCount_le x, popCount_eq_sum x⟩⟩

end Sys2Proof.Proofs
end
